-- ==== Sys2Proof/Word.lean ====
section
/-! DEFINITION. The word types of the module and the plain bit-field arithmetic every other file uses.
Multi-byte values are little-endian and bit 0 is the least significant bit (R5). -/

namespace Sys2Proof

/-- A 64-bit register or scalar (R9, R264). -/
abbrev Word := BitVec 64
/-- One byte of memory. -/
abbrev Byte := BitVec 8
/-- A 64-byte engine descriptor, bits [511:0] counted from bit 0 of byte 0 (chapter Scope, "Descriptors"). -/
abbrev Desc := BitVec 512

/-- The `w` bits of `x` from bit `lo` up, as a number. -/
def getF {n : Nat} (x : BitVec n) (lo w : Nat) : Nat := (x.toNat >>> lo) % 2 ^ w

/-- Bit `i` of `x`. -/
def getB {n : Nat} (x : BitVec n) (i : Nat) : Bool := x.toNat.testBit i

/-- `x` with the `w` bits from bit `lo` up replaced by `v` (taken modulo `2 ^ w`). -/
def setF {n : Nat} (x : BitVec n) (lo w v : Nat) : BitVec n :=
  BitVec.ofNat n (x.toNat - getF x lo w * 2 ^ lo + (v % 2 ^ w) * 2 ^ lo)

/-- `b` as 0 or 1. -/
def bit (b : Bool) : Nat := if b then 1 else 0

/-- A number as `n` little-endian bytes. -/
def leBytes : Nat → Nat → List Byte
  | 0, _ => []
  | n + 1, v => BitVec.ofNat 8 v :: leBytes n (v / 256)

/-- Little-endian bytes as a number. -/
def ofLE : List Byte → Nat
  | [] => 0
  | b :: bs => b.toNat + 256 * ofLE bs

/-- `x` rounded up to a multiple of `m`. -/
def roundUp (x m : Nat) : Nat := (x + (m - 1)) / m * m

/-- `a / b`, rounded up. -/
def ceilDiv (a b : Nat) : Nat := (a + (b - 1)) / b

/-- A number read as a `w`-bit two's complement integer. -/
def toSigned (w v : Nat) : Int := if v % 2 ^ w < 2 ^ (w - 1) then (v % 2 ^ w : Nat) else ((v % 2 ^ w : Nat) : Int) - (2 ^ w : Nat)

/-- An integer wrapped to `w` bits. -/
def ofSigned (w : Nat) (v : Int) : Nat := (v % ((2 ^ w : Nat) : Int)).toNat

end Sys2Proof
end

