-- ==== Sys2Proof/Syntax.lean ====
section
/-! DEFINITION. The commands of the module: one constructor of `Instr` per row of the spec's table of operations and events, with the
row's operands. Fields are given with the width the spec gives them, so that illegal encodings can be written down. -/

namespace Sys2Proof

/-- Who performs a register access or sends a request (chapters Scope, 18 and 22). -/
inductive Agent where
  | host
  | steward
  | core (t : BitVec 8)
  | jtag
  deriving DecidableEq, Repr

/-- What an error-correcting decoder found (R282, R355, R403, R404). -/
inductive Ecc where
  | clean
  | corrected
  | uncorrectable
  deriving DecidableEq, Repr

/-- A fault message (Table 20-1). -/
structure Msg where
  source : BitVec 16
  kind : BitVec 8
  level : BitVec 2
  addrValid : Bool
  injected : Bool
  addr : BitVec 56
  time : BitVec 40
  deriving DecidableEq, Repr

/-- A fabric packet's arrival: the port it arrives on and the header's fields (Table 16-3). -/
structure Hdr where
  port : BitVec 5
  hop : BitVec 3
  nonmin : Bool
  via : BitVec 7
  src : BitVec 11
  dst : BitVec 11
  lc : Bool
  poison : Bool
  /-- data bytes requested or carried, minus 1 -/
  len : BitVec 11
  addr : BitVec 45
  tag : BitVec 24
  /-- no reserved bit is set (R427) -/
  wellFormed : Bool
  deriving DecidableEq, Repr

/-- The control slot of a flit (Table 16-2). -/
structure Flit where
  seq : BitVec 12
  ack : BitVec 12
  nak : Bool
  /-- credit returns: virtual channel, hop class, 64-byte units -/
  credits : List (BitVec 3 × BitVec 3 × BitVec 6)
  /-- codewords corrected by the FEC -/
  fecCorrected : Nat
  /-- the FEC decoded the flit -/
  fecOk : Bool
  /-- the CRC holds -/
  crcOk : Bool
  deriving DecidableEq, Repr

/-- The commands. Mailbox commands carry the request length and the tag the host writes to MBX_CMD; tile-core instructions carry the
tile and the fields of their format (Table 9-1); expiries carry the device time at which they occur. -/
inductive Instr where
  -- mailbox commands (Table 18-7)
  | identify (len : BitVec 15) (tag : BitVec 16)
  | getStatus (len : BitVec 15) (tag : BitVec 16)
  | getTelemetry (len : BitVec 15) (tag : BitVec 16)
  | loadPlan (len : BitVec 15) (tag : BitVec 16)
  | unloadPlan (len : BitVec 15) (tag : BitVec 16)
  | run (len : BitVec 15) (tag : BitVec 16)
  | stop (len : BitVec 15) (tag : BitVec 16)
  | queryRun (len : BitVec 15) (tag : BitVec 16)
  | allocRegion (len : BitVec 15) (tag : BitVec 16)
  | freeRegion (len : BitVec 15) (tag : BitVec 16)
  | tablePublish (len : BitVec 15) (tag : BitVec 16)
  | setCap (len : BitVec 15) (tag : BitVec 16)
  | setPolicy (len : BitVec 15) (tag : BitVec 16)
  | setPersistent (len : BitVec 15) (tag : BitVec 16)
  | readLog (len : BitVec 15) (tag : BitVec 16)
  | clearFault (len : BitVec 15) (tag : BitVec 16)
  | injectFault (len : BitVec 15) (tag : BitVec 16)
  | traceCtrl (len : BitVec 15) (tag : BitVec 16)
  | memTest (len : BitVec 15) (tag : BitVec 16)
  | memRemap (len : BitVec 15) (tag : BitVec 16)
  | linkTrain (len : BitVec 15) (tag : BitVec 16)
  | setFabricId (len : BitVec 15) (tag : BitVec 16)
  | twinPair (len : BitVec 15) (tag : BitVec 16)
  | twinTakeover (len : BitVec 15) (tag : BitVec 16)
  | fwUpdate (len : BitVec 15) (tag : BitVec 16)
  | attest (len : BitVec 15) (tag : BitVec 16)
  | enterRest (len : BitVec 15) (tag : BitVec 16)
  | deviceReset (len : BitVec 15) (tag : BitVec 16)
  -- mailbox and host interface events
  | mbxAck
  | mbxPayloadWrite (off : BitVec 14) (bytes : List Byte)
  | mailboxComplete
  | hstLoadProdWrite (bytes : BitVec 64)
  | loadStalled (time : Nat)
  | hstAbort (key : BitVec 32)
  | abortComplete
  | evqEnable (cfg : BitVec 64)
  | evqHeadWrite (head : BitVec 32)
  | evqCoalesceTimer (time : Nat)
  | evqWriteError
  | bar2Read (off : BitVec 36) (len : Nat)
  | bar2Write (off : BitVec 36) (bytes : List Byte) (ep : Bool)
  | hstDbSignal (page : BitVec 8) (amount : BitVec 32)
  | hstDbTally (page : BitVec 8) (amount : BitVec 32)
  | hstDbWq (page : BitVec 8) (tail : BitVec 32)
  | registerWrite (who : Agent) (addr : BitVec 45) (size : Nat) (value : BitVec 64)
  | counterClear (who : Agent) (addr : BitVec 45)
  -- tile core instructions (Table 9-2)
  | alu (t : BitVec 8) (rd ra rb : BitVec 5) (fn : BitVec 11)
  | addi (t : BitVec 8) (rd ra : BitVec 5) (imm : BitVec 16)
  | andi (t : BitVec 8) (rd ra : BitVec 5) (imm : BitVec 16)
  | ori (t : BitVec 8) (rd ra : BitVec 5) (imm : BitVec 16)
  | xori (t : BitVec 8) (rd ra : BitVec 5) (imm : BitVec 16)
  | shi (t : BitVec 8) (rd ra : BitVec 5) (imm : BitVec 16)
  | movw (t : BitVec 8) (rd ra : BitVec 5) (imm : BitVec 16)
  | cmp (t : BitVec 8) (rd ra rb : BitVec 5) (fn : BitVec 11)
  | pred (t : BitVec 8) (rd ra rb : BitVec 5) (fn : BitVec 11)
  | csel (t : BitVec 8) (rd ra rb : BitVec 5) (fn : BitVec 11)
  | f32 (t : BitVec 8) (rd ra rb : BitVec 5) (fn : BitVec 11)
  | f64 (t : BitVec 8) (rd ra rb : BitVec 5) (fn : BitVec 11)
  | cvt (t : BitVec 8) (rd ra rb : BitVec 5) (fn : BitVec 11)
  | ld (t : BitVec 8) (rd ra : BitVec 5) (sz : BitVec 3) (off : BitVec 13)
  | st (t : BitVec 8) (rd ra : BitVec 5) (sz : BitVec 3) (off : BitVec 13)
  | csrr (t : BitVec 8) (rd ra : BitVec 5) (imm : BitVec 16)
  | csrw (t : BitVec 8) (rd ra : BitVec 5) (imm : BitVec 16)
  | fence (t : BitVec 8) (rsv : BitVec 26)
  | br (t : BitVec 8) (p : BitVec 3) (neg al : Bool) (off : BitVec 21)
  | call (t : BitVec 8) (p : BitVec 3) (neg al : Bool) (off : BitVec 21)
  | jr (t : BitVec 8) (rd ra rb : BitVec 5) (fn : BitVec 11)
  | reti (t : BitVec 8) (rsv : BitVec 26)
  | yield_ (t : BitVec 8) (rsv : BitVec 26)
  | end_ (t : BitVec 8) (rsv : BitVec 26)
  | signal (t : BitVec 8) (ra rb : BitVec 5) (num : BitVec 12)
  | wait (t : BitVec 8) (ra rb : BitVec 5) (num : BitVec 12)
  | take (t : BitVec 8) (ra rb : BitVec 5) (num : BitVec 12)
  | tallyAdd (t : BitVec 8) (ra rb : BitVec 5) (num : BitVec 12)
  | tallyWait (t : BitVec 8) (ra rb : BitVec 5) (num : BitVec 12)
  | barrierArrive (t : BitVec 8) (ra rb : BitVec 5) (num : BitVec 12)
  | signalAt (t : BitVec 8) (ra rb : BitVec 5) (num : BitVec 12)
  | tallyAddAt (t : BitVec 8) (ra rb : BitVec 5) (num : BitVec 12)
  | issue (t : BitVec 8) (eng : BitVec 3) (tryBit : Bool) (pd : BitVec 3) (ra : BitVec 5) (rsv : BitVec 14)
  -- core and dispatcher events
  | interruptTake (t : BitVec 8)
  | taskStart (t : BitVec 8)
  | taskResume (t : BitVec 8)
  | taskComplete (t : BitVec 8) (id : Nat)
  | steal (c : BitVec 4)
  | preemptRequest (c : BitVec 4)
  | preemptGrace (t : BitVec 8) (time : Nat)
  | suspendComplete (t : BitVec 8)
  | wqTailWrite (t : BitVec 8) (q : BitVec 8) (tail : BitVec 32)
  -- forager: the operation at the head of the tile's queue begins
  | gatherRows (t : BitVec 8)
  | walk (t : BitVec 8)
  | sample (t : BitVec 8)
  | scatter (t : BitVec 8)
  | atomic (t : BitVec 8)
  | expand (t : BitVec 8)
  | intersectCount (t : BitVec 8)
  | prefetch (t : BitVec 8)
  | fetchResponse (t : BitVec 8) (slot : BitVec 12) (ecc : Ecc)
  | foragerComplete (t : BitVec 8) (job : Nat)
  -- comb unit
  | combCreditGrant (t : BitVec 8)
  | mergeOpen (t : BitVec 8)
  | mergeClose (t : BitVec 8)
  | partialRow (t : BitVec 8)
  -- matrix and vector engines
  | matmul (t : BitVec 8)
  | matmulOutputBlock (t : BitVec 8)
  | chain (t : BitVec 8)
  | softmax (t : BitVec 8)
  | vectorRingBlock (t : BitVec 8)
  | vectorComplete (t : BitVec 8)
  -- porter
  | stream (t : BitVec 8) (c : BitVec 4)
  | waybillLoop (t : BitVec 8) (c : BitVec 4)
  | addAddr (t : BitVec 8) (c : BitVec 4)
  | loadIndex (t : BitVec 8) (c : BitVec 4)
  | emit (t : BitVec 8) (c : BitVec 4)
  | waybillSignal (t : BitVec 8) (c : BitVec 4)
  | waybillWait (t : BitVec 8) (c : BitVec 4)
  | waybillPred (t : BitVec 8) (c : BitVec 4)
  | waybillEnd (t : BitVec 8) (c : BitVec 4)
  | chunkPerformed (t : BitVec 8) (c : BitVec 4) (n : BitVec 32) (hostData : List Byte) (time : Nat)
  | streamComplete (t : BitVec 8) (c : BitVec 4)
  | hostXferFail (t : BitVec 8) (c : BitVec 4) (n : BitVec 32)
  | stallLimit (t : BitVec 8) (c : BitVec 4) (time : Nat)
  -- synchronisation events
  | syncStall (t : BitVec 8) (who : BitVec 5) (time : Nat)
  | dieBarrierArrival (k : BitVec 5) (t : BitVec 8)
  | barrierRelease (t : BitVec 8) (k : BitVec 6)
  | notifyWriteError (t : BitVec 8) (j : BitVec 3)
  -- phase program of the plan in slot `s`
  | runPhase (s : BitVec 3)
  | planLoop (s : BitVec 3)
  | seal (s : BitVec 3)
  | planEnd (s : BitVec 3)
  | phaseDrained (s : BitVec 3)
  | phaseBarrierOpen (s : BitVec 3)
  | clusterStartStagger (c : BitVec 4) (time : Nat)
  | groupStagger (k : BitVec 5) (time : Nat)
  | policyTick (time : Nat)
  | replicaInsert
  | hubClaim (s : BitVec 3) (pool : Nat) (time : Nat)
  | moveNotice (home : BitVec 11)
  | movesDone (home : BitVec 11)
  -- tables
  | tblRdrLookup
  | tblRdrInsert
  | tblRdrRemove
  -- pantry
  | panInvalidate (who : Agent) (c : BitVec 4) (value : BitVec 64)
  | panInvalidateDone (c : BitVec 4)
  | panZero (t : BitVec 8) (loc : BitVec 64)
  | panCtrlWrite (who : Agent) (c : BitVec 4) (value : BitVec 64)
  | panPreload (who : Agent) (c : BitVec 4) (value : BitVec 64)
  | mergeEntryTimeout (c : BitVec 4) (slice : BitVec 4) (time : Nat)
  -- memory
  | mr4Poll (reports : List (BitVec 9 × BitVec 5)) (time : Nat)
  | patrolRead (ch : BitVec 9) (off : BitVec 34) (ecc : Ecc)
  | pageRetirement (ch : BitVec 9)
  | memTgStart (who : Agent) (ch : BitVec 9) (cfg : BitVec 64)
  | memTgDone (ch : BitVec 9) (errors : BitVec 32) (off : BitVec 34) (beat : BitVec 5) (badPages : List (BitVec 23))
  -- fabric links
  | flit (p : BitVec 5) (f : Flit)
  | portRetrain (p : BitVec 5)
  | portRetrainDone (p : BitVec 5) (lowOk highOk : Bool)
  | linkTrainingStep (p : BitVec 5) (lowOk highOk : Bool) (nbrDevice : BitVec 11) (nbrPort : BitVec 5) (servedByTwin : Bool)
  -- fabric packets arriving
  | pktRead (h : Hdr)
  | pktReadResp (h : Hdr) (data : List Byte)
  | pktWrite (h : Hdr) (data : List Byte)
  | pktAtomic (h : Hdr) (aop : BitVec 4) (w64 signed wantOld : Bool) (opnd cmp : BitVec 64)
  | pktAtomicResp (h : Hdr) (old : BitVec 64)
  | pktAck (h : Hdr)
  | pktError (h : Hdr) (code : BitVec 8)
  | pktSignal (h : Hdr) (tile : BitVec 8) (sem : BitVec 12) (amount : BitVec 32)
  | pktTally (h : Hdr) (tile : BitVec 8) (ctr : BitVec 12) (amount : BitVec 32)
  | pktBarArrive (h : Hdr) (ctx : BitVec 5) (gen : BitVec 2) (slot : BitVec 3)
  | pktPartial (h : Hdr) (tile : BitVec 8) (row : List Byte)
  | pktColl (h : Hdr) (ctx : BitVec 4) (seq : BitVec 8) (op redop : BitVec 4) (elems : BitVec 40) (stage : BitVec 2)
      (first : BitVec 40) (data : List Byte)
  | collectiveDone (ctx : BitVec 4)
  | pktMirror (h : Hdr) (data : List Byte)
  | noticeSlow (src : BitVec 11) (cause : BitVec 8) (time : Nat)
  | noticeDown (src subject : BitVec 11)
  | noticeHalt (src : BitVec 11)
  | noticeAbort (src : BitVec 11) (planId : BitVec 64)
  | noticeTakeover (src subject : BitVec 11)
  | noticeTakeoverEnd (src subject : BitVec 11)
  | noticeBeat (src : BitVec 11) (twinState : BitVec 8) (time : Nat)
  | pktProbe (h : Hdr)
  | pktProbeAck (h : Hdr)
  | pktMgmt (h : Hdr) (data : List Byte)
  | pktFence (h : Hdr) (fencer : BitVec 11)
  -- fabric and twin timers
  | reqTimeout (tag : BitVec 24) (time : Nat)
  | probeTimeout (target : BitVec 11) (time : Nat)
  | slowRenew (time : Nat)
  | slowExpire (peer : BitVec 11) (time : Nat)
  | twinBeatTimer (time : Nat)
  | twinBeatMiss (time : Nat)
  | twinProbeResult (alive : Bool)
  | fenceTimeout (time : Nat)
  -- ledger
  | faultMessage (m : Option Msg)
  | graceExpiry (source : BitVec 16) (kind : BitVec 8) (time : Nat)
  | quietPeriod (source : BitVec 16) (kind : BitVec 8) (time : Nat)
  | ldgAck (who : Agent) (value : BitVec 64)
  | ldgInjArm (who : Agent) (value : BitVec 64)
  | heartbeatToggle (time : Nat)
  -- governor and supply
  | govTick (powerW : BitVec 11) (time : Nat)
  | thermalSample (sensor : BitVec 7) (reading : BitVec 16) (time : Nat)
  | overcurrentWarning
  | fastLimitRelease (time : Nat)
  | thermtrip (sensor : BitVec 7)
  | brownoutEnter
  | brownoutExit (time : Nat)
  | powerFail (time : Nat)
  | holdupEnd (time : Nat)
  | vcoreDroop
  | vcoreSupervisor
  | auxLoss
  | auxPowerOn
  | pwrEnAssert
  | pwrEnRelease
  | moduleResetAssert
  | moduleResetRelease
  | perstAssert
  | perstRelease
  -- boot, reset and Rest
  | bootStageDone (ok : Bool) (failed : List (BitVec 9))
  | bootReady
  | deviceResetDone
  | bootConfirmTimeout (bundle : Bool) (time : Nat)
  | watchdogExpiry (core : BitVec 2) (time : Nat)
  | inkWdogKick (who : Agent) (value : BitVec 64)
  | d3hotEntry
  | restWake
  | restExitDone
  -- management
  | alertResponse
  | mctpControl (cmd : BitVec 8) (data : List Byte)
  | pldmUpdate (cmd : BitVec 8) (data : List Byte)
  | oobMailbox (opcode : BitVec 8) (tag : BitVec 16) (payload : List Byte)
  | jtagAuth (token : List Byte)
  | jtagDeauth
  -- completions
  | coreAccessComplete (t : BitVec 8) (idx : BitVec 5) (ecc : Ecc)
  | preloadDone (c : BitVec 4)
  | prefetchFillArrival (c : BitVec 4) (slice : BitVec 4) (ecc : Ecc)
  | moveCopyDone
  | flashWriteDone (ok : Bool)
  deriving DecidableEq, Repr

end Sys2Proof
end

