-- ==== Sys2Proof/Decode.lean ====
section
/-! DEFINITION. The command a word spells. The module is a block that takes commands, and the spec's table of operations and events gives
none of its rows any bits. -/

namespace Sys2Proof

/-- The command that `w` of `nbits` bits spells by the table's bits: none, for no row has any. -/
def decodeTableWord (_nbits _w : Nat) : Option Instr := none

end Sys2Proof
end

