-- ==== Sys2Proof/Machine/Num.lean ====
section
/-! DEFINITION. Number formats: values, decoding of element codes, one rounding, conversion under a conversion word, exact sums and
IEEE arithmetic on exact values (chapter 3). -/

namespace Sys2Proof.Machine

/-- A number on its way between formats: NaN, an infinity, or `n / d * 2 ^ e` with a sign (a zero keeps its sign). -/
inductive Num where
  | nan
  | inf (neg : Bool)
  | fin (neg : Bool) (n d : Nat) (e : Int)
  deriving DecidableEq, Repr

/-- A floating-point layout (Table 3-3). `special` 0: infinities and NaNs at the top exponent; 1: E4M3's one NaN; 2: none. -/
structure FFmt where
  eb : Nat
  mb : Nat
  bias : Nat
  special : Nat
  deriving DecidableEq, Repr

def fp32 : FFmt := ⟨8, 23, 127, 0⟩
def bf16 : FFmt := ⟨8, 7, 127, 0⟩
def fp16 : FFmt := ⟨5, 10, 15, 0⟩
def fp64 : FFmt := ⟨11, 52, 1023, 0⟩
def e4m3 : FFmt := ⟨4, 3, 7, 1⟩
def e5m2 : FFmt := ⟨5, 2, 15, 0⟩
def e2m3 : FFmt := ⟨2, 3, 1, 2⟩
def e3m2 : FFmt := ⟨3, 2, 3, 2⟩
def e2m1 : FFmt := ⟨2, 1, 1, 2⟩

/-- The layout of a floating-point format code, MX codes by their element (Table 3-2). -/
def floatFmt : Nat → Option FFmt
  | 0x0 => some fp32
  | 0x1 => some bf16
  | 0x2 => some fp16
  | 0x3 => some e4m3
  | 0x4 => some e5m2
  | 0x8 => some e4m3
  | 0x9 => some e5m2
  | 0xA => some e2m3
  | 0xB => some e3m2
  | 0xC => some e2m1
  | _ => none

/-- Width of an integer format code. -/
def intWidth : Nat → Option Nat
  | 0x5 => some 8
  | 0x6 => some 16
  | 0x7 => some 32
  | _ => none

/-- Element bits of a format code (Table 3-2). -/
def fmtBits : Nat → Nat
  | 0x0 => 32
  | 0x1 => 16
  | 0x2 => 16
  | 0x3 => 8
  | 0x4 => 8
  | 0x5 => 8
  | 0x6 => 16
  | 0x7 => 32
  | 0x8 => 8
  | 0x9 => 8
  | 0xA => 6
  | 0xB => 6
  | 0xC => 4
  | 0xD => 8
  | 0xE => 4
  | _ => 0

def isMX (f : Nat) : Bool := decide (0x8 ≤ f ∧ f ≤ 0xC)
def isRowCode (f : Nat) : Bool := f == 0xD || f == 0xE
def isIntFmt (f : Nat) : Bool := (intWidth f).isSome

/-! ### Decoding -/

/-- The value of a floating-point code (R73). -/
def decodeFloat (f : FFmt) (x : Nat) : Num :=
  let m := x % 2 ^ f.mb
  let ef := x / 2 ^ f.mb % 2 ^ f.eb
  let neg := x / 2 ^ (f.mb + f.eb) % 2 == 1
  if f.special = 0 ∧ ef = 2 ^ f.eb - 1 then (if m = 0 then .inf neg else .nan)
  else if f.special = 1 ∧ ef = 2 ^ f.eb - 1 ∧ m = 2 ^ f.mb - 1 then .nan
  else if ef = 0 then .fin neg m 1 (1 - (f.bias : Int) - f.mb)
  else .fin neg (2 ^ f.mb + m) 1 ((ef : Int) - f.bias - f.mb)

/-- An exact integer. -/
def ofInt (i : Int) : Num := .fin (decide (i < 0)) i.natAbs 1 0

/-- The value of an element code of a format that has no shared scale. -/
def decodeElem (fmt x : Nat) : Num :=
  match floatFmt fmt, intWidth fmt with
  | some f, _ => decodeFloat f x
  | none, some w => ofInt (toSigned w x)
  | none, none => ofInt (x % 2 ^ fmtBits fmt : Nat)

/-- `v * 2 ^ k`. -/
def Num.scale (v : Num) (k : Int) : Num :=
  match v with
  | .fin s n d e => .fin s n d (e + k)
  | v => v

def Num.isNan : Num → Bool
  | .nan => true
  | _ => false

def Num.isZero : Num → Bool
  | .fin _ n _ _ => n == 0
  | _ => false

def Num.isFin : Num → Bool
  | .fin _ _ _ _ => true
  | _ => false

def Num.sign : Num → Bool
  | .fin s _ _ _ => s
  | .inf s => s
  | .nan => false

def Num.neg : Num → Num
  | .nan => .nan
  | .inf s => .inf (!s)
  | .fin s n d e => .fin (!s) n d e

def Num.abs : Num → Num
  | .nan => .nan
  | .inf _ => .inf false
  | .fin _ n d e => .fin false n d e

/-- The value of an MX element under scale code `sc` (R77). -/
def decodeMX (fmt x sc : Nat) : Num :=
  if sc = 0xFF then .nan else (decodeElem fmt x).scale ((sc : Int) - 127)

/-! ### Rounding (R82–R84) -/

inductive Rnd where
  | rne
  | rtz
  /-- stochastic, with the word drawn -/
  | sr (word : Nat)
  deriving DecidableEq, Repr

/-- `n / d` rounded to an integer. -/
def roundQ (r : Rnd) (n d : Nat) : Nat :=
  let lo := n / d
  let rem := n % d
  match r with
  | .rne => if d < 2 * rem ∨ (2 * rem = d ∧ lo % 2 = 1) then lo + 1 else lo
  | .rtz => lo
  | .sr w => if rem ≠ 0 ∧ 2 ^ 32 ≤ rem * 2 ^ 32 / d + w then lo + 1 else lo

/-- `n / d * 2 ^ k` as a fraction of naturals. -/
def shiftFrac (n d : Nat) (k : Int) : Nat × Nat :=
  if 0 ≤ k then (n * 2 ^ k.toNat, d) else (n, d * 2 ^ (-k).toNat)

/-- floor(log2(n / d)) for positive `n`, `d`. -/
def log2Frac (n d : Nat) : Int :=
  let a : Int := (Nat.log2 n : Int) - Nat.log2 d
  let (x, y) := shiftFrac n d (-a)
  if x < y then a - 1 else a

/-- A positive magnitude rounded to `p` bits with least exponent `qmin`: significand and exponent of its last bit. -/
def roundMag (r : Rnd) (p : Nat) (qmin : Int) (n d : Nat) (e : Int) : Nat × Int :=
  let q := max (log2Frac n d + e - ((p : Int) - 1)) qmin
  let (x, y) := shiftFrac n d (e - q)
  (roundQ r x y, q)

/-- The magnitude code of `m * 2 ^ q`, where `m` has at most `f.mb + 1` bits or is the next power of two. -/
def magCode (f : FFmt) (m : Nat) (q : Int) : Nat :=
  if m < 2 ^ f.mb then m
  else (q + f.mb + f.bias).toNat * 2 ^ f.mb + (m - 2 ^ f.mb)

/-- The largest finite magnitude code. -/
def maxCode (f : FFmt) : Nat :=
  if f.special = 0 then (2 ^ f.eb - 1) * 2 ^ f.mb - 1 else if f.special = 1 then 2 ^ (f.eb + f.mb) - 2 else 2 ^ (f.eb + f.mb) - 1

/-- The canonical NaN (Table 3-4); formats without NaN never receive one. -/
def canonNan (f : FFmt) : Nat :=
  if f.special = 0 then (2 ^ f.eb - 1) * 2 ^ f.mb + 2 ^ (f.mb - 1) else 2 ^ (f.eb + f.mb) - 1

/-- An infinity's magnitude code; E4M3 has none and takes its NaN (Table 3-5). -/
def infCode (f : FFmt) : Nat := if f.special = 0 then (2 ^ f.eb - 1) * 2 ^ f.mb else 2 ^ (f.eb + f.mb) - 1

/-- A converted code and whether saturation applied. -/
structure Conv where
  code : Nat
  sat : Bool
  deriving DecidableEq, Repr

def signBit (f : FFmt) (neg : Bool) : Nat := bit neg * 2 ^ (f.eb + f.mb)

/-- Round to a floating-point format (R82–R84, Table 3-5, R75, R96). -/
def toFloat (f : FFmt) (r : Rnd) (sat : Bool) (v : Num) : Conv :=
  match v with
  | .nan => ⟨canonNan f, false⟩
  | .inf s =>
    if sat then ⟨signBit f s + maxCode f, true⟩
    else if f.special = 0 then ⟨signBit f s + infCode f, false⟩ else ⟨canonNan f, false⟩
  | .fin s 0 _ _ => ⟨signBit f s, false⟩
  | .fin s n d e =>
    let (m, q) := roundMag r (f.mb + 1) (1 - (f.bias : Int) - f.mb) n d e
    let c := magCode f m q
    if c ≤ maxCode f then ⟨signBit f s + c, false⟩
    else if sat then ⟨signBit f s + maxCode f, true⟩
    else match r with
      | .rtz => ⟨signBit f s + maxCode f, false⟩
      | _ => if f.special = 0 then ⟨signBit f s + infCode f, false⟩ else ⟨canonNan f, false⟩

/-- Round to an integer of `w` bits, always saturating (R79); unsigned when `uns`. -/
def toInt (w : Nat) (uns : Bool) (r : Rnd) (v : Num) : Conv :=
  let lo : Int := if uns then 0 else -(2 ^ (w - 1) : Nat)
  let hi : Int := if uns then ((2 ^ w : Nat) : Int) - 1 else ((2 ^ (w - 1) : Nat) : Int) - 1
  match v with
  | .nan => ⟨0, false⟩
  | .inf s => ⟨ofSigned w (if s then lo else hi), true⟩
  | .fin s n d e =>
    let (x, y) := shiftFrac n d e
    let m : Int := roundQ r x y
    let i := if s then -m else m
    if i < lo then ⟨ofSigned w lo, true⟩ else if hi < i then ⟨ofSigned w hi, true⟩ else ⟨ofSigned w i, false⟩

/-! ### Conversion words (R71) -/

def cwFmt (cw : Nat) : Nat := cw % 16
def cwRnd (cw : Nat) : Nat := cw / 16 % 4
def cwSat (cw : Nat) : Bool := cw / 64 % 2 == 1
def cwExp (cw : Nat) : Int := toSigned 8 (cw / 256)

/-- Whether a conversion word has no reserved bit or rounding mode, and SCALE_EXP 0 for an MX format (R78). -/
def cwLegal (cw : Nat) : Bool :=
  cwRnd cw != 3 && cw / 128 % 2 == 0 && (!isMX (cwFmt cw) || cw / 256 % 256 == 0)

def rndOf (cw word : Nat) : Rnd :=
  match cwRnd cw with
  | 0 => .rne
  | 1 => .rtz
  | _ => .sr word

/-- Convert one value under a conversion word whose format has no shared scale; `word` is the stochastic draw. -/
def convert (cw word : Nat) (v : Num) : Conv :=
  let x := v.scale (-cwExp cw)
  match intWidth (cwFmt cw), floatFmt (cwFmt cw) with
  | some w, _ => toInt w false (rndOf cw word) x
  | none, some f => toFloat f (rndOf cw word) (cwSat cw) x
  | none, none => ⟨0, false⟩

/-! ### MX blocks (R78) -/

/-- Compare magnitudes of finite values: `a < b`. -/
def magLt (a b : Num) : Bool :=
  match a, b with
  | .fin _ n d e, .fin _ n' d' e' =>
    let k := min e e'
    decide (n * d' * 2 ^ (e - k).toNat < n' * d * 2 ^ (e' - k).toNat)
  | _, _ => false

def mxEmax (fmt : Nat) : Int :=
  if fmt = 0x8 then 8 else if fmt = 0x9 then 15 else if fmt = 0xB then 4 else 2

/-- A converted MX block: scale code and elements with their saturation marks. -/
structure MXBlock where
  scale : Nat
  elems : List Conv
  deriving DecidableEq, Repr

/-- Convert a block; `words` are the elements' stochastic draws. -/
def convertMX (cw : Nat) (vs : List Num) (words : List Nat) : MXBlock :=
  let fmt := cwFmt cw
  match floatFmt fmt with
  | none => ⟨0, []⟩
  | some f =>
    if vs.any (fun v => !v.isFin) then ⟨0xFF, vs.map (fun _ => ⟨0, false⟩)⟩
    else match vs.foldl (fun m v => if magLt m v then v else m) (.fin false 0 1 0) with
      | .fin _ (n + 1) d e =>
        let sc := max (-127) (min 127 (log2Frac (n + 1) d + e - mxEmax fmt))
        ⟨(sc + 127).toNat, (vs.zip words).map (fun p => toFloat f (rndOf cw p.2) true (p.1.scale (-sc)))⟩
      | _ => ⟨0, vs.map (fun _ => ⟨0, false⟩)⟩

/-! ### Exact and IEEE arithmetic -/

/-- The signed numerator of a value over `d * 2 ^ -k`. -/
def signedNum (s : Bool) (n : Nat) : Int := if s then -(n : Int) else n

/-- Exact sum, with the IEEE sign of an exact zero under RNE. -/
def Num.add (a b : Num) : Num :=
  match a, b with
  | .nan, _ => .nan
  | _, .nan => .nan
  | .inf s, .inf t => if s = t then .inf s else .nan
  | .inf s, _ => .inf s
  | _, .inf t => .inf t
  | .fin s n d e, .fin t m c f =>
    let k := min e f
    let x := signedNum s (n * c * 2 ^ (e - k).toNat) + signedNum t (m * d * 2 ^ (f - k).toNat)
    if x = 0 then .fin (s && t) 0 1 0 else .fin (decide (x < 0)) x.natAbs (d * c) k

def Num.sub (a b : Num) : Num := a.add b.neg

/-- Exact product. -/
def Num.mul (a b : Num) : Num :=
  match a, b with
  | .nan, _ => .nan
  | _, .nan => .nan
  | .inf s, .inf t => .inf (xor s t)
  | .inf s, .fin t n _ _ => if n = 0 then .nan else .inf (xor s t)
  | .fin s n _ _, .inf t => if n = 0 then .nan else .inf (xor s t)
  | .fin s n d e, .fin t m c f => .fin (xor s t) (n * m) (d * c) (e + f)

/-- Exact quotient. -/
def Num.div (a b : Num) : Num :=
  match a, b with
  | .nan, _ => .nan
  | _, .nan => .nan
  | .inf _, .inf _ => .nan
  | .inf s, .fin t _ _ _ => .inf (xor s t)
  | .fin s _ _ _, .inf t => .fin (xor s t) 0 1 0
  | .fin s n d e, .fin t m c f =>
    if m = 0 then (if n = 0 then .nan else .inf (xor s t)) else .fin (xor s t) (n * c) (d * m) (e - f)

/-- `a < b`; false when either is NaN. Zeros are equal. -/
def Num.lt (a b : Num) : Bool :=
  match a, b with
  | .nan, _ => false
  | _, .nan => false
  | .inf s, .inf t => s && !t
  | .inf s, _ => s
  | _, .inf t => !t
  | .fin s n d e, .fin t m c f =>
    let k := min e f
    decide (signedNum s (n * c * 2 ^ (e - k).toNat) < signedNum t (m * d * 2 ^ (f - k).toNat))

/-- `a = b` as numbers; false when either is NaN. -/
def Num.eq (a b : Num) : Bool := !a.isNan && !b.isNan && !a.lt b && !b.lt a

/-- Integer square root by Newton's method. -/
def isqrtAux : Nat → Nat → Nat → Nat
  | 0, _, x => x
  | f + 1, n, x =>
    let y := (x + n / x) / 2
    if y < x then isqrtAux f n y else x

def isqrt (n : Nat) : Nat := if n = 0 then 0 else isqrtAux (Nat.log2 n + 8) n (2 ^ (Nat.log2 n / 2 + 1))

/-- Square root to a format, correctly rounded under RNE: a root taken 70 bits beyond the significand, with a sticky bit. -/
def sqrtFloat (f : FFmt) (v : Num) : Nat :=
  match v with
  | .nan => canonNan f
  | .inf s => if s then canonNan f else infCode f
  | .fin s 0 _ _ => signBit f s
  | .fin true _ _ _ => canonNan f
  | .fin false n d e =>
    -- value = (n * d) / d^2 * 2^e; an even exponent below it
    let k : Nat := 300
    let e2 : Int := e - 2 * k
    let (x, e3) := if e2 % 2 = 0 then (n * d * 2 ^ (2 * k), e2) else (n * d * 2 ^ (2 * k) * 2, e2 - 1)
    let r := isqrt x
    let r' := if r * r = x then 2 * r else 2 * r + 1
    (toFloat f .rne false (.fin false r' d (e3 / 2 - 1))).code

/-- One operation on two codes of a format, rounded once under RNE (R246). -/
def binFloat (op : Num → Num → Num) (f : FFmt) (a b : Nat) : Nat :=
  (toFloat f .rne false (op (decodeFloat f a) (decodeFloat f b))).code

def addFloat : FFmt → Nat → Nat → Nat := binFloat Num.add
def subFloat : FFmt → Nat → Nat → Nat := binFloat Num.sub
def mulFloat : FFmt → Nat → Nat → Nat := binFloat Num.mul
def divFloat : FFmt → Nat → Nat → Nat := binFloat Num.div

/-- a * b + c with one rounding. -/
def fmaFloat (f : FFmt) (a b c : Nat) : Nat :=
  (toFloat f .rne false (((decodeFloat f a).mul (decodeFloat f b)).add (decodeFloat f c))).code

/-- MIN and MAX: canonical NaN when either is NaN; −0 below +0 (R246). -/
def minMaxFloat (isMax : Bool) (f : FFmt) (a b : Nat) : Nat :=
  let x := decodeFloat f a
  let y := decodeFloat f b
  if x.isNan || y.isNan then canonNan f
  else
    let aLess := x.lt y || (x.eq y && x.sign && !y.sign)
    if aLess then (if isMax then b else a) else if isMax then a else b

/-- A value in binary32, rounded once. -/
def to32 (v : Num) : Nat := (toFloat fp32 .rne false v).code
def of32 (x : Nat) : Num := decodeFloat fp32 x

/-! ### Row codes (R80, R81) -/

/-- Element `i` of a row in a row-code format, as an exact value. -/
def rowCodeElem (fmt : Nat) (row : List Byte) (i : Nat) : Num :=
  let sc := decodeFloat fp16 (ofLE (row.take 2))
  let off := decodeFloat fp16 (ofLE ((row.drop 2).take 2))
  let code := if fmt = 0xD then (row.getD (4 + i) 0).toNat else (row.getD (4 + i / 2) 0).toNat / 16 ^ (i % 2) % 16
  if !sc.isFin || !off.isFin then .nan else ((ofInt code).mul sc).add off

/-- Bytes of a row of `n` elements in a format that has no shared scale, header included. -/
def rowBytes (fmt n : Nat) : Nat :=
  if fmt = 0xD then 4 + n else if fmt = 0xE then 4 + (n + 1) / 2 else n * (fmtBits fmt / 8)

/-- Element `i` of a row. -/
def rowElem (fmt : Nat) (row : List Byte) (i : Nat) : Num :=
  if isRowCode fmt then rowCodeElem fmt row i
  else
    let b := fmtBits fmt / 8
    decodeElem fmt (ofLE ((row.drop (i * b)).take b))

/-! ### Philox4x32-10 (R85–R88) -/

structure P4 where
  a : Nat
  b : Nat
  c : Nat
  d : Nat
  deriving DecidableEq, Repr

def philoxRound (x : P4) (k0 k1 : Nat) : P4 :=
  let p := 0xD2511F53 * x.a
  let q := 0xCD9E8D57 * x.c
  ⟨((q / 2 ^ 32) ^^^ x.b) ^^^ k0, q % 2 ^ 32, ((p / 2 ^ 32) ^^^ x.d) ^^^ k1, p % 2 ^ 32⟩

def philoxRounds : Nat → P4 → Nat → Nat → P4
  | 0, x, _, _ => x
  | n + 1, x, k0, k1 => philoxRounds n (philoxRound x k0 k1) ((k0 + 0x9E3779B9) % 2 ^ 32) ((k1 + 0xBB67AE85) % 2 ^ 32)

def philox (x : P4) (k0 k1 : Nat) : P4 := philoxRounds 10 x k0 k1

/-- Word `d` of the stream of a domain, ID and phase ordinal under a plan seed (R85, R86). -/
def drawWord (seed : Word) (domain id ordinal d : Nat) : Nat :=
  let blk := d / 4 % 2 ^ 52
  let ctr := blk + (id % 2 ^ 40) * 2 ^ 52 + domain * 2 ^ 92 + (ordinal % 2 ^ 32) * 2 ^ 96
  let r := philox ⟨ctr % 2 ^ 32, ctr / 2 ^ 32 % 2 ^ 32, ctr / 2 ^ 64 % 2 ^ 32, ctr / 2 ^ 96⟩ (seed.toNat % 2 ^ 32) (seed.toNat / 2 ^ 32)
  match d % 4 with
  | 0 => r.a
  | 1 => r.b
  | 2 => r.c
  | _ => r.d

end Sys2Proof.Machine
end

