-- ==== Sys2Proof/Config.lean ====
section
/-! DEFINITION. What one part or one implementation fixes, and the free values: constants without a body, so that no proof
can rest on what they are. -/

namespace Sys2Proof

/-- Free value: what byte `a` holds when nothing defined has been stored there since epoch `gen` (R62, R43, R413, R419). (DEDUCED; log entry 3.) -/
opaque Config.freeByte : Nat → Nat → Byte
/-- Free value: a fresh 64-bit value at each count of `State.freeCtr`, for results the manual leaves undefined. (DEDUCED; log entry 57.) -/
opaque Config.freeWord : Nat → Word

/-- Minor version of the running steward firmware (R1 allows any; Table 18-3 gives no value). -/
opaque Config.fwMinor : BitVec 8
/-- Patch of the running steward firmware (R3). -/
opaque Config.fwPatch : BitVec 16
/-- Version of the innkeeper firmware that the part is delivered with, as HST_ID [39:8]. -/
opaque Config.inkVersion : BitVec 32
/-- The part's serial number (R483). -/
opaque Config.serial : BitVec 64
/-- Jexelanko's PCI-SIG vendor ID, which the manual names and does not give. (PRESUMED; log entry 43.) -/
opaque Config.pciVendor : BitVec 16
/-- The version that MCTP Get Version Support answers for a message type (R562 gives PLDM's alone). (PRESUMED; log entry 43.) -/
opaque Config.mctpVersion : Nat → BitVec 32
/-- The chassis' MODULE_ID[5:0], sampled at AUX power-on (R568). -/
opaque Config.moduleId : BitVec 6
/-- The helper data that manufacture left in the key cache (R558). (DESIGN CHOICE, UNVERIFIED; log entry 66.) -/
opaque Config.pufHelper : BitVec 256
/-- The seed that the part's SRAM PUF gives with helper data (R558). (DESIGN CHOICE, UNVERIFIED; log entry 66.) -/
opaque Config.pufSeed : BitVec 256 → BitVec 256
/-- Byte `i` of the identity public key of a secret seed, in scheme 0 (RSA-3072) or 1 (SLH-DSA) (R559, R561).
(DESIGN CHOICE, UNVERIFIED; log entry 66.) -/
opaque Config.pubByte : Nat → List Byte → Nat → Byte
/-- Byte `i` of the signature of a message under a secret seed, in scheme 0 (RSA-3072) or 1 (SLH-DSA) (R561).
(DESIGN CHOICE, UNVERIFIED; log entry 66.) -/
opaque Config.sigByte : Nat → List Byte → List Byte → Nat → Byte
/-- Whether a signature of scheme 0 (RSASSA-PSS) or 1 (HashSLH-DSA) verifies: scheme, public key, message, signature (R552).
(DESIGN CHOICE; log entry 47.) -/
opaque Config.verify : Nat → List Byte → List Byte → List Byte → Bool
/-- The ROM's digest of vendor key pair `k`, the debug key pairs' digest, and whether index `k` is revoked (R552, R564).
(DESIGN CHOICE; log entry 47.) -/
opaque Config.romKey : Nat → BitVec 384
opaque Config.debugKey : Nat → BitVec 384
opaque Config.revoked : Nat → Bool
/-- Measurement digest `k` (0 ROM, 1 innkeeper, 2 steward, 3 microcode, 4 factory settings) of the image with an installation number (R561).
(DESIGN CHOICE; log entry 47.) -/
opaque Config.measure : Nat → Nat → BitVec 384
/-- Word `i` of a setting in the factory settings image with an installation number, where the part has been given one: the manual gives its
body no layout (R551, R557). (DESIGN CHOICE; log entry 45.) -/
opaque Config.factory : Nat → Nat → Nat → Word
/-- The challenge that the JTAG interface shows at its `n`th read (R564). (DESIGN CHOICE; log entry 54.) -/
opaque Config.challenge : Nat → BitVec 256
/-- Telemetry of sensors that no command of the model reports: group, sensor, time (R510). (DEDUCED; log entry 57.) -/
opaque Config.sensor : Nat → Nat → Nat → BitVec 32
/-- The hash of the coalescing table, which the manual does not give (R151). (DEDUCED; log entry 17.) -/
opaque Config.coalesceHash : Nat → Nat
/-- The hash of the redirect table, which the manual does not give (R389). (DESIGN CHOICE; log entry 28.) -/
opaque Config.redirectHash : Nat → Nat → Nat
/-- The hash of the presence filters, which the manual does not give (R389). (DESIGN CHOICE; log entry 28.) -/
opaque Config.filterHash : Nat → Nat → Nat
/-- The intermediate group a non-minimal route takes (R433: pseudo-random). (DESIGN CHOICE; log entry 32.) -/
opaque Config.nonminGroup : Nat → Nat

/-- How many management packets the steward queues beyond the first (R430 gives no number). (DESIGN CHOICE; log entry 33.) -/
opaque Config.mgmtDepth : Nat

/-- The stage (0 to 3) of an MR4 refresh-rate field; the manual does not give the field's code (R414). (DESIGN CHOICE; log entry 29.) -/
opaque Config.mr4Stage : Nat → Nat

end Sys2Proof
end

