-- ==== Sys2Proof/Machine/RegMap.lean ====
section
/-! DEFINITION. The CSR space: where every register lies (Table 1-10 and the register section of each chapter), its fields with
type, reset value and allowed values, and who may write it. The register tables of the spec as data. -/

namespace Sys2Proof.Machine

/-- The values an RW field's description allows (R11). -/
inductive Allow where
  | any
  /-- from `lo` to `hi`, both included -/
  | range (lo hi : Nat)
  /-- from `lo` to `hi` in steps of `k` counted from `lo` -/
  | stepped (lo hi k : Nat)
  /-- a multiple of `k` -/
  | mult (k : Nat)
  /-- a locator of one of the kinds given, its reserved bits 0, aligned to `k` bytes (R102, R103) -/
  | locator (kinds : List Nat) (k : Nat)
  deriving DecidableEq, Repr

/-- Register field types (Table 0-4); reserved bits have no entry. -/
inductive FTy where
  | ro | rw | w1c | wo
  deriving DecidableEq, Repr

/-- One field of a register. -/
structure Fld where
  lo : Nat
  w : Nat
  ty : FTy
  reset : Nat
  allow : Allow
  /-- only the steward writes this field -/
  stw : Bool
  deriving DecidableEq, Repr

/-- Who may write a register. -/
inductive Perm where
  /-- any agent that reaches the register -/
  | all
  /-- only the steward; another agent's write is discarded and recorded -/
  | steward
  /-- no agent -/
  | none
  deriving DecidableEq, Repr

/-- One register. -/
structure Reg where
  perm : Perm
  flds : List Fld
  deriving DecidableEq, Repr

/-- Whether an RW field may take the value `v` (R11). -/
def allowed : Allow → Nat → Bool
  | .any, _ => true
  | .range lo hi, v => decide (lo ≤ v ∧ v ≤ hi)
  | .stepped lo hi k, v => decide (lo ≤ v ∧ v ≤ hi ∧ (v - lo) % k = 0)
  | .mult k, v => decide (v % k = 0)
  | .locator kinds k, v => kinds.contains (v / 2 ^ 62) && decide (v / 2 ^ 56 % 64 = 0 ∧ v % k = 0)

def ro (lo w : Nat) (reset : Nat := 0) : Fld := ⟨lo, w, .ro, reset, .any, false⟩
def rw_ (lo w : Nat) (reset : Nat := 0) (allow : Allow := .any) : Fld := ⟨lo, w, .rw, reset, allow, false⟩
def rwS (lo w : Nat) (reset : Nat := 0) (allow : Allow := .any) : Fld := ⟨lo, w, .rw, reset, allow, true⟩
def w1c (lo w : Nat) : Fld := ⟨lo, w, .w1c, 0, .any, false⟩
def wo (lo w : Nat) : Fld := ⟨lo, w, .wo, 0, .any, false⟩

/-- A register any agent may write. -/
def regA (f : List Fld) : Option Reg := some ⟨.all, f⟩
/-- A register only the steward writes. -/
def regS (f : List Fld) : Option Reg := some ⟨.steward, f⟩
/-- A register no agent writes. -/
def regN (f : List Fld) : Option Reg := some ⟨.none, f⟩

/-- A read-only 64-bit counter. -/
def counter : Option Reg := regA [ro 0 64]
/-- A read-only 64-bit counter of a steward-only block. -/
def counterS : Option Reg := regS [ro 0 64]

/-- Bases of the CSR blocks (Table 1-10). -/
def tileCsr (t o : Nat) : Nat := 0x180000000000 + t * 0x10000 + o
def clusterCsr (c o : Nat) : Nat := 0x180001000000 + c * 0x10000 + o
def memCsr (p o : Nat) : Nat := 0x180002000000 + p * 0x100000 + o
def ldgCsr (o : Nat) : Nat := 0x180003000000 + o
def govCsr (o : Nat) : Nat := 0x180003100000 + o
def fabCsr (o : Nat) : Nat := 0x180003200000 + o
def twnCsr (o : Nat) : Nat := 0x180003300000 + o
def hstCsr (o : Nat) : Nat := 0x180003400000 + o
def stwCsr (o : Nat) : Nat := 0x180003500000 + o
def inkCsr (o : Nat) : Nat := 0x180003600000 + o

/-- Whether `x` is `base + k * stride` for some `k` below `n`. -/
def inArray (x base stride n : Nat) : Bool := decide (base ≤ x ∧ x < base + stride * n ∧ (x - base) % stride = 0)

/-- Registers of the tile core (Tables 9-8 to 9-11), offset from the tile's block. -/
def tcrReg : Nat → Option Reg
  | 0x00 => regA [rw_ 0 1, wo 1 1]
  | 0x08 => regA [ro 0 1, ro 1 1, ro 2 1]
  | 0x10 => regA [rw_ 0 17 0 (.mult 4)]
  | 0x18 => regA [rw_ 0 17 0 (.mult 4)]
  | 0x20 => regA [ro 0 2]
  | 0x28 => regA [rw_ 0 3]
  | 0x30 => regA [w1c 0 3]
  | 0x38 => regA [ro 0 8, w1c 8 1]
  | 0x40 => regA [ro 0 17]
  | 0x48 => regA [ro 0 21, w1c 21 1]
  | 0x80 => counter
  | 0x88 => counter
  | 0x90 => counter
  | _ => none

/-- Forager registers (Tables 5-18 to 5-22), offset from +0x2000. -/
def fgrReg (o : Nat) : Option Reg :=
  match o with
  | 0x00 => regA [rw_ 0 13 2048 (.range 0 4096), rw_ 16 1 1, rw_ 17 3 7, wo 20 1]
  | 0x08 => regA [ro 0 13, ro 13 13, ro 26 6, ro 32 4, ro 36 1]
  | 0x10 => regA [ro 0 8, ro 8 8, w1c 16 1]
  | 0x18 => regA [ro 0 64]
  | _ => if inArray o 0x40 8 7 then counter else none

/-- Comb unit registers (Tables 6-10 to 6-13), offset from +0x3000. -/
def cmbReg (o : Nat) : Option Reg :=
  match o with
  | 0x00 => regA [wo 0 1, rw_ 1 1]
  | 0x08 => regA [ro 0 19 262144, ro 19 13 4096, ro 32 16, ro 48 5, ro 53 1, ro 54 4]
  | 0x10 => regA [ro 0 8, ro 8 4, w1c 12 1]
  | 0x18 => regA [ro 0 64]
  | _ => if inArray o 0x40 8 6 then counter else none

/-- Matrix engine registers (Tables 7-7 to 7-10), offset from +0x4000. -/
def mxeReg (o : Nat) : Option Reg :=
  match o with
  | 0x00 => regA [wo 0 1, rw_ 1 1]
  | 0x08 => regA [ro 0 5, ro 5 1, ro 6 1]
  | 0x10 => regA [ro 0 8, w1c 8 1]
  | 0x18 => regA [ro 0 64]
  | _ => if inArray o 0x40 8 5 then counter else none

/-- Vector engine registers (Tables 8-11 to 8-14), offset from +0x5000. -/
def vecReg (o : Nat) : Option Reg :=
  match o with
  | 0x00 => regA [wo 0 1, rw_ 1 1]
  | 0x08 => regA [ro 0 5, ro 5 1, ro 6 1]
  | 0x10 => regA [ro 0 8, w1c 8 1]
  | 0x18 => regA [ro 0 64]
  | _ => if inArray o 0x40 8 3 then counter else none

/-- Porter registers (Tables 11-5 to 11-7), offset from +0x6000. -/
def prtReg (o : Nat) : Option Reg :=
  match o with
  | 0x00 => regA [wo 0 1]
  | 0x08 => regA [ro 0 16, ro 16 16, ro 32 6, ro 38 9]
  | 0x10 => regA [ro 0 8, ro 8 4, w1c 12 1]
  | 0x18 => regA [ro 0 64]
  | _ =>
    if inArray o 0x40 8 4 then counter
    else if inArray o 0x100 8 16 then regA [ro 0 32, ro 32 32]
    else none

/-- Tile synchronisation registers (Tables 10-8 to 10-10), offset from +0x8000. -/
def synReg (o : Nat) : Option Reg :=
  match o with
  | 0x00 => regA [ro 0 5, ro 5 5]
  | 0x08 => regA [ro 0 8, ro 8 8, ro 16 2, w1c 18 1]
  | 0x10 => regA [rw_ 0 8, rw_ 8 1, rw_ 9 1, rw_ 32 32]
  | _ =>
    if inArray o 0x100 0x10 8 then regA [rw_ 0 1, rw_ 1 1, rw_ 8 6, rw_ 16 6, rw_ 32 32 1 (.range 1 0x7FFFFFFF)]
    else if inArray o 0x108 0x10 8 then regA [rw_ 3 61]
    else if inArray o 0x800 8 256 then regA [ro 0 32, rwS 32 32]
    else if inArray o 0x1000 8 128 then regA [ro 0 32, ro 32 32]
    else if inArray o 0x1400 8 64 then regS [rwS 0 32, rwS 32 31 1 (.range 1 0x7FFFFFFF)]
    else none

/-- The block of a tile. -/
def tileReg (o : Nat) : Option Reg :=
  if o < 0x2000 then tcrReg o
  else if o < 0x3000 then fgrReg (o - 0x2000)
  else if o < 0x4000 then cmbReg (o - 0x3000)
  else if o < 0x5000 then mxeReg (o - 0x4000)
  else if o < 0x6000 then vecReg (o - 0x5000)
  else if o < 0x8000 then prtReg (o - 0x6000)
  else synReg (o - 0x8000)

/-- Dispatcher registers (Tables 13-9 to 13-12) of cluster `c`. -/
def dspReg (c o : Nat) : Option Reg :=
  match o with
  | 0x00 => regS [rw_ 0 1 1, rw_ 1 1 1, wo 2 1, rw_ 3 20 10 (.range 1 1000)]
  | 0x08 => regA [ro 0 16 0xFFFF, ro 16 16, ro 32 16, ro 48 8]
  | 0x10 => regA [ro 0 8, ro 8 45]
  | 0x20 => if c = 0 then regS [rw_ 0 64 0 (.locator [2] 0x1000)] else none
  | 0x28 => if c = 0 then regS [rw_ 0 1, rw_ 1 1, rw_ 2 5 0 (.range 7 31), rw_ 7 5 0 (.range 0 16)] else none
  | 0x30 => if c = 0 then regS [ro 0 64] else none
  | _ =>
    if inArray o 0x40 8 3 then counter
    else if inArray o 0x100 8 16 then counter
    else if inArray o 0x2000 0x20 256 then regS [rw_ 0 64 0 (.locator [2] 64)]
    else if inArray o 0x2008 0x20 256 then regS [rw_ 0 5 0 (.range 4 20), rw_ 5 3, rw_ 8 1, rw_ 9 4, rw_ 13 1]
    else if inArray o 0x2010 0x20 256 then regA [ro 0 32, rw_ 32 32]
    else none

/-- Pantry registers (Tables 12-1 to 12-3), offset from +0x4000. -/
def panReg (o : Nat) : Option Reg :=
  match o with
  | 0x00 => regS [rw_ 0 1 1, rw_ 1 1 1, wo 2 1]
  | 0x08 => regS [wo 0 1, wo 1 15, wo 16 1]
  | 0x10 => regA [ro 0 1, ro 1 1, ro 2 16, ro 18 10]
  | 0x18 => regA [wo 0 64]
  | 0x20 => regA [rw_ 0 64 0 (.locator [2, 3] 256)]
  | 0x28 => regS [wo 0 24, wo 24 1]
  | _ => if inArray o 0x40 8 7 then counter else none

/-- Die barrier registers of a cluster (Table 10-11), offset from +0x8000. -/
def barReg (o : Nat) : Option Reg :=
  if o = 0 ∨ o = 0x10 then regS [rwS 0 16]
  else if o = 8 ∨ o = 0x18 then regA [ro 0 16, ro 16 16, ro 32 31, ro 63 1]
  else none

/-- The block of a cluster. -/
def clusterReg (c o : Nat) : Option Reg :=
  if o < 0x4000 then dspReg c o
  else if o < 0x8000 then panReg (o - 0x4000)
  else barReg (o - 0x8000)

/-- Registers of one memory channel (Table 15-7). -/
def chanReg (o : Nat) : Option Reg :=
  match o with
  | 0x00 => regS [ro 0 2, ro 2 2, ro 4 2, ro 6 11, ro 17 5, ro 22 1]
  | 0x40 => regS [rw_ 0 3 0 (.range 0 5), rw_ 3 2, rw_ 5 2 0 (.range 0 2), rw_ 7 1, rw_ 8 1, wo 9 1, rw_ 10 6]
  | 0x48 => regS [ro 0 1, w1c 1 1, ro 32 32]
  | 0x50 => regS [ro 0 34, ro 34 5, w1c 39 1]
  | _ => if inArray o 0x08 8 6 then counterS else none

/-- Port die registers (Tables 15-5 to 15-7). -/
def memReg (o : Nat) : Option Reg :=
  match o with
  | 0x00 => regS [wo 0 1, rw_ 1 1 1, rw_ 2 8 24 (.range 1 168)]
  | 0x08 => regS [ro 0 7 96, ro 7 13, ro 20 1, ro 21 1, ro 22 2]
  | 0x10 => regS [rw_ 0 5 12, rw_ 5 5 4, rw_ 10 5 4]
  | 0x18 => regS [rw_ 0 11 128 (.range 1 1024), rw_ 16 4 8 (.range 1 15)]
  | 0x20 => regS [ro 0 45, ro 45 7, w1c 52 1]
  | _ =>
    if 0x10000 ≤ o ∧ o < 0x10000 + 0x100 * 96 then chanReg ((o - 0x10000) % 0x100)
    else if inArray o 0x80000 8 4096 then regS [ro 0 23, ro 23 15, ro 38 7, ro 45 1, ro 46 1]
    else none

/-- Ledger registers (Tables 20-7 to 20-10) and the die ring. -/
def ldgReg (o : Nat) : Option Reg :=
  match o with
  | 0x00 => regS [wo 0 1, rw_ 1 1]
  | 0x08 => regS [rw_ 0 11 16 (.range 2 1024), rw_ 11 16 1000 (.range 10 60000), rw_ 27 14 50 (.range 1 10000),
                  rw_ 41 17 5000 (.range 100 100000)]
  | 0x10 => regS [rw_ 0 14 1000 (.range 0 10000)]
  | 0x18 => regS [ro 0 1, ro 1 2, ro 3 11, ro 14 18, ro 32 32]
  | 0x20 => regS [wo 0 16, wo 16 8, wo 24 1]
  | 0x28 => regS [rw_ 0 16, rw_ 16 8, rw_ 24 16, wo 40 1]
  | 0x30 => regS [rw_ 0 45]
  | _ =>
    if inArray o 0x40 8 7 then counterS
    else if inArray o 0x1000 0x10 1024 then regS [ro 0 16, ro 16 8, ro 24 2, ro 26 1, ro 27 1, ro 32 11, ro 43 21]
    else if inArray o 0x1008 0x10 1024 then regS [ro 0 64]
    else if inArray o 0x20000 8 16384 then regS [ro 0 64]
    else none

/-- Governor registers (Tables 19-5 to 19-7). -/
def govReg (o : Nat) : Option Reg :=
  match o with
  | 0x00 => regS [wo 0 1, rw_ 1 1, rw_ 2 1, rw_ 3 10 750 (.stepped 600 850 10), rw_ 13 10 800 (.stepped 600 850 10),
                  rw_ 23 7 100 (.range 85 100)]
  | 0x08 => regS [rw_ 0 11 1200 (.range 600 1500), rw_ 11 14 2000 (.range 0 10000)]
  | 0x10 => regS [rw_ 0 11 100 (.range 0 1600), rw_ 11 13 500 (.range 0 5000)]
  | 0x18 => regS [ro 0 10 750, ro 10 11, ro 21 1, ro 22 1, ro 23 1, ro 24 1, ro 25 1, ro 26 1, ro 27 1, ro 28 1, ro 29 8]
  | 0x20 => regS [ro 0 7 64, ro 7 7 64, ro 14 7 64, ro 21 7 64, ro 28 7 64]
  | _ => if inArray o 0x40 8 5 then counterS else none

/-- Fabric registers (Tables 16-10 to 16-13). -/
def fabReg (o : Nat) : Option Reg :=
  match o with
  | 0x00 => regS [wo 0 1, rw_ 1 1 1, rw_ 2 1 1, rw_ 3 10 64, rw_ 13 14 20 (.range 1 10000)]
  | 0x08 => regS [ro 0 11, ro 11 12, ro 23 8, ro 31 1, ro 32 32]
  | 0x10 => regS [ro 0 24, ro 24 24, ro 48 16]
  | 0x18 => regS [ro 0 8, ro 8 5, w1c 13 1]
  | _ =>
    if inArray o 0x100 8 24 then regS [ro 0 3, ro 3 1, ro 4 11, ro 15 5]
    else if inArray o 0x200 8 128 then regS [ro 0 4, ro 4 3, ro 7 7, ro 14 4, ro 18 3, ro 21 1]
    else if inArray o 0x800 0x10 32 then regS [rw_ 0 16]
    else if inArray o 0x808 0x10 32 then regS [ro 0 16, ro 16 12, ro 28 12, ro 40 1, ro 41 1, ro 42 22]
    else if 0x1000 ≤ o ∧ o < 0x1000 + 0x80 * 16 ∧ o % 8 = 0 then
      if o % 0x80 < 0x40 then regS [rw_ 0 64]
      else if o % 0x80 = 0x40 then regS [ro 0 1, ro 1 8, ro 9 23, ro 32 32] else none
    else if inArray o 0x4000 8 2048 then regS [ro 0 2, ro 2 3, ro 5 1]
    else if 0x8000 ≤ o ∧ o < 0x8000 + 0x80 * 24 ∧ o % 8 = 0 ∧ o % 0x80 < 0x50 then counterS
    else none

/-- Twin registers (Tables 17-5 to 17-7). -/
def twnReg (o : Nat) : Option Reg :=
  match o with
  | 0x00 => regS [wo 0 1, rw_ 1 1 1]
  | 0x08 => regS [rw_ 0 16 100 (.range 10 1000), rw_ 16 16 1000 (.range 200 10000)]
  | 0x10 => regS [ro 0 3, ro 3 11, ro 14 1]
  | 0x18 => regS [ro 0 8, w1c 8 1]
  | _ => if inArray o 0x40 8 4 then counterS else none

/-- Host interface registers (Tables 18-3, 18-5, 18-10, 18-12, 10-4 and 13-2) and the MSI-X structures (R488). -/
def hstReg (o : Nat) : Option Reg :=
  match o with
  | 0x00 => regA [ro 0 8 0x10, ro 8 8, ro 16 8, ro 24 16]
  | 0x08 => regA [ro 0 1, ro 1 1, ro 2 1, ro 3 1, ro 4 8, ro 12 8]
  | 0x10 => regA [rw_ 0 9]
  | 0x18 => regA [rw_ 0 6, rw_ 6 1, rw_ 8 6, rw_ 14 1]
  | 0x20 => regA [ro 0 45, ro 45 1, w1c 46 1]
  | 0x28 => regA [rw_ 0 64]
  | 0x30 => regA [ro 0 64]
  | 0x1000 => regA [rw_ 0 8, rw_ 8 15 0 (.range 0 16384), rw_ 32 16]
  | 0x1008 => regA [wo 0 1]
  | 0x1010 => regA [ro 0 2, wo 2 1, ro 32 16]
  | 0x1018 => regA [ro 0 8, ro 8 15, ro 32 32]
  | 0x1020 => regA [ro 0 7, ro 32 32]
  | 0x1028 => counter
  | 0x8000 => regA [rw_ 12 52]
  | 0x8008 => regA [rw_ 0 1, rw_ 1 5 6 (.range 6 16), rw_ 6 6 1, rw_ 12 1, rw_ 13 10 0 (.range 0 1000)]
  | 0x8010 => regA [rw_ 0 32, ro 32 32]
  | 0x8018 => counter
  | 0x80000 => regA [wo 0 32]
  | 0x80008 => regA [ro 0 1, ro 1 15, ro 32 32]
  | 0xF8000 => regA [ro 0 64]
  | _ =>
    if 0x4000 ≤ o ∧ o < 0x8000 ∧ o % 8 = 0 then regA [rw_ 0 64]
    else if 0x10000 ≤ o ∧ o < 0x14000 then
      match o % 0x40 with
      | 0x00 => regA [wo 0 32]
      | 0x08 => regA [wo 0 32]
      | 0x10 => regA [ro 0 2, ro 2 8, ro 10 12, ro 22 4]
      | 0x18 => regA [ro 0 32]
      | 0x20 => regA [wo 0 32]
      | _ => none
    else if inArray o 0xF0000 0x10 64 then regA [rw_ 2 62]
    else if inArray o 0xF0008 0x10 64 then regA [rw_ 0 32, rw_ 32 1 1]
    else none

/-- Steward block: TBL_ registers (Tables 14-6 to 14-9) and the region table (Tables 4-2, 4-3). -/
def stwReg (o : Nat) : Option Reg :=
  match o with
  | 0x40000 => regS [wo 0 1]
  | 0x40008 => regS [ro 0 20, ro 20 20, ro 40 14, ro 54 1, ro 55 1]
  | 0x40010 => regS [rw_ 0 24, rw_ 24 40]
  | 0x40018 => regS [rw_ 0 45, rw_ 45 11, rw_ 56 2]
  | 0x40020 => regS [wo 0 2, ro 2 1 1, ro 3 1]
  | _ =>
    if inArray o 0x40040 8 5 then counterS
    else if inArray o 0x60000 8 8192 then regS [rw_ 0 2 0 (.range 0 2), rw_ 2 24, ro 26 32]
    else if inArray o 0x80000 0x10 4096 then regS [rw_ 16 29, rw_ 45 19]
    else if inArray o 0x80008 0x10 4096 then
      regS [rw_ 0 27, rw_ 27 1, rw_ 28 2, rw_ 30 9 0 (.range 0 383), rw_ 39 4, rw_ 43 1, rw_ 44 1, rw_ 45 1, rw_ 46 1, rw_ 47 1,
            rw_ 48 4 0 (.range 0 8)]
    else none

/-- Innkeeper registers (Table 22-6). -/
def inkReg : Nat → Option Reg
  | 0x00 => regN [ro 0 1, ro 1 1, ro 2 1, ro 3 1 1, ro 4 1 1]
  | 0x08 => regN [ro 0 2 3, ro 2 2 1, ro 4 2 3, ro 6 2 1, ro 8 1, ro 9 2]
  | 0x10 => regN [ro 0 16, ro 16 16, ro 32 16]
  | 0x18 => regS [wo 0 4, rw_ 4 14 1000 (.range 100 10000), ro 18 4]
  | 0x20 => regN [ro 0 1, ro 1 3, ro 4 1]
  | _ => none

/-- Whether a local address lies in CSR space (Table 1-8). -/
def inCsrSpace (a : Nat) : Bool := decide (0x180000000000 ≤ a ∧ a < 0x180003700000)

/-- The register at CSR address `a`, if there is one (R12). -/
def regAt (a : Nat) : Option Reg :=
  if a < 0x180000000000 ∨ 0x180003700000 ≤ a then none
  else
    let x := a - 0x180000000000
    if x < 0x1000000 then tileReg (x % 0x10000)
    else if x < 0x1100000 then clusterReg ((x - 0x1000000) / 0x10000) (x % 0x10000)
    else if x < 0x2000000 then none
    else if x < 0x2400000 then memReg (x % 0x100000)
    else if x < 0x3000000 then none
    else if x < 0x3100000 then ldgReg (x % 0x100000)
    else if x < 0x3200000 then govReg (x % 0x100000)
    else if x < 0x3300000 then fabReg (x % 0x100000)
    else if x < 0x3400000 then twnReg (x % 0x100000)
    else if x < 0x3500000 then hstReg (x % 0x100000)
    else if x < 0x3600000 then stwReg (x % 0x100000)
    else inkReg (x % 0x100000)

/-- The ledger source code of the unit that owns CSR address `a` (Table 20-2). DEDUCED: the spec names the source of such NOTEs only
for TBL_ registers (R106); log entry 4. -/
def csrSource (a : Nat) : Nat :=
  let x := a - 0x180000000000
  if x < 0x1000000 then
    let o := x % 0x10000
    let blk := if o < 0x2000 then 0 else if o < 0x3000 then 1 else if o < 0x4000 then 2 else if o < 0x5000 then 3
      else if o < 0x6000 then 4 else if o < 0x8000 then 5 else 7
    blk * 0x100 + x / 0x10000
  else if x < 0x1100000 then
    let o := x % 0x10000
    let blk := if o < 0x4000 then 0 else if o < 0x8000 then 1 else 2
    0x1000 + blk * 0x100 + (x - 0x1000000) / 0x10000 * 16
  else if x < 0x2000000 then 0x8000
  else if x < 0x2400000 then 0x3000 + (x - 0x2000000) / 0x100000
  else if x < 0x3000000 then 0x8000
  else if x < 0x3100000 then 0xB000
  else if x < 0x3200000 then 0x9000
  else if x < 0x3300000 then 0x57FF
  else if x < 0x3400000 then 0x6000
  else if x < 0x3500000 then
    let o := x % 0x100000
    if o < 0x1000 then 0x7000 else if o < 0x8000 then 0x7001 else if o < 0x10000 then 0x7004
    else if o < 0x14000 then 0x7003 else 0x7000
  else if x < 0x3600000 then 0x8000
  else 0xA000

/-- The reset value of a register's fields, as one word. (DESIGN CHOICE, PRESUMED; log entry 2.) -/
def fldsReset : List Fld → Nat
  | [] => 0
  | f :: fs => f.reset * 2 ^ f.lo + fldsReset fs

/-- What the register at `a` holds after AUX power-on; 0 where there is none. (DESIGN CHOICE, PRESUMED; log entry 2.) -/
def csrReset (a : Nat) : Word :=
  match regAt a with
  | some r => BitVec.ofNat 64 (fldsReset r.flds)
  | none => 0

end Sys2Proof.Machine
end

