-- ==== Sys2Proof/Machine/Tab.lean ====
section
/-! DEFINITION. Sparse tables by key in one canonical form: keys strictly rising, no entry equal to what an unlisted key
reads as. -/

namespace Sys2Proof.Machine

/-- A sparse table: the entries that differ from the default, in rising key order. -/
abbrev Tab (α : Type) := List (Nat × α)

/-- What key `k` reads as: its entry, or the default `d k`. -/
def tabGet {α : Type} (d : Nat → α) : Tab α → Nat → α
  | [], k => d k
  | (i, v) :: t, k => if k < i then d k else if i = k then v else tabGet d t k

/-- The table with the entry of key `k` removed. -/
def tabErase {α : Type} : Tab α → Nat → Tab α
  | [], _ => []
  | (i, v) :: t, k => if k < i then (i, v) :: t else if i = k then t else (i, v) :: tabErase t k

/-- The table with key `k` listed at `v`. -/
def tabInsert {α : Type} : Tab α → Nat → α → Tab α
  | [], k, v => [(k, v)]
  | (i, w) :: t, k, v => if k < i then (k, v) :: (i, w) :: t else if i = k then (k, v) :: t else (i, w) :: tabInsert t k v

/-- The table in which key `k` reads as `v`. -/
def tabSet {α : Type} [DecidableEq α] (d : Nat → α) (t : Tab α) (k : Nat) (v : α) : Tab α :=
  if v = d k then tabErase t k else tabInsert t k v

/-- The table whose keys that meet `p` read as the default again. -/
def tabDrop {α : Type} (p : Nat → Bool) (t : Tab α) : Tab α := t.filter (fun e => !p e.1)

/-- The keys strictly rise, starting above `lo`. -/
def tabSorted {α : Type} : Nat → Tab α → Bool
  | _, [] => true
  | lo, (i, _) :: t => decide (lo ≤ i) && tabSorted (i + 1) t

/-- The canonical form. -/
def tabWf {α : Type} [DecidableEq α] (d : Nat → α) (t : Tab α) : Bool :=
  tabSorted 0 t && t.all (fun e => decide (e.2 ≠ d e.1))

end Sys2Proof.Machine
end

