-- ==== Sys2Proof/Machine/Types.lean ====
section
/-! DEFINITION. The records the machine's state is made of: one group per block of the module. All of it is plain data. -/

namespace Sys2Proof.Machine

/-! ### Memory -/

/-- A span of addresses whose bytes nothing defined has been stored in since epoch `gen`. -/
structure Span where
  lo : Nat
  hi : Nat
  gen : Nat
  deriving DecidableEq, Repr

/-- One entry of a cluster's merging buffer (R347): a 256-byte block, the bytes written so far by offset, the 64-byte sectors whose
data is poisoned, the agents whose writes it holds, and when it was opened. -/
structure MergeEnt where
  slice : Nat
  blk : Nat
  bytes : Tab (Option Byte)
  psn : List Nat
  owners : List Nat
  since : Nat
  /-- one of its writes is of the latency-critical class (R398) -/
  lc : Bool := false
  deriving DecidableEq, Repr

/-- One pantry line (R340): tag (global address bits [55:8]), class, valid sectors with their bytes, lock. -/
structure Line where
  tag : Nat
  cls : Nat
  sectors : BitVec 4
  bytes : List Byte
  lock : Bool
  deriving DecidableEq, Repr

/-- A next-line prefetch in flight in one slice (R350). -/
structure PreFill where
  slice : Nat
  addr : Nat
  cls : Nat
  dropped : Bool
  deriving DecidableEq, Repr

/-- A PRELOAD in progress (R351). -/
structure Preload where
  addr : Nat
  lines : Nat
  lock : Bool
  cls : Nat
  dropped : Bool
  deriving DecidableEq, Repr

/-- A cluster's pantry: lines by set, most recently used first, with their way; eviction buffer by slice, newest first; merging buffer;
prefetch slots; the preload and the invalidation in progress. -/
structure Pantry where
  sets : Tab (List (Nat × Line))
  evb : Tab (List Line)
  merge : List MergeEnt
  fills : List PreFill
  preload : Option Preload
  invalBusy : Bool
  invalClasses : Nat
  deriving DecidableEq, Repr

def Pantry.empty : Pantry := ⟨[], [], [], [], none, false, 0⟩

/-! ### Tile core and dispatcher -/

/-- A task record (Table 13-1). -/
structure TaskRec where
  entry : Nat
  nopreempt : Bool
  taskId : Nat
  args : Word
  save : Word
  dstFirst : Nat
  dstCount : Nat
  deriving DecidableEq, Repr

/-- A task that has started: its record, its tag, level, queue, plan slot, start order and start time. -/
structure Task where
  rcd : TaskRec
  id : Nat
  level : Nat
  wq : Nat
  slot : Nat
  order : Nat
  startedAt : Nat
  /-- time with the task on a core before it was last started or resumed, ns -/
  busy : Nat
  deriving DecidableEq, Repr

/-- What a tile core's WAIT or TALLY_WAIT blocks on. -/
inductive Blocked where
  | sem (n amount : Nat)
  | tally (n target : Nat)
  deriving DecidableEq, Repr

/-- An outstanding load or posted store of a core (R274), in one of its 24 access slots. `dev` is the home's device ID when it is a
peer; `addr` is a local address of the home. -/
structure CoreAcc where
  slot : Nat
  store : Bool
  rd : Nat
  dev : Option Nat
  addr : Nat
  loc : Word
  size : Nat
  signed : Bool
  value : Word
  pc : Nat
  /-- tag of the task that made it -/
  tag : Nat
  deriving DecidableEq, Repr

/-- A tile core (R264). -/
structure Core where
  regs : Vector Word 32
  preds : BitVec 8
  pc : BitVec 32
  task : Option Task
  blocked : Option Blocked
  issueWait : Bool
  accs : List CoreAcc
  /-- a pre-emption request is pending, and when it was made (R366) -/
  preempt : Option Nat
  /-- suspension has begun: forced or by YIELD, and the PC to record (R367) -/
  suspending : Option (Bool × Nat)
  /-- the task that armed SYN_WATCH (R279) -/
  watchBy : Option Nat
  deriving DecidableEq, Repr

/-- DESIGN CHOICE, PRESUMED; log entry 2. -/
def Core.init : Core :=
  { regs := Vector.replicate 32 0, preds := 0, pc := 0, task := none, blocked := none, issueWait := false,
    accs := [], preempt := none, suspending := none, watchBy := none }

/-- A task suspended on its tile (R367). -/
structure Suspended where
  tile : Nat
  task : Task
  order : Nat
  /-- its watch was satisfied while it was suspended (R279) -/
  hit : Bool
  /-- its stream records: context, descriptor address and time on the stall timer (R334, R335) -/
  streams : List (Nat × Nat × Nat)
  /-- local addresses of its withdrawn descriptors, in the order of the save area's entries -/
  addrs : List Nat
  deriving DecidableEq, Repr

/-- Steward and dispatcher state beside the DSP_ registers. -/
structure Disp where
  /-- queue served last, per level -/
  lastServed : List (Nat × Nat)
  /-- shard look-up counts in the present tick: (table, shard) and count, first used first; and the overflow counter (R370) -/
  shards : List ((Nat × Nat) × Nat)
  shardOver : Nat
  /-- rows recorded for replication in the tick: (table, row) (R390) -/
  rows : List (Nat × Nat)
  /-- records of sampled kinds seen (R377), by kind -/
  sampled : List (Nat × Nat)
  /-- the cluster may start tasks once its stagger delay has run (R500) -/
  staggerUntil : Option Nat
  deriving DecidableEq, Repr

def Disp.init : Disp := ⟨[], [], 0, [], [], none⟩

/-! ### Synchronisation -/

/-- A waiter of a semaphore: 0 the core, 3 the matrix engine, 4 the vector engine, 16 + c stream context c. -/
structure SemWait where
  who : Nat
  amount : Nat
  since : Nat
  deriving DecidableEq, Repr

/-- A core waiting on a tally counter. -/
structure TallyWait where
  target : Nat
  since : Nat
  deriving DecidableEq, Repr

/-! ### Engine queues -/

/-- A queued engine descriptor: its copy, the local address it was read from, the tag of the issuing task, and for the vector engine the
four captured scalars (R243, R270). A MATMUL carries in `caps` how many writes to its tile's scratchpad were noted before it (R230). -/
structure QDesc where
  desc : Desc
  addr : Nat
  tag : Nat
  caps : List Word
  deriving DecidableEq, Repr

/-- A comb accumulator (R89): exact value, in units of the class's least bit, and flags. `has` is false while no term has arrived
(EMPTY); for LOOSE, `val` holds the FP32 bits. -/
structure Acc where
  val : Int
  nan : Bool
  pinf : Bool
  ninf : Bool
  poison : Bool
  has : Bool
  deriving DecidableEq, Repr

def Acc.empty : Acc := ⟨0, false, false, false, false, false⟩

/-- An aggregation descriptor as the engine holds it (Table 6-1), with what it names already read. -/
structure Agg where
  pool : Nat
  cls : Nat
  norm : Bool
  wsrc : Nat
  conv : Nat
  elems : Nat
  heads : Nat
  part : Bool
  sigEn : Bool
  outSem : Nat
  block : Nat
  /-- the output tensor descriptor (PART 0) -/
  out : Desc
  ownList : Word
  origin : Nat
  spanLog2 : Nat
  deriving DecidableEq, Repr

/-- An open destination: who owns it (a forager job number, or 1000000 + context), its ID, its row position, its accumulators and
denominators, its counts, and the words of the comb store it holds. -/
structure Dest where
  owner : Nat
  id : Nat
  pos : Nat
  acc : List Acc
  den : List Acc
  terms : Nat
  wide : Nat
  parts : Nat
  loosePsn : Bool
  /-- terms on their way to it -/
  left : Nat
  /-- every term it will take has been issued -/
  allKnown : Bool
  words : Nat
  /-- the first of its contiguous words in the comb store (R191) -/
  base : Nat := 0
  deriving DecidableEq, Repr

/-- A row look-up resolved (R145): its pieces by global address and length. -/
structure Row where
  pieces : List (Nat × Nat)
  cls : Nat
  deriving DecidableEq, Repr

/-- One weight or score: its code, its format and its poison mark. -/
structure WeightVal where
  bits : Nat
  fmt : Nat
  psn : Bool
  deriving DecidableEq, Repr

/-- Work of a forager descriptor, decoded and not yet issued, in order. -/
inductive Work where
  /-- open destination `id` at row position `pos`; needs a comb credit -/
  | dopen (id pos : Nat)
  /-- a term of destination position `pos`: the row, its row format code, weights by head, and whether attached data is poisoned -/
  | term (pos : Nat) (row : Row) (fmt : Nat) (weights : List WeightVal) (psn : Bool)
  /-- a term that is poisoned whatever the row holds (R581) -/
  | psnTerm (pos : Nat)
  /-- every term of `pos` has been listed -/
  | dclose (pos : Nat)
  /-- position `pos` writes nothing but counts for the order of OUT_SEM (R195) -/
  | dskip (pos : Nat)
  /-- a row to the scratchpad at local address `addr` -/
  | toSpad (addr : Nat) (row : Row)
  /-- bytes written to a global address -/
  | write (g : Nat) (bytes : List Byte) (psn : Bool)
  /-- a near-memory atomic: target, AOP, width, signed, operand, compare, where the old value goes and in how many bytes, the bit of TAS -/
  | atom (g aop : Nat) (w64 signed : Bool) (opnd cmp : Nat) (res : Option (Nat × Nat)) (bitIx : Nat)
  /-- the descriptor's own bits and its counts record are checked -/
  | check
  /-- table number `k` of the descriptor is bound (R144, R385) -/
  | bindTable (k : Nat)
  /-- what else the descriptor names is read, and it begins -/
  | begin_
  /-- the elements of the descriptor from number `i` on, not decoded yet -/
  | elems (i : Nat)
  /-- EXPAND of one edge: TAS of neighbour `w`'s bit in the visited table (R175 step 1) -/
  | edge (w : Nat)
  /-- the TAS on the word at `vis` -/
  | visit (vis w : Nat)
  /-- the TAS found neighbour `w` not visited: its bit goes into the next frontier (R175 step 2) -/
  | next (w : Nat)
  /-- MIN on neighbour `w`'s parent word with this value (R175 step 3) -/
  | parent (w v : Nat)
  /-- a scatter-sum term of target `id`: element bytes -/
  | sterm (id : Nat) (bytes : List Byte) (psn : Bool) (fmt : Nat)
  /-- a pantry fill (PREFETCH) -/
  | fill (row : Row) (lock : Bool)
  /-- one piece of the row of buffer `buf` -/
  | piece (buf k g len cls : Nat) (lock : Bool)
  /-- the descriptor stops here with this cause -/
  | fail (cause : Nat)
  deriving DecidableEq, Repr

/-- Who waits for a slot's data: buffer and piece of a job. -/
structure FWait where
  job : Nat
  buf : Nat
  piece : Nat
  deriving DecidableEq, Repr

/-- A request slot (R149). `kind` 0 a row fetch, 1 a write, 2 an atomic, 3 a structure read. -/
structure Slot where
  kind : Nat
  g : Nat
  len : Nat
  cls : Nat
  remote : Bool
  coalesced : Bool
  waiters : List FWait
  /-- no invalidation has covered it since it was asked for (R346) -/
  install : Bool
  lock : Bool
  deriving DecidableEq, Repr

/-- A row waiting for its pieces: what is to be done with it, and the pieces that have come. -/
structure TermBuf where
  id : Nat
  work : Work
  need : Nat
  got : List (Nat × List Byte × Bool)
  deriving DecidableEq, Repr

/-- The counts a descriptor adds to its counts record (Table 5-3). -/
structure Counts where
  done : Nat
  dropped : Nat
  defaulted : Nat
  hubSkipped : Nat
  badWeight : Nat
  terms : Nat
  result : Nat
  deriving DecidableEq, Repr

def Counts.zero : Counts := ⟨0, 0, 0, 0, 0, 0, 0⟩

/-- Bytes of a peer that a decode has asked for and received: global address, length, bytes, poison. -/
structure Cached where
  g : Nat
  len : Nat
  bytes : List Byte
  psn : Bool
  deriving DecidableEq, Repr

/-- A table that a descriptor has bound: its descriptor and its version slot (R144). -/
structure Binding where
  desc : Desc
  slot : Nat
  deriving DecidableEq, Repr

/-- What a forager descriptor found out when it began: elements to process, the graph of each side, the end of the index stream of a bagged
gather, the global address that its output, its old values or its sample lists begin at, the global address and the reach of an atomic's
BASE, and the source tensor of a SCATTER. -/
structure Begun where
  n : Nat
  g : Desc := 0
  g2 : Desc := 0
  total : Nat := 0
  out : Option Nat := none
  home : Nat := 0
  reach : Option Nat := none
  src : Desc := 0
  /-- a PREFETCH whose table is not cacheable in the phase does nothing -/
  idle : Bool := false
  deriving DecidableEq, Repr

/-- A forager descriptor in progress. -/
structure Job where
  num : Nat
  q : QDesc
  begun : Begun
  cache : List Cached
  /-- the slot of the structure read it waits for -/
  wantSlot : Option Nat
  /-- the tables bound so far, in the order in which the descriptor names them -/
  binds : List Binding
  /-- the version slot that the last attempt to bind a table found (R385) -/
  lastSlot : Option Nat
  work : List Work
  /-- fetches and writes to peers held back by REMOTE_MAX (R153) -/
  parked : List Work
  bufs : List TermBuf
  nextBuf : Nat
  agg : Option Agg
  /-- the destination at the head of `work` waits for a comb credit -/
  waitCredit : Bool
  counts : Counts
  /-- row positions written or dropped, for OUT_SEM (R195), and signals already made -/
  donePos : List Nat
  signalled : Nat
  nPos : Nat
  /-- positions whose output rows are written (R137) -/
  wrote : List Nat
  /-- writes, atomics and partials sent and not answered -/
  outstanding : Nat
  /-- its counts have been added to its counts record -/
  statsSent : Bool
  deriving DecidableEq, Repr

/-- A forager. -/
structure Fgr where
  queue : List QDesc
  jobs : List Job
  slots : Tab (Option Slot)
  nextJob : Nat
  /-- the forager begins no further descriptor: R14 or a failed descriptor ahead -/
  stopped : Bool
  deriving DecidableEq, Repr

def Fgr.init : Fgr := ⟨[], [], [], 0, false⟩

/-- A credit request waiting at a comb unit (R192). -/
structure CreditReq where
  owner : Nat
  id : Nat
  pos : Nat
  words : Nat
  since : Nat
  deriving DecidableEq, Repr

/-- A merge context (R199): its destinations in position order, those not open yet, those finalised or forwarded. -/
structure Ctx where
  num : Nat
  agg : Agg
  expect : Nat
  ids : List Nat
  opening : List Nat
  closed : List Nat
  descAddr : Nat
  tag : Nat
  cache : List Cached
  signalled : Nat
  /-- destinations of `closed` for which nothing was written or sent on -/
  failed : List Nat := []
  /-- positions whose output rows are written (R137) -/
  wrote : List Nat := []
  deriving DecidableEq, Repr

/-- A comb unit. -/
structure Cmb where
  queue : List QDesc
  /-- the MERGE_OPEN in progress, and the bytes of peers it has read -/
  busy : Option QDesc
  cache : List Cached
  dests : List Dest
  credits : List CreditReq
  ctxs : List Ctx
  /-- semaphores to signal once every earlier write of the unit is performed (R195) -/
  sigs : List Nat
  stopped : Bool
  /-- words and records freed since the oldest credit request began to wait, and a relocation in progress (R192) -/
  resWords : Nat := 0
  resRecs : Nat := 0
  moving : Bool := false
  deriving DecidableEq, Repr

def Cmb.init : Cmb := ⟨[], none, [], [], [], [], [], false, 0, 0, false⟩

/-- A matrix engine: the descriptor in progress, its next output block, whether it waits for FREE_SEM or has been granted a unit, whether its
outputs are undefined (R227), and whether its poison has been reported (R231). -/
structure Mxe where
  queue : List QDesc
  busy : Option QDesc
  block : Nat
  waiting : Bool
  granted : Bool
  undef : Bool
  psnSent : Bool
  stopped : Bool
  /-- the tensor and weight set descriptors that were read when the descriptor in progress began: A, weights, output, and C where there is one -/
  held : List Desc
  /-- output blocks a weight block of which was read with an uncorrectable error (R231) -/
  wbad : List Nat := []
  deriving DecidableEq, Repr

def Mxe.init : Mxe := ⟨[], none, 0, false, false, false, false, false, [], []⟩

/-- A vector engine: the descriptor in progress, its next ring block, the waiting and the unit granted, whether everything is computed, the
element counts of its counts record, running values of reductions and of a compaction, and whether its poison has been reported. -/
structure Vec where
  queue : List QDesc
  busy : Option QDesc
  block : Nat
  waiting : Bool
  granted : Bool
  ready : Bool
  counts : List Nat
  psnSent : Bool
  stopped : Bool
  deriving DecidableEq, Repr

def Vec.init : Vec := ⟨[], none, 0, false, false, false, [], false, false⟩

/-- A chunk in flight (R322). Sides are global addresses, or host bus addresses where `srcHost` or `dstHost` is set; `next` bytes have been
asked for and `out` requests to peers are outstanding; `data` is what a host read for a peer brought. -/
structure Chunk where
  n : Nat
  src : Nat
  srcHost : Bool
  dst : Nat
  dstHost : Bool
  len : Nat
  deadline : Option Nat
  next : Nat
  out : Nat
  data : List Byte
  /-- bytes of its outstanding requests for which it holds space in the staging buffer (R328) -/
  staged : Nat := 0
  deriving DecidableEq, Repr

/-- A SIGNAL of a waybill that waits for earlier EMITs: every EMIT numbered below `after` must be performed. -/
structure WaySig where
  after : Nat
  sem : Nat
  at_ : Option (Nat × Nat)
  deriving DecidableEq, Repr

/-- An open loop of a waybill: first instruction of the body, its length, COUNT, iteration. -/
structure Loop where
  start : Nat
  len : Nat
  count : Nat
  iter : Nat
  deriving DecidableEq, Repr

/-- A stream context running a waybill. `loops` are the open loops, innermost first. -/
structure Stream where
  q : QDesc
  way : List Word
  wpos : Nat
  loops : List Loop
  x : Word
  a : List Word
  emits : Nat
  chunks : List Chunk
  sigs : List WaySig
  begin_ : Nat
  /-- the semaphore a WAIT blocks on -/
  waitSem : Option Nat
  /-- a LOAD_INDEX waits for the bytes of a peer or of the host -/
  indexing : Bool
  ended : Bool
  /-- a host transfer of this chunk failed; earlier chunks and signals are being completed (R332) -/
  failAt : Option Nat
  lastProgress : Nat
  deriving DecidableEq, Repr

/-- A porter. -/
structure Prt where
  queue : List QDesc
  ctxs : Tab (Option Stream)
  /-- contexts whose stream failed: nothing begins on them (R338) -/
  stopped : List Nat
  /-- restored streams that wait for their context (R334) -/
  restore : List (Nat × Stream)
  deriving DecidableEq, Repr

def Prt.init : Prt := ⟨[], [], [], []⟩

/-- Everything of a tile beside its memory and its registers. -/
structure Tile where
  core : Core
  fgr : Fgr
  cmb : Cmb
  mxe : Mxe
  vec : Vec
  prt : Prt
  deriving DecidableEq, Repr

def Tile.init : Tile := ⟨Core.init, Fgr.init, Cmb.init, Mxe.init, Vec.init, Prt.init⟩

/-! ### Fabric -/

/-- What an answer from a peer is for. -/
inductive Cont where
  | coreAcc (t idx : Nat)
  | fetch (t slot : Nat)
  | fgrWrite (t slot job : Nat)
  /-- an atomic of a forager; `visit` is the neighbour of an EXPAND's TAS -/
  | fgrAtom (t slot job bitIx : Nat) (res : Option (Nat × Nat)) (visit : Option Nat)
  | combWrite (t owner desc tag : Nat)
  | combRead (t : Nat)
  | chunkRead (t c n off : Nat)
  | chunkWrite (t c n : Nat)
  | index (t c : Nat)
  | partialRow (t owner id desc tag : Nat)
  | vecStat (t : Nat)
  /-- a SIGNAL_AT or TALLY_ADD_AT at offset `pc` of the task with tag `tag` -/
  | sync (t pc tag : Nat)
  | waySig (t c : Nat)
  | mirror (owners : List Nat) (answer : Option Nat)
  /-- a claim from a pool: records claimed, the old value, the pool's COUNT and queue once read, the next record -/
  | hubClaim (slot pool batch v : Nat) (hdr : Option (Nat × Nat)) (i : Nat)
  | mgmt
  | copyRead (table row off : Nat)
  | copyWrite (table row : Nat)
  | moved
  | fence
  | preload (c g : Nat) (lock : Bool)
  | none_
  deriving DecidableEq, Repr

/-- A request this module has outstanding at a peer (R436). `pkt` is the packet as sent, so that it can be reissued (R465). -/
structure Req where
  tag : Nat
  dst : Nat
  kind : Nat
  addr : Nat
  len : Nat
  data : List Byte
  poison : Bool
  sentAt : Nat
  cont : Cont
  discard : Bool
  /-- held back until an earlier request to the same sector is answered (R436) -/
  held : Bool
  /-- it travels in the latency-critical class (R398) -/
  lc : Bool := false
  deriving DecidableEq, Repr

/-- An answer this module owes a requester once a mirrored write is performed (Table 17-3 step 5). -/
structure Owed where
  key : Nat
  dst : Nat
  kind : Nat
  tag : Nat
  data : List Byte
  poison : Bool
  deriving DecidableEq, Repr

/-- State of one fabric link (R426, R429, R450, R451): the sequence number expected next, a NAK owed, the number sent next, the flits held
for replay, flits replayed since `window`, the last NOTE for them, units in use at the far end by channel and hop class, the last training
step completed, and the width found: 0 full, 1 lanes 0–7, 2 lanes 8–15, 3 none. -/
structure Link where
  expect : Nat
  nakPending : Bool
  sentSeq : Nat
  retry : List Nat
  replays : Nat
  window : Nat
  noted : Option Nat
  units : List ((Nat × Nat) × Nat)
  step : Nat
  width : Nat
  deriving DecidableEq, Repr

def Link.init : Link := ⟨0, false, 0, [], 0, 0, none, [], 0, 0⟩

/-- A collective in progress (R440–R443): the exact terms merged and the values reduced so far by element, the elements received by
stage and source, the values known, and the stage reached. An element's value is its code and its poison mark. -/
structure Coll where
  ctx : Nat
  seq : Nat
  acc : List (Nat × Acc)
  red : List (Nat × (Nat × Bool))
  got : List ((Nat × Nat) × Nat)
  out : List (Nat × (Nat × Bool))
  stage : Nat
  deriving DecidableEq, Repr

/-- A COLL packet that arrived before this module began its collective: source, context, sequence, stage, first element, poison, data. -/
structure CollPkt where
  src : Nat
  ctx : Nat
  seq : Nat
  stage : Nat
  first : Nat
  psn : Bool
  data : List Byte
  deriving DecidableEq, Repr

/-- The local arrivals held for the next generation of a fabric barrier node, the modules counted and the modules held (R297). -/
structure FabBar where
  next : Nat
  counted : List Nat
  held : List Nat
  deriving DecidableEq, Repr

def FabBar.init : FabBar := ⟨0, [], []⟩

/-- A packet this module has sent (Table 16-3), in the model's outbox. -/
structure Packet where
  kind : Nat
  src : Nat
  dst : Nat
  port : Option Nat
  lc : Bool
  poison : Bool
  nonmin : Bool
  via : Nat
  len : Nat
  addr : Nat
  tag : Nat
  data : List Byte
  hop : Nat := 0
  deriving DecidableEq, Repr

/-- What leaves the module: packets, writes to host memory, host reads requested, MSI-X messages, BAR2 read completions, answers of the
management paths. -/
inductive Out where
  | packet (p : Packet)
  | hostWrite (addr : Nat) (bytes : List Byte) (poison : Bool := false)
  | hostRead (addr len : Nat)
  | msix (vector : Nat)
  | bar2Data (bytes : List Byte) (ep : Bool)
  | oob (bytes : List Byte)
  deriving DecidableEq, Repr

/-! ### Ledger -/

/-- A log record (Table 20-6). -/
structure LogRec where
  msg : Msg
  escalated : Bool
  twin : Bool
  level : Nat
  time : Nat
  seq : Nat
  count : Nat
  reported : Nat
  slot : Nat
  device : Nat
  deriving DecidableEq, Repr

/-- A class entry (R515, Table 20-9). -/
structure ClassEnt where
  source : Nat
  kind : Nat
  p : Nat
  times : List Nat
  recoveries : Nat
  /-- time and sequence number of the last record -/
  last : Option (Nat × Nat)
  lastSeen : Nat
  pending : Option LogRec
  graceAt : Option Nat
  deriving DecidableEq, Repr

/-- An armed fault injection (R528). -/
structure Inj where
  source : Nat
  kind : Nat
  count : Nat
  addr : Nat
  deriving DecidableEq, Repr

/-- The ledger. -/
structure Ledger where
  queue : List Msg
  held : List Msg
  dropped : Bool
  classes : Tab (Option ClassEnt)
  ring : Tab (Option LogRec)
  nextSeq : Nat
  backlog : List LogRec
  flash : Tab (Option LogRec)
  flashNext : Nat
  isoTiles : List Nat
  isoSlices : List (Nat × Nat)
  isoFlash : Bool
  inj : List Inj
  /-- a HALT event in Rest: source, kind and address, acted on after exit (R543) -/
  haltNext : Option (Nat × Nat × Nat)
  deriving DecidableEq, Repr

/-- DESIGN CHOICE, PRESUMED; log entry 2. -/
def Ledger.init : Ledger := ⟨[], [], false, [], [], 0, [], [], 0, [], [], false, [], none⟩

/-! ### Plans -/

/-- A run of a plan (QUERY_RUN, R39–R43, R64). -/
structure Run where
  seed : Word
  /-- QUERY_RUN state code -/
  state : Nat
  ordinal : Nat
  begun : Bool
  pc : Nat
  /-- open loops of the phase program, innermost first: entry of the LOOP, iterations done -/
  loops : List (Nat × Nat)
  /-- the present phase's RUN_PHASE entry -/
  inPhase : Bool
  drained : Bool
  stopReq : Bool
  /-- records of task lists not yet copied: list entry, records copied -/
  lists : List (Nat × Nat)
  /-- records claimed from pools that wait for space in their queue: queue, record -/
  held : List (Nat × List Byte)
  /-- fabric generation of the phase barrier that the module has arrived for -/
  barGen : Nat
  cacheMask : Nat
  invalMask : Nat
  /-- the phase's preloads not yet started: 16 * entry of the preload table + cluster -/
  preloads : List Nat
  /-- the phase's tasks have been released (they wait for the preloads first) -/
  released : Bool
  /-- the phase's pools: entry of the pool table, and whether it was found empty -/
  pools : List (Nat × Bool)
  faultSource : Nat
  faultCause : Nat
  faultAddr : Nat
  sealed : List (Nat × Nat × Nat)
  /-- continuing for the twin (R467): 0 no; 1 this module's share of a phase, the twin's to follow; 2 the twin's share; 3 this module's
  share of a phase that the twin has completed; 4 the twin's share of a phase for which this module has arrived -/
  share : Nat
  deriving DecidableEq, Repr

/-- A loaded plan: what the steward keeps of its image (Tables 2-1 and 2-2). -/
structure Plan where
  id : Word
  nondet : Bool
  fabric : Bool
  seed : Word
  clusterMask : Nat
  phases : List (BitVec 256)
  preloads : List (BitVec 128)
  pools : List Word
  queues : List (BitVec 128)
  lists : List (BitVec 128)
  code : List (Nat × List Byte)
  regions : List Nat
  /-- region requests of the REGIONS section -/
  attrs : List (BitVec 128)
  delta : List (BitVec 128)
  doorbells : List Word
  sync : List (BitVec 128)
  coll : List (Nat × Desc)
  tables : List Word
  twinContinue : Bool
  split : Nat
  run : Option Run
  deriving DecidableEq, Repr

/-- A version slot that a TABLE_PUBLISH or LOAD_PLAN gave, its table descriptor's locator and the plan slot it belongs to. -/
structure VerInfo where
  loc : Word
  plan : Nat
  deriving DecidableEq, Repr

/-- A redirect entry (R389). -/
structure Redir where
  kind : Nat
  dev : Nat
  addr : Nat
  /-- look-ups in the present tick and in the last -/
  hits : Nat
  last : Nat
  deriving DecidableEq, Repr

/-! ### Steward -/

/-- The mailbox command in progress. -/
structure Cmd where
  opcode : Nat
  tag : Nat
  payload : List Byte
  /-- the command came over the out-of-band path (R563) -/
  oob : Bool
  /-- the steward has begun it; until then it waits for the other path's command (R479) -/
  started : Bool
  /-- when the steward began it -/
  since : Nat
  /-- rounds of MEM_TEST still to run: pattern numbers; of TWIN_PAIR the device whose answer is awaited; of FW_UPDATE the slot and security version -/
  rounds : List Nat
  /-- errors found by MEM_TEST so far, by channel, and the first failing address -/
  errs : Tab Nat
  firstFail : Option Nat
  deriving DecidableEq, Repr

/-- A ring-mode LOAD_PLAN in progress (R37). -/
structure Load where
  loc : Word
  bytes : Nat
  slot : Nat
  ring : Nat
  /-- image bytes read so far -/
  got : List Byte
  lastAdvance : Nat
  /-- indices of the regions, once the early sections have come and the regions are placed -/
  placed : List Nat := []
  deriving DecidableEq, Repr

/-- A copy of a row that the policy makes (R390, R392): table, row, kind of entry (1 REPLICA, 2 MOVED), where it is copied from and to, its
length, the parts that have come, and how far it is: 0 asked for or granted, 1 being copied, 2 performed. -/
structure Copy where
  table : Nat
  row : Nat
  kind : Nat
  srcDev : Nat
  src : Nat
  dstDev : Nat
  dst : Nat
  len : Nat
  parts : List (Nat × List Byte × Bool)
  stage : Nat
  /-- made by this module as the home of the row that moves -/
  byHome : Bool := false
  deriving DecidableEq, Repr

/-- A shadow of a region of the twin (R456): the twin's index for it and the twin's two words of its entry, the two words that say where it
lies here, and the region table index at which it is installed. A region that the twin gives back (R469) is kept in the same list. -/
structure Shadow where
  idx : Nat
  xaddr : Word
  xattr : Word
  addr : Word
  attr : Word
  inst : Option Nat
  deriving DecidableEq, Repr

/-- State of the twin's share that this module keeps (Table 17-2). -/
structure Twin where
  shadows : List Shadow
  plans : List Plan
  runs : List (Nat × Word × Word)
  checkpoints : List (Nat × Nat × Nat × List (Nat × Nat))
  lastBeat : Nat
  /-- the probe of R462: when it was sent, and whether it has been answered -/
  probing : Option (Nat × Bool)
  /-- FENCE of Table 17-4 step 2: when it was sent -/
  fencing : Option Nat
  /-- while a run is continued for the twin: the plan that is not in the slot now -/
  swapped : Option Plan
  /-- sections of a shadow plan that is being received, by kind -/
  rx : List (Nat × List Byte)
  /-- the twin's volatile settings and policy parameters -/
  settings : List (Nat × Nat)
  deriving DecidableEq, Repr

/-- DESIGN CHOICE, PRESUMED; log entry 2. -/
def Twin.init : Twin := ⟨[], [], [], [], 0, none, none, none, [], []⟩

/-- What one limiter of the governor asks for (R496): a VCORE ceiling and five admissions. -/
structure Limit where
  vcore : Nat
  admits : List Nat
  deriving DecidableEq, Repr

/-- The governor's internal state (chapter 19). Times are device times. -/
structure Gov where
  /-- limits of the power cap and of the compute thermal loop; 850 mV and 64/64 are their maxima -/
  cap : Limit
  tj : Limit
  /-- the fast current limiter is engaged, since -/
  fast : Option Nat
  emergency : Bool
  /-- brownout hold: its VCORE ceiling and when it was entered -/
  brown : Option (Nat × Nat)
  /-- readings by sensor, in hundredths of a degree, and their time; sensors 64 to 95 are the port dies' -/
  sensors : Tab (Option (Int × Nat))
  excluded : List Nat
  /-- input power has stayed at or below 98 % of the cap since -/
  belowSince : Option Nat
  /-- the cap loop's last raise -/
  raisedAt : Nat
  deferSince : Option Nat
  /-- a deferral ended by COLLECTIVE_GRACE and power has not come back to the cap -/
  deferLatch : Bool
  /-- every cap limit is at its floor and power has stayed above the cap since -/
  unmetSince : Option Nat
  /-- input power at the last ticks, newest first -/
  powerHist : List Nat
  /-- the compute thermal loop is engaged, its last step, and since when the hottest sensor has been 3 °C below -/
  tjOn : Bool
  tjStepAt : Nat
  tjCool : Option Nat
  /-- the last SLOW notice, while a cause for it holds -/
  slowAt : Option Nat
  /-- the 48 V input fell below 36 V -/
  failAt : Option Nat
  deriving DecidableEq, Repr

def Limit.max : Limit := ⟨850, [64, 64, 64, 64, 64]⟩

/-- DESIGN CHOICE, PRESUMED; log entry 2. -/
def Gov.init : Gov :=
  { cap := Limit.max, tj := Limit.max, fast := none, emergency := false, brown := none, sensors := [], excluded := [], belowSince := none,
    raisedAt := 0, deferSince := none, deferLatch := false, unmetSince := none, powerHist := [], tjOn := false, tjStepAt := 0, tjCool := none,
    slowAt := none, failAt := none }

/-- A firmware image in a slot: installation number, security version, version as HST_ID [39:8]. -/
structure FwImage where
  stamp : Nat
  secver : Nat
  version : Nat
  deriving DecidableEq, Repr

/-- A write that the innkeeper has to make in the flash: a settings record, or an image in a slot (0 INK_A, 1 INK_B, 2 STW_A, 3 STW_B,
4 factory settings). -/
inductive FlashJob where
  | setting (n : Nat) (words : List Word)
  | image (slot : Nat) (img : FwImage)
  deriving DecidableEq, Repr

/-- A PLDM firmware update under way (R553, R556, R562): the state it is in (1 learning components, 2 ready, 3 download, 4 verify, 5 apply),
the largest transfer, the component and its size, the bytes received, and whether the present step has ended and ended well. -/
structure Pldm where
  stage : Nat
  maxXfer : Nat
  comp : Nat
  size : Nat
  got : List Byte
  ended : Bool
  ok : Bool
  deriving DecidableEq, Repr

/-- The key cache in flash: the helper data of the SRAM PUF, and whether the vendor's certificates are still in it (R558–R560). -/
structure KeyCache where
  helper : BitVec 256
  certs : Bool
  deriving DecidableEq, Repr

/-- The seed and the four values derived from it (R558, R559): the DRBG seed of the RSA identity key, the SLH-DSA key seeds, the settings store key
and the key of the key cache. -/
structure KeySet where
  seed : BitVec 256
  drbg : List Byte
  slh : List Byte
  store : List Byte
  cache : List Byte
  deriving DecidableEq, Repr

/-- Firmware slots, settings and management state (chapter 22). -/
structure Mgmt where
  /-- images by slot, and the slots of the running innkeeper firmware and steward bundle -/
  images : Tab FwImage
  booted : Nat × Nat
  /-- images installed so far -/
  stamps : Nat
  /-- the settings store: number and value -/
  settings : List (Nat × List Word)
  /-- sequence number of the next settings record (R557) -/
  settingsSeq : Nat
  flashQ : List FlashJob
  /-- a flash write of the command under way failed -/
  flashBad : Bool
  /-- the PLDM update under way -/
  pldm : Option Pldm
  /-- the MCTP endpoint ID; 0 until one is assigned -/
  eid : Nat
  /-- answers of the out-of-band mailbox that wait for the bus owner, oldest first -/
  oobReady : List (List Byte)
  /-- the attestation report that the out-of-band path reads in parts (R563) -/
  report : List Byte
  /-- challenges shown so far -/
  challenges : Nat
  /-- last watchdog kick of each steward core -/
  kicks : Tab Nat
  /-- deadlines of boots to be confirmed: of the steward bundle (true) or the innkeeper firmware -/
  confirmAt : List (Bool × Nat)
  cache : KeyCache
  /-- the keys the innkeeper holds; none before its first stage has ended -/
  keys : Option KeySet
  deriving DecidableEq, Repr

/-- DESIGN CHOICE, PRESUMED; log entry 2. -/
def Mgmt.init : Mgmt :=
  { images := [], booted := (0, 2), stamps := 0, settings := [], settingsSeq := 0, flashQ := [], flashBad := false, pldm := none, eid := 0,
    oobReady := [], report := [], challenges := 0, kicks := [], confirmAt := [], cache := ⟨Config.pufHelper, true⟩, keys := none }

/-- Pins and supplies of the module (chapters 19, 21 and 23): inputs as last seen, outputs as driven. -/
structure Pins where
  aux : Bool
  pwrEn : Bool
  moduleReset : Bool
  perst : Bool
  mains : Bool
  ready : Bool
  heartbeat : Bool
  heartbeatOn : Bool
  heartbeatAt : Nat
  thermtrip : Bool
  pwrfail : Bool
  alert : Bool
  deriving DecidableEq, Repr

/-- DESIGN CHOICE, PRESUMED; log entry 2. -/
def Pins.init : Pins := ⟨true, false, false, false, false, false, false, false, 0, false, true, false⟩

end Sys2Proof.Machine
end

