-- ==== Sys2Proof/Machine/State.lean ====
section
/-! DEFINITION. The state of the module as plain data, the reasons a step can stop, and the state after AUX power-on reset. -/

namespace Sys2Proof.Machine

/-- A partial row travelling on the network-on-chip to an owner tile (R196). -/
structure PartMsg where
  src : Nat
  owner : Nat
  id : Nat
  dst : Nat
  ctx : Nat
  row : List Byte
  /-- the descriptor that sent it and the tag of its task -/
  desc : Nat := 0
  tag : Nat := 0
  deriving DecidableEq, Repr

/-- Reasons for which a step stops with a fault. -/
inductive Fault where
  /-- a command that fails `Instr.wf` was given; raised by `exec` meanings that are handed an address outside the spaces the spec lays
  out. Safe: the machine stops where the spec has no such command. -/
  | illFormed (what : String)
  deriving DecidableEq, Repr

/-- Reasons for which a command has no step here. -/
inductive Refusal where
  /-- the command's meaning is not written yet. Safe. -/
  | notModelled (mnemonic : String)
  /-- the event named cannot occur in this state: an expiry of a timer that is not running, an answer that nothing waits for, an
  instruction on a core without a task, a completion of work that is not in progress. Raised by the meanings. Safe. -/
  | notPresent (why : String)
  deriving DecidableEq, Repr

/-- The state of the module. -/
structure State where
  /-- commands waiting, first in, first out -/
  pending : List Instr
  /-- device time base, ns (R540) -/
  now : Nat
  /-- the model's own counter of free values drawn -/
  freeCtr : Nat
  /-- what has left the module, oldest first -/
  outbox : List Out
  -- memory
  /-- bytes of DRAM and tile SRAM windows by local address -/
  mem : List Host.Cell
  /-- spans in which nothing defined is stored -/
  undef : List Span
  /-- spans of DRAM written by the phase under way of each running plan, for the outputs an ABORT leaves undefined (R43): plan slot and span -/
  dirty : List (Nat × Nat × Nat)
  /-- writes of engines and porters to the scratchpad of a tile whose matrix engine has work: tile and span, oldest first (R230) -/
  staged : List (Nat × Nat × Nat)
  /-- poison marks: DRAM sectors by their address, scratchpad words by their address (R282, R405) -/
  poison : Tab Bool
  /-- sectors of DRAM whose last read was uncorrectable and that nothing has rewritten or retired since (R404, R410) -/
  ueSectors : List Nat
  /-- patrol by channel: when its present pass began, and the sectors read in it (R406) -/
  patrol : Tab (Nat × Nat)
  /-- bad-spare map: channel, spare (R409) -/
  badSpares : List (Nat × Nat)
  /-- corrected-error trackers by channel: page and count (R407) -/
  ceTrack : Tab (List (Nat × Nat))
  /-- retirements triggered and not yet made: channel, data page -/
  retireQ : List (Nat × Nat)
  /-- consecutive lower MR4 polls by package (R414) -/
  lowPolls : Tab Nat
  -- registers
  csr : Tab Word
  -- tiles and clusters
  tiles : Tab Tile
  disps : Tab Disp
  pans : Tab Pantry
  suspended : List Suspended
  /-- tasks whose END has retired and whose descriptors have not all completed: tile and task -/
  ended : List (Nat × Task)
  taskCtr : Nat
  traceLost : Nat
  -- synchronisation
  semQ : Tab (List SemWait)
  tallyQ : Tab (List TallyWait)
  notifyLast : Tab Nat
  /-- arrivals on their way to a die barrier home: context, tile -/
  barArr : List (Nat × Nat)
  /-- tiles a release has not reached yet, by context (die 0–31, fabric 32–63) -/
  barRel : Tab (List Nat)
  /-- fabric releases held back by the governor's group offset (R501): context -/
  groupWait : List (Nat × Nat)
  partials : List PartMsg
  -- fabric
  reqs : List Req
  nextTag : Nat
  owed : List Owed
  links : Tab Link
  /-- device IDs of the shape, ascending (R452) -/
  shape : List Nat
  /-- modules counted and held at each fabric barrier node (R297) -/
  fabArr : Tab FabBar
  colls : List Coll
  collHeld : List CollPkt
  probes : List (Nat × Nat)
  slowAt : Tab Nat
  /-- devices served by their twin: device, serving device (R465) -/
  servedBy : List (Nat × Nat)
  mgmtIn : List (Nat × List Byte)
  twin : Twin
  -- ledger
  ledger : Ledger
  -- plans and tables
  plans : Tab (Option Plan)
  runCtr : Nat
  verInfo : Tab (Option VerInfo)
  redirect : List ((Nat × Nat) × Redir)
  /-- homes whose move interval is in progress, this module's own among them -/
  moveFrom : List Nat
  /-- copies of a row that this module granted as its home: table, row, requester (R390) -/
  grants : List (Nat × Nat × Nat)
  /-- keys removed from the redirect table since the presence filters were last rebuilt (R389) -/
  rdrStale : List (Nat × Nat)
  /-- space of removed replicas, with the plan slots whose next phase barrier it waits for -/
  freed : List (Nat × List Nat)
  copies : List Copy
  /-- policy parameters the steward holds, in force, and changes that take effect at the next tick (R374) -/
  policy : List (Nat × Nat)
  policyNext : List (Nat × Nat)
  freeze : Nat
  freezeNext : Nat
  /-- tile-idle start times for HUB_IDLE (R375) -/
  idleSince : Option Nat
  -- host interface
  cmd : Option Cmd
  oobCmd : Option Cmd
  /-- the mailbox payload by offset; a byte not listed is 0 while `mbxGen` is 0 and undefined otherwise (R482) -/
  mbxPay : Tab Byte
  mbxGen : Nat
  load : Option Load
  evqOldest : Option Nat
  evqRaised : Nat
  /-- doorbell writes that wait for the mirrors of the host's BAR2 writes: page, register offset in it, value (R302) -/
  dbHeld : List (Nat × Nat × Nat)
  aborting : Bool
  dstate : Nat
  -- reset, boot and Rest
  /-- boot stage in progress 1–7; 0 when booted; 8 held in reset -/
  boot : Nat
  /-- a DEVICE_RESET or PERST# sequence is in progress -/
  resetting : Nat
  /-- 0 awake, 1 in Rest, 2 leaving Rest -/
  rest : Nat
  /-- accesses, requests and packets that reached the resting module, served after the exit (R544) -/
  woken : List Instr
  gov : Gov
  mgmt : Mgmt
  pins : Pins
  /-- the PCIe link as it trained: generation and lanes (R472) -/
  pcie : Option (Nat × Nat)
  deriving DecidableEq, Repr

/-- Local addresses of the DRAM range and of the tile SRAM windows (Table 1-8). -/
def dramTop : Nat := 0x05D000000000
def sramBase : Nat := 0x100000000000
def sramTop : Nat := 0x100080000000

/-- Steward-held policy parameters at their defaults (Table 13-13). -/
def policyDefaults : List (Nat × Nat) :=
  [(0x03, 1), (0x04, 20), (0x05, 4096), (0x06, 8), (0x07, 1), (0x08, 4), (0x09, 5), (0x10, 1000), (0x11, 100)]

/-- The module right after AUX power-on: registers at the reset values of their tables, memory and tile SRAM undefined, every queue and
engine empty, boot at stage 1 (R537). -/
def State.reset : State :=
  { pending := [], now := 0, freeCtr := 1, outbox := [],
    mem := [], undef := [⟨0, dramTop, 0⟩, ⟨sramBase, sramTop, 0⟩], dirty := [], staged := [], poison := [], ueSectors := [], patrol := [], badSpares := [], ceTrack := [], retireQ := [],
    lowPolls := [], csr := [], tiles := [], disps := [], pans := [], suspended := [], ended := [], taskCtr := 0,
    traceLost := 0, semQ := [], tallyQ := [], notifyLast := [], barArr := [], barRel := [], groupWait := [], partials := [],
    reqs := [], nextTag := 0, owed := [], links := [], shape := [], fabArr := [], colls := [], collHeld := [], probes := [], slowAt := [], servedBy := [],
    mgmtIn := [], twin := Twin.init, ledger := Ledger.init, plans := [], runCtr := 0, verInfo := [], redirect := [],
    moveFrom := [], grants := [], rdrStale := [], freed := [], copies := [], policy := policyDefaults, policyNext := [], freeze := 0, freezeNext := 0,
    idleSince := none, cmd := none, oobCmd := none, mbxPay := [], mbxGen := 0, load := none, evqOldest := none, evqRaised := 0,
    dbHeld := [], aborting := false, dstate := 0, boot := 1, resetting := 0, rest := 0, woken := [], gov := Gov.init, mgmt := Mgmt.init, pins := Pins.init, pcie := none }

end Sys2Proof.Machine
end

