-- ==== Sys2Proof/Machine/Ops.lean ====
section
/-! DEFINITION. The named operations over registers, tiles, the ledger's input, memory, regions and locators that every meaning
uses. -/

namespace Sys2Proof.Machine

/-- What a step answers. -/
abbrev Res := Host.Outcome State Fault Refusal

/-- The event named cannot occur here. (DESIGN CHOICE; log entry 8.) -/
def absent (why : String) : Res := .refused (.notPresent why)

/-! ### Registers -/

def csrGet (s : State) (a : Nat) : Word := tabGet csrReset s.csr a
def csrPut (s : State) (a : Nat) (v : Word) : State := { s with csr := tabSet csrReset s.csr a v }
/-- Field `[lo + w - 1 : lo]` of the register at `a`. -/
def csrF (s : State) (a lo w : Nat) : Nat := getF (csrGet s a) lo w
def csrSetF (s : State) (a lo w v : Nat) : State := csrPut s a (setF (csrGet s a) lo w v)
/-- A counter that wraps at 64 bits. -/
def csrAdd (s : State) (a n : Nat) : State := csrPut s a (csrGet s a + BitVec.ofNat 64 n)
/-- The registers of `[lo, hi)` back at their reset values. -/
def csrDrop (s : State) (lo hi : Nat) : State := { s with csr := tabDrop (fun k => decide (lo ≤ k ∧ k < hi)) s.csr }

/-! ### Tiles and clusters -/

def tileOf (s : State) (t : Nat) : Tile := tabGet (fun _ => Tile.init) s.tiles t
def setTile (s : State) (t : Nat) (x : Tile) : State := { s with tiles := tabSet (fun _ => Tile.init) s.tiles t x }
def coreOf (s : State) (t : Nat) : Core := (tileOf s t).core
def setCore (s : State) (t : Nat) (x : Core) : State := setTile s t { tileOf s t with core := x }
def fgrOf (s : State) (t : Nat) : Fgr := (tileOf s t).fgr
def setFgr (s : State) (t : Nat) (x : Fgr) : State := setTile s t { tileOf s t with fgr := x }
def cmbOf (s : State) (t : Nat) : Cmb := (tileOf s t).cmb
def setCmb (s : State) (t : Nat) (x : Cmb) : State := setTile s t { tileOf s t with cmb := x }
def mxeOf (s : State) (t : Nat) : Mxe := (tileOf s t).mxe
def setMxe (s : State) (t : Nat) (x : Mxe) : State := setTile s t { tileOf s t with mxe := x }
def vecOf (s : State) (t : Nat) : Vec := (tileOf s t).vec
def setVec (s : State) (t : Nat) (x : Vec) : State := setTile s t { tileOf s t with vec := x }
def prtOf (s : State) (t : Nat) : Prt := (tileOf s t).prt
def setPrt (s : State) (t : Nat) (x : Prt) : State := setTile s t { tileOf s t with prt := x }
def ctxOf (s : State) (t c : Nat) : Option Stream := tabGet (fun _ => none) (prtOf s t).ctxs c
def setCtx (s : State) (t c : Nat) (x : Option Stream) : State :=
  setPrt s t { prtOf s t with ctxs := tabSet (fun _ => none) (prtOf s t).ctxs c x }
def dispOf (s : State) (c : Nat) : Disp := tabGet (fun _ => Disp.init) s.disps c
def setDisp (s : State) (c : Nat) (x : Disp) : State := { s with disps := tabSet (fun _ => Disp.init) s.disps c x }
def panOf (s : State) (c : Nat) : Pantry := tabGet (fun _ => Pantry.empty) s.pans c
def setPan (s : State) (c : Nat) (x : Pantry) : State := { s with pans := tabSet (fun _ => Pantry.empty) s.pans c x }
def linkOf (s : State) (p : Nat) : Link := tabGet (fun _ => Link.init) s.links p
def setLink (s : State) (p : Nat) (x : Link) : State := { s with links := tabSet (fun _ => Link.init) s.links p x }
def planOf (s : State) (i : Nat) : Option Plan := tabGet (fun _ => none) s.plans i
def setPlan (s : State) (i : Nat) (x : Option Plan) : State := { s with plans := tabSet (fun _ => none) s.plans i x }

/-! ### The plan that runs on a cluster -/

/-- RUNNING or STOPPING. -/
def runActive (r : Run) : Bool := r.state == 1 || r.state == 2

def planActive (p : Option Plan) : Bool :=
  match p with
  | some p => (p.run.map runActive).getD false
  | none => false

/-- Slots whose plan is running, ascending. -/
def activeSlots (s : State) : List Nat := (List.range 8).filter (fun i => planActive (planOf s i))

/-- The slot whose running plan holds cluster `c`. -/
def slotOfCluster (s : State) (c : Nat) : Option Nat :=
  (activeSlots s).find? (fun i => match planOf s i with
    | some p => p.clusterMask.testBit c
    | none => false)

/-- A fresh free value: the opaque constant at the counter, and the counter advanced. (DESIGN CHOICE, DEDUCED; log entries 39, 57.) -/
def freshFree (s : State) : Word × State := (Config.freeWord s.freeCtr, { s with freeCtr := s.freeCtr + 1 })

/-- Something leaves the module. (DESIGN CHOICE; log entry 61.) -/
def emitOut (s : State) (o : Out) : State := { s with outbox := s.outbox ++ [o] }

/-- The module's own device ID (FAB_ID.DEVICE_ID). -/
def ownId (s : State) : Nat := csrF s (fabCsr 0x08) 0 11

/-! ### Fault messages (R512, R513) -/

/-- Fault levels. -/
def NOTE : Nat := 0
def CONTAIN : Nat := 1
def DEGRADE : Nat := 2
def HALT : Nat := 3

/-- A checker sends a message: it joins the ledger's input queue of 32; with the queue full the checker holds it, and counts further
events while it holds one (R513). -/
def sendMsg (s : State) (m : Msg) : State :=
  let l := s.ledger
  if l.queue.length < 32 then { s with ledger := { l with queue := l.queue ++ [m] } }
  else if l.held.any (fun h => h.source == m.source) then
    csrAdd { s with ledger := { l with dropped := true } } (ldgCsr 0x70) 1
  else { s with ledger := { l with held := l.held ++ [m] } }

/-- A checker of `source` reports an event of `kind` at `level`, with a local or global address when it has one. -/
def raise (s : State) (source kind level : Nat) (addr : Option Nat := none) (inj : Bool := false) : State :=
  sendMsg s { source := BitVec.ofNat 16 source, kind := BitVec.ofNat 8 kind, level := BitVec.ofNat 2 level,
              addrValid := addr.isSome, injected := inj, addr := BitVec.ofNat 56 (addr.getD 0), time := BitVec.ofNat 40 s.now }

/-- The global address of a local one (R31). -/
def globalOf (s : State) (a : Nat) : Nat := ownId s * 2 ^ 45 + a

/-- A command that reaches the resting module is held for the exit from Rest, which begins (R544). -/
def holdWake (s : State) (held : List Instr) : State := { s with rest := 2, woken := s.woken ++ held }

/-- Source code of block `blk` of tile `t` (Table 20-2). -/
def tileSrc (blk t : Nat) : Nat := blk * 0x100 + t

/-- The injection armed at a checker whose check covers the `n` bytes at local address `addr` (R528). -/
def armedInj (s : State) (source addr n : Nat) : Option Inj :=
  s.ledger.inj.find? (fun i => i.source == source && decide (0 < i.count) && (i.addr == 0 || decide (addr ≤ i.addr ∧ i.addr < addr + n)))

/-- Consume one armed injection at a checker (R528, R529) whose check covers the `n` bytes at local address `addr`: what the check finds in place
of `e`, and whether it was injected. (DEDUCED; log entry 58.) -/
def injected (s : State) (source addr n : Nat) (e : Ecc) : Ecc × Bool × State :=
  match armedInj s source addr n with
  | none => (e, false, s)
  | some i =>
    let inj := s.ledger.inj.map (fun j => if j = i then { j with count := j.count - 1 } else j)
    let s := { s with ledger := { s.ledger with inj := inj.filter (fun j => decide (0 < j.count)) } }
    (if i.kind = 0x10 then .corrected else .uncorrectable, true, s)

/-! ### Bytes of memory -/

def inSpan (a : Nat) (u : Span) : Bool := decide (u.lo ≤ a ∧ a < u.hi)

/-- The byte at local address `a`: its listed value; a free value where nothing defined has been stored; otherwise 0. (DEDUCED; log entry 3.) -/
def memByte (s : State) (a : Nat) : Byte :=
  match s.undef.find? (inSpan a) with
  | some u => Config.freeByte u.gen a
  | none => tabGet (fun _ => 0) s.mem a

def memBytes (s : State) (a : Nat) : Nat → List Byte
  | 0 => []
  | n + 1 => memByte s a :: memBytes s (a + 1) n

/-- Little-endian number at `a`, `n` bytes. -/
def memNat (s : State) (a n : Nat) : Nat := ofLE (memBytes s a n)

/-- What is left of a span without `[lo, hi)`. -/
def cutSpan (lo hi : Nat) (u : Span) : List Span :=
  (if u.lo < min u.hi lo then [{ u with hi := min u.hi lo }] else []) ++
  (if max u.lo hi < u.hi then [{ u with lo := max u.lo hi }] else [])

def cutSpans (lo hi : Nat) (us : List Span) : List Span :=
  us.flatMap (fun u => if u.hi ≤ lo ∨ hi ≤ u.lo then [u] else cutSpan lo hi u)

/-- DEDUCED; log entry 3. -/
def putBytes (m : List Host.Cell) (a : Nat) : List Byte → List Host.Cell
  | [] => m
  | b :: bs => putBytes (tabSet (fun _ => (0 : Byte)) m a b) (a + 1) bs

/-- The canonical form of memory: addresses strictly rising, and no listed byte is 0. (DEDUCED; log entry 3.) -/
def Memory.wf (m : List Host.Cell) : Bool := tabWf (fun _ => (0 : Byte)) m

/-- Store bytes at a local address, without poison. (DEDUCED; log entry 3.) -/
def storeBytes (s : State) (a : Nat) (bs : List Byte) : State :=
  { s with mem := putBytes s.mem a bs, undef := cutSpans a (a + bs.length) s.undef }

/-- `[lo, hi)` holds zeros. -/
def zeroSpan (s : State) (lo hi : Nat) : State :=
  { s with mem := tabDrop (fun k => decide (lo ≤ k ∧ k < hi)) s.mem, undef := cutSpans lo hi s.undef }

/-- The contents of `[lo, hi)` are undefined from now on, with no poison. (DEDUCED; log entry 3.) -/
def undefSpan (s : State) (lo hi : Nat) : State :=
  let s := zeroSpan s lo hi
  { s with undef := if lo < hi then s.undef ++ [⟨lo, hi, s.freeCtr⟩] else s.undef, freeCtr := s.freeCtr + 1,
           poison := tabDrop (fun k => decide (lo ≤ k ∧ k < hi)) s.poison, ueSectors := s.ueSectors.filter (fun k => decide (k < lo ∨ hi ≤ k)) }

/-- The lowest start in `[0, top)` at which `n` units meet none of the intervals. (DESIGN CHOICE; log entries 18, 30.) -/
def firstFit (occ : List (Nat × Nat)) (n top : Nat) : Option Nat :=
  let ok (c : Nat) : Bool := decide (c + n ≤ top) && occ.all (fun o => decide (c + n ≤ o.1 ∨ o.2 ≤ c))
  (0 :: occ.map (·.2)).foldl (fun best c => if ok c && (match best with
    | some b => decide (c < b)
    | none => true) then some c else best) none

/-! ### Poison (R282, R405) -/

/-- Bytes that share a poison mark: a 64-byte sector of DRAM, an 8-byte word of tile SRAM. -/
def psnUnit (a : Nat) : Nat := if a < sramBase then 64 else 8
def psnKey (a : Nat) : Nat := a / psnUnit a * psnUnit a
/-- Poison stored with the data. -/
def psnStored (s : State) (a : Nat) : Bool := tabGet (fun _ => false) s.poison (psnKey a)
/-- A read here is delivered poisoned: poison is stored, or the sector is one that cannot be corrected (R404, R410). -/
def psnAt (s : State) (a : Nat) : Bool := psnStored s a || s.ueSectors.contains (psnKey a)
def setPsn (s : State) (a : Nat) (b : Bool) : State := { s with poison := tabSet (fun _ => false) s.poison (psnKey a) b }

/-- The keys of the poison units that `[a, a + n)` touches. -/
def psnKeys (a n : Nat) : List Nat :=
  if n = 0 then [] else (List.range ((psnKey (a + n - 1) - psnKey a) / psnUnit a + 1)).map (fun i => psnKey a + i * psnUnit a)

/-- Whether any byte of `[a, a + n)` is poisoned. -/
def psnIn (s : State) (a n : Nat) : Bool := (psnKeys a n).any (psnAt s)

/-- `[a, a + n)` is written: a sector that could not be corrected is stored anew, and where only a part of it is written, with the poison of the
read that such a write makes first (R402, R405). -/
def ueClear (s : State) (a n : Nat) : State :=
  let hit (k : Nat) : Bool := decide (a < k + 64 ∧ k < a + n)
  if s.ueSectors.any hit then
    let whole (k : Nat) : Bool := decide (a ≤ k ∧ k + 64 ≤ a + n)
    (s.ueSectors.filter (fun k => hit k && !whole k)).foldl (fun s k => setPsn s k true) { s with ueSectors := s.ueSectors.filter (fun k => !hit k) }
  else s

/-- The phase under way of the plan in a slot writes `n` bytes of DRAM at `a` (R43). -/
def noteDirty (s : State) (slot : Option Nat) (a n : Nat) : State :=
  match slot with
  | some i => if planActive (planOf s i) then { s with dirty := s.dirty ++ [(i, a, a + n)] } else s
  | none => s

/-- A write of data at its home: poisoned data marks every unit it touches; clean data clears the units it covers whole and leaves
the others as they are. -/
def writeHome (s : State) (a : Nat) (bs : List Byte) (psn : Bool) : State :=
  let n := bs.length
  let s := ueClear s a n
  (psnKeys a n).foldl
    (fun s k => if psn then setPsn s k true else if a ≤ k ∧ k + psnUnit k ≤ a + n then setPsn s k false else s)
    (storeBytes s a bs)

/-- How many noted writes reached the scratchpad of a tile. -/
def stagedCount (s : State) (t : Nat) : Nat := (s.staged.filter (fun e => e.1 == t)).length

/-- An engine or porter writes `n` bytes at `a`; in the scratchpad of a tile whose matrix engine has a descriptor queued or in progress the span is
noted (R230). (DEDUCED; log entry 20.) -/
def stageNote (s : State) (a n : Nat) : State :=
  let t := (a - sramBase) / 0x800000
  if sramBase ≤ a ∧ a < sramTop ∧ ((mxeOf s t).busy.isSome ∨ (mxeOf s t).queue ≠ []) then { s with staged := s.staged ++ [(t, a, a + n)] } else s

/-- Nothing is queued or in progress at the matrix engine of a tile any more. -/
def stageClear (s : State) (t : Nat) : State := { s with staged := s.staged.filter (fun e => e.1 != t) }

/-- A write of an engine or porter at its home. -/
def engineWrite (s : State) (a : Nat) (bs : List Byte) (psn : Bool) : State := writeHome (stageNote s a bs.length) a bs psn

/-! ### Regions (chapter 4) -/

def rgnAddr (i : Nat) : Nat := stwCsr (0x80000 + i * 0x10)
def rgnAttr (i : Nat) : Nat := stwCsr (0x80008 + i * 0x10)
def rgnValid (s : State) (i : Nat) : Bool := csrF s (rgnAttr i) 27 1 == 1
def rgnBase (s : State) (i : Nat) : Nat := csrF s (rgnAddr i) 16 29 * 0x10000
def rgnSize (s : State) (i : Nat) : Nat := csrF s (rgnAttr i) 0 27 * 0x10000
def rgnMode (s : State) (i : Nat) : Nat := csrF s (rgnAttr i) 28 2
def rgnTarget (s : State) (i : Nat) : Nat := csrF s (rgnAttr i) 30 9
def rgnClass (s : State) (i : Nat) : Nat := csrF s (rgnAttr i) 39 4
def rgnPrefetch (s : State) (i : Nat) : Bool := csrF s (rgnAttr i) 43 1 == 1
def rgnWritable (s : State) (i : Nat) : Bool := csrF s (rgnAttr i) 44 1 == 1
def rgnMirrored (s : State) (i : Nat) : Bool := csrF s (rgnAttr i) 45 1 == 1
def rgnPeer (s : State) (i : Nat) : Bool := csrF s (rgnAttr i) 46 1 == 1
def rgnHost (s : State) (i : Nat) : Bool := csrF s (rgnAttr i) 47 1 == 1
def rgnOwner (s : State) (i : Nat) : Nat := csrF s (rgnAttr i) 48 4

/-- Indices of the valid regions, ascending. -/
def validRegions (s : State) : List Nat :=
  s.csr.filterMap (fun e =>
    if inArray e.1 (stwCsr 0x80008) 0x10 4096 ∧ getF e.2 27 1 = 1 then some ((e.1 - stwCsr 0x80008) / 0x10) else none)

/-- The valid region that holds all of `[a, a + n)`. -/
def regionOf (s : State) (a n : Nat) : Option Nat :=
  (validRegions s).find? (fun i => decide (rgnBase s i ≤ a ∧ a + max n 1 ≤ rgnBase s i + rgnSize s i))

def chanAddr (ch o : Nat) : Nat := memCsr (ch / 96) (0x10000 + 0x100 * (ch % 96) + o)

/-- Live channels in ascending order (R108). -/
def liveChans (s : State) : List Nat := (List.range 384).filter (fun c => csrF s (chanAddr c 0) 0 2 != 2)

/-- Channel and channel offset of byte `o` of a region whose share begins at channel offset `c` (R108), over the live channels given. -/
def chanAt (live : List Nat) (mode target c o : Nat) : Nat × Nat :=
  let l := live.length
  match mode with
  | 0 =>
    let g := o / 256
    let r := g / l
    let j := g - r * l
    let h := ((r ^^^ (r >>> 9) ^^^ (r >>> 18) ^^^ (r >>> 27)) % 512) % l
    (live.getD ((j + h) % l) 0, c + r * 256 + o % 256)
  | 1 =>
    let g := o / 2048
    let r := g / l
    (live.getD (g - r * l) 0, c + r * 2048 + o % 2048)
  | 2 =>
    let g := o / 256
    (4 * target + g % 4, c + g / 4 * 256 + o % 256)
  | _ => (target, c + o)

/-- Channel and channel offset of byte `o` of region `i`. -/
def chanOf (s : State) (live : List Nat) (i o : Nat) : Nat × Nat :=
  chanAt live (rgnMode s i) (rgnTarget s i) (csrF s (rgnAddr i) 45 19 * 65536) o

/-- Add the sectors of a DRAM access to its channels' byte counters: share 0 read, 1 write, 2 remote arrival (R327, Table 15-7). -/
def countBytes (s : State) (share i o n : Nat) : State :=
  let live := liveChans s
  (psnKeys o n).foldl (fun s k => csrAdd s (chanAddr (chanOf s live i k).1 (0x08 + 8 * share)) 64) s

/-! ### Locators and access checks (R24–R34, R102–R105, R577) -/

def locKind (l : Word) : Nat := getF l 62 2
def locRsv (l : Word) : Nat := getF l 56 6
/-- Region index and offset of a KIND 2 locator. -/
def locIdx (l : Word) : Nat := getF l 44 12
def locOff (l : Word) : Nat := getF l 0 44
/-- Device and local address of a KIND 3 locator. -/
def locDev (l : Word) : Nat := getF l 45 11
def locLocal (l : Word) : Nat := getF l 0 45

/-- A locator's own bits: null is all zeros, reserved bits are 0, and KIND 1 names an address in a tile SRAM window (R102, R103). -/
def locBits (l : Word) : Bool :=
  match locKind l with
  | 0 => l == 0
  | 1 => locRsv l == 0 && getF l 45 11 == 0 && decide (sramBase ≤ locLocal l ∧ locLocal l < sramTop)
  | _ => locRsv l == 0

/-- A KIND 2 locator. -/
def mkLoc2 (i o : Nat) : Word := BitVec.ofNat 64 (2 * 2 ^ 62 + i * 2 ^ 44 + o)

/-- Why an access is refused. -/
inductive AccErr where
  /-- null or reserved kind, reserved bits, or KIND 1 outside the tile windows (R14, R103) -/
  | reserved
  /-- hole, CSR space, debug-only window, address carry (R26, R28, R272) -/
  | fault
  /-- bytes in two parts of a tile SRAM window (R577) -/
  | straddle
  /-- region-table miss: VALID clear or first byte beyond SIZE (R25, R105) -/
  | miss
  /-- the first byte lies in the region and the last does not (R105, R136) -/
  | span
  /-- write to a region without WRITABLE (R111) -/
  | readOnly
  /-- R34 -/
  | noTarget
  deriving DecidableEq, Repr

/-- Where an access goes. -/
inductive Tgt where
  /-- local DRAM: region, offset -/
  | dram (i o : Nat)
  /-- a scratchpad byte by local address -/
  | spad (a : Nat)
  /-- a reserved part of a tile SRAM window: reads 0, writes discarded, NOTE (R29) -/
  | hole (a : Nat)
  /-- a peer: device, local address there -/
  | peer (d a : Nat)
  deriving DecidableEq, Repr

/-- The part of a tile SRAM window an offset lies in (Table 1-9): 0 scratchpad, 2 comb store, 4 pantry slice, 6 instruction store,
odd numbers the reserved parts. (DEDUCED; log entry 59.) -/
def windowPart (o : Nat) : Nat :=
  if o < 0x180000 then 0 else if o < 0x200000 then 1 else if o < 0x400000 then 2 else if o < 0x500000 then 4
  else if o < 0x600000 then 5 else if o < 0x620000 then 6 else 7

/-- An access of an engine, porter, core or peer to a tile SRAM window. -/
def sramTgt (a n : Nat) : Except AccErr Tgt :=
  let o := (a - sramBase) % 0x800000
  let e := o + max n 1 - 1
  if 0x800000 ≤ e ∨ windowPart o ≠ windowPart e then .error .straddle
  else if windowPart o = 0 then .ok (.spad a)
  else if windowPart o % 2 = 1 then .ok (.hole a)
  else .error .fault

/-- An access to a region by index. (DEDUCED; log entry 59.) -/
def regionTgt (s : State) (i o n : Nat) (write : Bool) : Except AccErr Tgt :=
  if !rgnValid s i || decide (rgnSize s i ≤ o) then .error .miss
  else if rgnSize s i < o + max n 1 then .error .span
  else if write && !rgnWritable s i then .error .readOnly
  else .ok (.dram i o)

/-- An access to a local address in this module's own map. (DEDUCED; log entry 59.) -/
def localTgt (s : State) (a n : Nat) (write : Bool) : Except AccErr Tgt :=
  if sramBase ≤ a ∧ a < sramTop then sramTgt a n
  else if a < (liveChans s).length * (15872 * 0x100000) then
    match (validRegions s).find? (fun i => decide (rgnBase s i ≤ a ∧ a < rgnBase s i + rgnSize s i)) with
    | some i => regionTgt s i (a - rgnBase s i) n write
    | none => .error .miss
  else .error .fault

/-- Whether requests to a device can be sent: it lies in the shape and is not HALTED without a twin that serves it (R34, R448). -/
def peerUsable (s : State) (d : Nat) : Bool :=
  s.shape.contains d &&
    (csrF s (fabCsr (0x4000 + 8 * d)) 0 2 != 3 || csrF s (fabCsr (0x4000 + 8 * d)) 5 1 == 1)

/-- An access through a locator (R102–R105, R32–R34). (DEDUCED; log entry 59.) -/
def locTgt (s : State) (l : Word) (n : Nat) (write : Bool) : Except AccErr Tgt :=
  if locRsv l ≠ 0 then .error .reserved
  else match locKind l with
    | 1 =>
      if getF l 45 11 ≠ 0 then .error .reserved
      else if sramBase ≤ locLocal l ∧ locLocal l < sramTop then sramTgt (locLocal l) n else .error .reserved
    | 2 => regionTgt s (locIdx l) (locOff l) n write
    | 3 =>
      if locDev l = ownId s then localTgt s (locLocal l) n write
      else if peerUsable s (locDev l) then .ok (.peer (locDev l) (locLocal l))
      else .error .noTarget
    | _ => .error .reserved

/-- The locator `n` bytes further, within its offset part; `none` on a carry out of it (R272, R318). -/
def locAdd (l : Word) (n : Int) : Option Word :=
  let w := if locKind l = 2 then 44 else 45
  let o := (getF l 0 w : Int) + n
  if 0 ≤ o ∧ o < (2 ^ w : Nat) then some (setF l 0 w o.toNat) else none

/-- The local byte address of a local target. -/
def tgtAddr (s : State) : Tgt → Nat
  | .dram i o => rgnBase s i + o
  | .spad a => a
  | .hole a => a
  | .peer _ a => a

end Sys2Proof.Machine
end

