-- ==== Sys2Proof/Machine/Net.lean ====
section
/-! DEFINITION. Sending over the fabric: packet kinds and virtual channels, routes, requests with tags and their answers (chapter 16). -/

namespace Sys2Proof.Machine

/-- Packet kind codes (Table 16-4). -/
def kREAD : Nat := 0x01
def kREAD_RESP : Nat := 0x02
def kWRITE : Nat := 0x03
def kATOMIC : Nat := 0x04
def kATOMIC_RESP : Nat := 0x05
def kACK : Nat := 0x06
def kERROR : Nat := 0x07
def kSIGNAL : Nat := 0x08
def kTALLY : Nat := 0x09
def kBAR_ARRIVE : Nat := 0x0A
def kPARTIAL : Nat := 0x0B
def kCOLL : Nat := 0x0C
def kMIRROR : Nat := 0x0D
def kNOTICE : Nat := 0x0E
def kPROBE : Nat := 0x0F
def kPROBE_ACK : Nat := 0x10
def kMGMT : Nat := 0x11
def kFENCE : Nat := 0x12

/-- Data of a SIGNAL or TALLY packet: tile, object number, amount. The manual gives no layout (Table 16-4). (DESIGN CHOICE; log entry 31.) -/
def syncData (tile num amt : Nat) : List Byte := leBytes 1 tile ++ leBytes 1 0 ++ leBytes 2 num ++ leBytes 4 amt
/-- Data of a BAR_ARRIVE packet: context, tag, plan slot; likewise. (DESIGN CHOICE; log entry 31.) -/
def arriveData (k tag slot : Nat) : List Byte := leBytes 1 k ++ leBytes 1 tag ++ leBytes 1 slot ++ leBytes 5 0

/-- The virtual channel of a packet kind (R428). -/
def vcOf (kind : Nat) : Nat :=
  if kind = kREAD ∨ kind = kATOMIC then 1
  else if kind = kREAD_RESP ∨ kind = kWRITE ∨ kind = kATOMIC_RESP ∨ kind = kPARTIAL then 2
  else if kind = kCOLL then 3
  else if kind = kMIRROR then 4
  else if kind = kMGMT then 5
  else 0

/-- Error codes of ERROR packets (R428). -/
def eREFUSED : Nat := 0x1
def eREGION_MISS : Nat := 0x2
def eNO_TARGET : Nat := 0x3
def eSYNC_MISUSE : Nat := 0x4
def ePARTIAL_REFUSED : Nat := 0x5
def ePOISONED : Nat := 0x6
def eOUTSIDE : Nat := 0x7
def eBUSY : Nat := 0x8

/-- Whether port `p` carries traffic: UP or HALF (Table 16-11). -/
def portUp (s : State) (p : Nat) : Bool :=
  let st := csrF s (fabCsr (0x100 + 8 * p)) 0 3
  st == 2 || st == 3

/-- The local port of member `m` that goes to member `q` of its group (R423). -/
def localPort (m q : Nat) : Nat := if q < m then q else q - 1

/-- The port toward member `q` of the own group; through the lowest-numbered member with a working link when the direct link is down
(R434). -/
def memberPort (s : State) (q : Nat) : Option Nat :=
  let m := ownId s % 16
  if portUp s (localPort m q) then some (localPort m q)
  else ((List.range 16).filter (fun r => r != m && r != q && portUp s (localPort m r))).head?.map (localPort m)

/-- Working global links of the own group to group `g`, ascending. -/
def glinksTo (s : State) (g : Nat) : List Nat :=
  (List.range 128).filter (fun i =>
    csrF s (fabCsr (0x200 + 8 * i)) 21 1 == 1 && csrF s (fabCsr (0x200 + 8 * i)) 7 7 == g)

/-- The first port toward group `g` by its lowest-numbered usable link (R432, R435). -/
def groupPort (s : State) (g : Nat) : Option Nat :=
  ((glinksTo s g).filterMap (fun i =>
    let m := i / 8
    if m = ownId s % 16 then (if portUp s (15 + i % 8) then some (15 + i % 8) else none) else memberPort s m)).head?

/-- The route to a device: first port, and the intermediate group of a non-minimal route (R432–R434). Output queues are empty between
commands, so R433's occupancy test never asks for a non-minimal path; it is taken when no link to the group remains.
(DESIGN CHOICE; log entries 32, 36.) -/
def route (s : State) (d : Nat) : Option (Nat × Option Nat) :=
  let g := d / 16
  if g = ownId s / 16 then (memberPort s (d % 16)).map (fun p => (p, none))
  else match groupPort s g with
    | some p => some (p, none)
    | none =>
      let vs := (List.range 128).filter (fun v => v != g && v != ownId s / 16 && (groupPort s v).isSome)
      let v := vs.getD (Config.nonminGroup s.nextTag % vs.length) 0
      if vs = [] then none else (groupPort s v).map (fun p => (p, some v))

/-- The device that answers for `d`: its serving twin, or itself (R465). (DESIGN CHOICE; log entry 36.) -/
def servedDev (s : State) (d : Nat) : Nat := ((s.servedBy.find? (fun e => e.1 == d)).map (·.2)).getD d

/-- Add to the units in use of a channel and hop class. (DESIGN CHOICE; log entry 32.) -/
def unitsAdd (l : List ((Nat × Nat) × Nat)) (k : Nat × Nat) (n : Nat) : List ((Nat × Nat) × Nat) :=
  match l.find? (fun e => e.1 == k) with
  | some e => l.map (fun x => if x.1 = k then (k, e.2 + n) else x)
  | none => l ++ [(k, n)]

/-- A packet goes out on port `p`: its 64-byte slots are counted (Table 16-13), its units are in use at the far end, and its flits are held
for replay. Each packet begins a flit in this model (Table 16-2 leaves the packing open). -/
def countSlots (s : State) (p kind n : Nat) (hop : Nat := 0) : State :=
  let k := (16 + n + 63) / 64
  let l := linkOf s p
  let f := (k + 13) / 14
  let s := setLink s p { l with
    units := unitsAdd l.units (vcOf kind, hop) k
    retry := l.retry ++ (List.range f).map (fun i => (l.sentSeq + i) % 4096)
    sentSeq := (l.sentSeq + f) % 4096 }
  csrAdd s (fabCsr (0x8000 + 0x80 * p + 8 * vcOf kind)) k

/-- Send a packet under a source device ID by the route of its destination; `none` when no path exists. A packet for a device that this module
serves comes back to the module itself: it leaves on no port (log entry 36). (DESIGN CHOICE; log entry 32.) -/
def sendFrom (s : State) (src kind d addr len tag : Nat) (data : List Byte) (psn lc : Bool) : Option State :=
  if servedDev s d = ownId s then
    let p : Packet := { kind := kind, src := src, dst := d, port := none, lc := lc, poison := psn, nonmin := false, via := 0, len := len,
                        addr := addr, tag := tag, data := data }
    some (emitOut s (.packet p))
  else match route s (servedDev s d) with
  | none => none
  | some (p, v) =>
    some (emitOut (countSlots s p kind data.length)
      (.packet { kind := kind, src := src, dst := d, port := some p, lc := lc, poison := psn, nonmin := v.isSome, via := v.getD 0, len := len,
                 addr := addr, tag := tag, data := data }))

/-- The same under the module's own device ID. (DESIGN CHOICE; log entry 32.) -/
def sendPkt (s : State) (kind d addr len tag : Nat) (data : List Byte) (psn lc : Bool) : Option State :=
  sendFrom s (ownId s) kind d addr len tag data psn lc

/-- Send a packet over port 23 to the twin (R422). -/
def sendTwin (s : State) (kind addr len tag : Nat) (data : List Byte) (psn : Bool) (lc : Bool := false) : State :=
  emitOut (countSlots s 23 kind data.length)
    (.packet { kind := kind, src := ownId s, dst := csrF s (twnCsr 0x10) 3 11, port := some 23, lc := lc, poison := psn, nonmin := false, via := 0,
               len := len, addr := addr, tag := tag, data := data })

/-- Answer a requester; an answer for which no path exists is lost. (DESIGN CHOICE; log entry 31.) -/
def answer (s : State) (kind d tag : Nat) (data : List Byte) (psn : Bool) : State :=
  (sendPkt s kind d 0 (data.length - 1) tag data psn false).getD s

/-- The agent on whose behalf a request was sent (R436). -/
def contAgent : Cont → Option Nat
  | .coreAcc t _ => some (t * 32)
  | .sync t _ _ => some (t * 32)
  | .fetch t _ => some (t * 32 + 1)
  | .fgrWrite t _ _ => some (t * 32 + 1)
  | .fgrAtom t _ _ _ _ _ => some (t * 32 + 1)
  | .chunkRead t c _ _ => some (t * 32 + 16 + c)
  | .chunkWrite t c _ => some (t * 32 + 16 + c)
  | .index t c => some (t * 32 + 16 + c)
  | .waySig t c => some (t * 32 + 16 + c)
  | .partialRow t _ _ _ _ => some (t * 32 + 2)
  | .combWrite t _ _ _ => some (t * 32 + 2)
  | .combRead t => some (t * 32 + 2)
  | .vecStat t => some (t * 32 + 4)
  | _ => none

/-- Two requests of one agent that touch one 64-byte sector of one peer (R436). -/
def sameSector (r : Req) (agent : Option Nat) (d addr len : Nat) : Bool :=
  agent.isSome && contAgent r.cont == agent && r.dst == d && (r.kind == kREAD || r.kind == kWRITE || r.kind == kATOMIC) &&
    decide (r.addr / 64 ≤ (addr + len - 1) / 64 ∧ addr / 64 ≤ (r.addr + r.len - 1) / 64)

/-- A request to a peer: it takes a tag and is sent at once, or held until an earlier request of the agent to the sector is answered. -/
def sendReq (s : State) (kind d addr len : Nat) (data : List Byte) (psn lc : Bool) (cont : Cont) : Option State :=
  let tag := s.nextTag
  let held := (kind == kREAD || kind == kWRITE || kind == kATOMIC) && s.reqs.any (fun r => sameSector r (contAgent cont) d addr len)
  let r : Req := { tag := tag, dst := d, kind := kind, addr := addr, len := len, data := data, poison := psn, sentAt := s.now,
                   cont := cont, discard := false, held := held, lc := lc }
  let s := { s with reqs := s.reqs ++ [r], nextTag := (tag + 1) % 2 ^ 24 }
  if held then some s else sendPkt s kind d addr (len - 1) tag data psn lc

/-- The request with a tag. -/
def reqOf (s : State) (tag : Nat) : Option Req := s.reqs.find? (fun r => r.tag == tag)

/-- The request is answered: it leaves the list, and the oldest request held behind its sectors goes out. -/
def reqDone (s : State) (r : Req) : State :=
  let rest := s.reqs.filter (fun x => x.tag != r.tag)
  let s := { s with reqs := rest }
  match rest.find? (fun x => x.held && sameSector r (contAgent x.cont) x.dst x.addr x.len &&
      !(rest.any (fun y => !y.held && sameSector y (contAgent x.cont) x.dst x.addr x.len))) with
  | none => s
  | some x =>
    let s := { s with reqs := rest.map (fun y => if y.tag = x.tag then { y with held := false, sentAt := s.now } else y) }
    (sendPkt s x.kind x.dst x.addr (x.len - 1) x.tag x.data x.poison x.lc).getD s

/-- A notice to one module (R445). -/
def noticeData (kind cause subject : Nat) (planId : Word) : List Byte :=
  leBytes 1 kind ++ leBytes 1 cause ++ leBytes 2 subject ++ leBytes 4 0 ++ leBytes 8 planId.toNat

/-- A notice to every other module of the shape. -/
def noticeAll (s : State) (kind cause subject : Nat) (planId : Word) : State :=
  (s.shape.filter (fun d => d != ownId s)).foldl
    (fun s d => (sendPkt s kNOTICE d 0 15 0 (noticeData kind cause subject planId) false false).getD s) s

/-- Record a cause in FAB_ERR unless one is held (Table 16-10). -/
def fabErr (s : State) (cause port : Nat) : State :=
  if csrF s (fabCsr 0x18) 13 1 = 1 then s
  else csrPut s (fabCsr 0x18) (BitVec.ofNat 64 (cause + port * 2 ^ 8 + 2 ^ 13))

end Sys2Proof.Machine
end

