-- ==== Sys2Proof/Machine/Clock.lean ====
section
/-! DEFINITION. The device time base moving on: the counters of nanoseconds, the timers that stand still, and how long a tile has
been idle (R335, R375, R446). -/

namespace Sys2Proof.Machine

/-- A stream's stall timer is stopped: its task is being suspended, or the oldest outstanding request of the context targets a module that is
SLOW (R335). -/
def stallHeld (s : State) (t c : Nat) (x : Stream) : Bool :=
  ((coreOf s t).suspending.isSome && ((coreOf s t).task.map (·.id)) == some x.q.tag) ||
  (match s.reqs.find? (fun r => contAgent r.cont == some (t * 32 + 16 + c)) with
    | some r => csrF s (fabCsr (0x4000 + 8 * r.dst)) 0 2 == 1
    | none => false)

/-- Count `d` nanoseconds at an address while `b` holds. (DESIGN CHOICE; log entry 6.) -/
def nsCount (d : Nat) (s : State) (x : Bool × Nat) : State := if x.1 then csrAdd s x.2 d else s

/-- One tile's share of `d` nanoseconds. (DESIGN CHOICE; log entry 6.) -/
def tickTile (d t : Nat) (s : State) : State :=
  let x := tileOf s t
  let prtWaits := x.prt.ctxs.any (fun e => (e.2.map (fun y => y.waitSem.isSome)).getD false)
  let s := [(x.core.blocked.isSome || x.core.issueWait, tileCsr t 0x88), (x.fgr.jobs.any (·.waitCredit), tileCsr t 0x2070),
      (x.cmb.credits != [], tileCsr t 0x3068), (x.mxe.waiting, tileCsr t 0x4060), (x.vec.waiting, tileCsr t 0x5050),
      (prtWaits, tileCsr t 0x6058), (x.core.task.isSome, clusterCsr (t / 16) (0x100 + 8 * (t % 16)))].foldl (nsCount d) s
  x.prt.ctxs.foldl (fun s e => match e.2 with
    | some y => if stallHeld s t e.1 y then setCtx s t e.1 (some { y with lastProgress := y.lastProgress + d }) else s
    | none => s) s

/-- Channels whose package is at stage 2 or 3. -/
def slowChans (s : State) : List Nat :=
  s.csr.filterMap (fun e =>
    let o := e.1 - memCsr 0 0
    let p := o / 0x100000
    let k := (o % 0x100000 - 0x10000) / 0x100
    if memCsr 0 0 ≤ e.1 ∧ e.1 < memCsr 4 0 ∧ 0x10000 ≤ o % 0x100000 ∧ k < 96 ∧ o % 0x100 = 0 ∧ 2 ≤ getF e.2 2 2 then some (96 * p + k) else none)

/-- `d` nanoseconds pass. (DESIGN CHOICE; log entries 1, 6.) -/
def passTime (s : State) (d : Nat) : State :=
  if d = 0 then s
  else
    let s := ((s.tiles.map (·.1)).filter (fun t => t < 256)).foldl (fun s t => tickTile d t s) s
    let s := (slowChans s).foldl (fun s c => csrAdd s (chanAddr c 0x30) d) s
    let g := csrGet s (govCsr 0x18)
    let s := [(getB g 21, govCsr 0x40), (getB g 24 || getB g 25, govCsr 0x50), (getB g 22, govCsr 0x60)].foldl (nsCount d) s
    let slow (dev : Nat) : Bool := csrF s (fabCsr (0x4000 + 8 * dev)) 0 2 == 1
    let idle := (List.range 256).any (fun t => (coreOf s t).task.isNone && !s.ledger.isoTiles.contains t)
    { s with
      reqs := s.reqs.map (fun r => if slow r.dst then { r with sentAt := r.sentAt + d } else r)
      idleSince := if idle then some (s.idleSince.getD s.now) else none
      now := s.now + d }

/-- The device time base moved on to at least `t`. -/
def atTime (s : State) (t : Nat) : State := passTime s (t - s.now)

end Sys2Proof.Machine
end

