-- ==== Sys2Proof/Machine/Mem.lean ====
section
/-! DEFINITION. Writes and reads of local memory as the agents of a cluster make them: mirroring, the merging buffer, pantry lines
kept equal to memory, and what a release waits for (R112, R305–R311, R347–R348, Table 17-3). -/

namespace Sys2Proof.Machine

/-- Agents whose accesses are ordered: 32 * tile + unit, unit 0 core, 1 forager, 2 comb unit, 3 matrix engine, 4 vector engine,
16 + c porter context c. -/
def agentOf (t unit : Nat) : Nat := t * 32 + unit
/-- The host, as an agent whose writes a doorbell releases. -/
def hostAgent : Nat := 32 * 2000000

/-- MIRRORED has an effect: the twin is PAIRED, or copies are being made (R112, R455, R469). -/
def mirroring (s : State) : Bool := csrF s (twnCsr 0x10) 0 3 == 2 || csrF s (twnCsr 0x10) 0 3 == 1

/-- Send the sectors of region `i` that `[o, o + n)` touches to the twin as they now stand (Table 17-3 step 2). -/
def mirrorSectors (s : State) (owners : List Nat) (i o n : Nat) (key : Option Nat) (lc : Bool := false) : State :=
  if mirroring s && rgnMirrored s i then
    (psnKeys (rgnBase s i + o) n).foldl (fun s k =>
      let data := memBytes s k 64
      let tag := s.nextTag
      let r : Req := { tag := tag, dst := csrF s (twnCsr 0x10) 3 11, kind := kMIRROR, addr := k, len := 64, data := data,
                       poison := psnAt s k, sentAt := s.now, cont := .mirror owners key, discard := false, held := false, lc := lc }
      let s := csrAdd s (twnCsr 0x40) 64
      sendTwin { s with reqs := s.reqs ++ [r], nextTag := (tag + 1) % 2 ^ 24 } kMIRROR k 63 tag data (psnAt s k) lc) s
  else s

/-- The plan slot whose phase a write by these owners belongs to: the plan on the writer's cluster, or, for a collective or a request of a peer,
the plan that the region belongs to. The host and the steward write for no phase. -/
def writerSlot (s : State) (owners : List Nat) (i : Nat) (peer : Bool) : Option Nat :=
  match owners with
  | o :: _ => if o < 32 * 256 then slotOfCluster s (o / 512) else if o = hostAgent then none else some (rgnOwner s i)
  | [] => if peer then some (rgnOwner s i) else none

/-- A write performed at the channel: bytes and poison at their home, the byte counters of its share, and the mirror. `key` is set for a
request of a peer. -/
def chanWrite (s : State) (owners : List Nat) (i o : Nat) (bs : List Byte) (psn : Bool) (share : Nat) (key : Option Nat) (lc : Bool := false) : State :=
  let a := rgnBase s i + o
  let s := noteDirty s (writerSlot s owners i key.isSome) a bs.length
  mirrorSectors (countBytes (writeHome s a bs psn) share i o bs.length) owners i o bs.length key lc

/-! ### The merging buffer (R347, R348) -/

/-- The bytes an entry holds of its sector `k`, by offset. -/
def entSector (e : MergeEnt) (k : Nat) : List (Nat × Byte) :=
  e.bytes.filterMap (fun p => match p.2 with
    | some b => if p.1 / 64 = k then some (p.1, b) else none
    | none => none)

/-- Write one sector of an entry: whole at once, or byte by byte. -/
def entWriteSector (s : State) (e : MergeEnt) (k : Nat) : State :=
  let bs := entSector e k
  let psn := e.psn.contains k
  if bs.length = 64 then writeHome s (e.blk + 64 * k) (bs.map (·.2)) psn
  else bs.foldl (fun s p => writeHome s (e.blk + p.1) [p.2] psn) s

/-- An entry reaches memory as one masked write: its writes are performed. -/
def flushEntry (s : State) (c : Nat) (e : MergeEnt) : State :=
  let s := setPan s c { panOf s c with merge := (panOf s c).merge.filter (fun x => x.blk != e.blk) }
  let s := [0, 1, 2, 3].foldl (fun s k => entWriteSector s e k) s
  match regionOf s e.blk 256 with
  | none => s
  | some i =>
    [0, 1, 2, 3].foldl (fun s k =>
      if entSector e k = [] then s
      else mirrorSectors (countBytes s 1 i (e.blk + 64 * k - rgnBase s i) 64) e.owners i (e.blk + 64 * k - rgnBase s i) 64 none e.lc) s

/-- Flush the entries of cluster `c` that meet `p`, oldest first. -/
def flushWhere (s : State) (c : Nat) (p : MergeEnt → Bool) : State :=
  ((panOf s c).merge.filter p).foldl (fun s e => flushEntry s c e) s

/-- A read of `[a, a + n)` by an agent of cluster `c` first writes out the entries it overlaps. -/
def flushOverlap (s : State) (c a n : Nat) : State :=
  flushWhere s c (fun e => decide (e.blk < a + n ∧ a < e.blk + 256))

/-- The set of a global address (R341). -/
def panSet (g : Nat) : Nat :=
  let a := g % 2 ^ 45 / 256
  (a ^^^ (a >>> 12) ^^^ (a >>> 24) ^^^ (a >>> 36)) % 4096

/-- Replace bytes of a line within its valid sectors. -/
def lineUpdate (l : Line) (off : Nat) (bs : List Byte) : Line :=
  { l with bytes := (List.range 256).map (fun j =>
      if off ≤ j ∧ j < off + bs.length ∧ getB l.sectors (j / 64) then bs.getD (j - off) 0 else l.bytes.getD j 0) }

/-- A write through the slice updates the block's line, in its set or in the slice's eviction buffer, when EN is set (R345, R347). -/
def panWriteLine (s : State) (c a : Nat) (bs : List Byte) : State :=
  if csrF s (clusterCsr c 0x4000) 0 1 = 1 then
    let tag := globalOf s a / 256
    let p := panOf s c
    let set := panSet (globalOf s a)
    let ways := tabGet (fun _ => []) p.sets set
    let evb := tabGet (fun _ => []) p.evb (set % 16)
    let upd (l : Line) : Line := if l.tag = tag then lineUpdate l (a % 256) bs else l
    if ways.any (fun w => w.2.tag == tag) then
      setPan s c { p with sets := tabSet (fun _ => []) p.sets set (ways.map (fun w => (w.1, upd w.2))) }
    else if evb.any (fun l => l.tag == tag) then
      setPan s c { p with evb := tabSet (fun _ => []) p.evb (set % 16) (evb.map upd) }
    else s
  else s

/-- Merge bytes into an entry; later bytes replace earlier ones. -/
def entMerge (e : MergeEnt) (off : Nat) (bs : List Byte) (psn : Bool) (owner : Nat) (lc : Bool) : MergeEnt :=
  let n := bs.length
  let whole := (List.range 4).filter (fun k => decide (off ≤ 64 * k ∧ 64 * k + 64 ≤ off + n))
  let touched := (List.range 4).filter (fun k => decide (off < 64 * k + 64 ∧ 64 * k < off + n))
  { e with
    bytes := (bs.zipIdx).foldl (fun t b => tabSet (fun _ => none) t (off + b.2) (some b.1)) e.bytes
    psn := if psn then touched ++ e.psn.filter (fun k => !touched.contains k) else e.psn.filter (fun k => !whole.contains k)
    owners := if e.owners.contains owner then e.owners else e.owners ++ [owner]
    lc := e.lc || lc }

/-- One write within a 256-byte block by an agent of cluster `c`. -/
def mergeBlock (s : State) (c owner a : Nat) (bs : List Byte) (psn : Bool) (lc : Bool) : State :=
  let blk := a / 256 * 256
  let slice := panSet (globalOf s a) % 16
  let s := panWriteLine s c a bs
  let mine := (panOf s c).merge.filter (fun e => e.slice == slice)
  let s :=
    if mine.any (fun e => e.blk == blk) then s
    else
      let s := if 32 ≤ mine.length then (match mine.head? with | some e => flushEntry s c e | none => s) else s
      setPan s c { panOf s c with merge := (panOf s c).merge ++ [⟨slice, blk, [], [], [], s.now, false⟩] }
  let upd := (panOf s c).merge.map (fun e => if e.blk = blk then entMerge e (a % 256) bs psn owner lc else e)
  let s := setPan s c { panOf s c with merge := upd }
  match upd.find? (fun e => e.blk == blk) with
  | some e => if e.bytes.length = 256 then flushEntry s c e else s
  | none => s

/-- Cut a write at 256-byte boundaries. -/
def blockCuts : Nat → Nat → List Byte → List (Nat × List Byte)
  | 0, _, _ => []
  | f + 1, a, bs =>
    let k := 256 - a % 256
    if bs = [] then [] else (a, bs.take k) :: blockCuts f (a + k) (bs.drop k)

/-- A write by an agent of cluster `c` to local DRAM. The accesses of a tile core are latency-critical (R398). -/
def mergeWrite (s : State) (c owner a : Nat) (bs : List Byte) (psn : Bool) (lc : Bool := false) : State :=
  (blockCuts (bs.length / 256 + 2) a bs).foldl (fun s p => mergeBlock s c owner p.1 p.2 psn (lc || owner % 32 == 0))
    (noteDirty s (slotOfCluster s c) a bs.length)

/-! ### Accesses of an agent -/

/-- NOTE for an access to a reserved part of a tile SRAM window (R29). The manual names no source for it: the tile's scratchpad block.
(DESIGN CHOICE; log entry 4.) -/
def noteHole (s : State) (a : Nat) : State := raise s (tileSrc 6 ((a - sramBase) / 0x800000)) 0x02 NOTE (some (globalOf s a))

/-- A write to a local target by an agent on tile `t`; unit 0 is the core. -/
def agentWrite (s : State) (t owner : Nat) (g : Tgt) (bs : List Byte) (psn : Bool) (lc : Bool := false) : State :=
  match g with
  | .dram i o => mergeWrite s (t / 16) owner (rgnBase s i + o) bs psn lc
  | .spad a => if owner % 32 = 0 then writeHome s a bs psn else engineWrite s a bs psn
  | .hole a => noteHole s a
  | .peer _ _ => s

/-- A read of `n` bytes of a local target by an agent on tile `t`: the bytes, their poison mark, and the state after it. -/
def agentRead (s : State) (t : Nat) (g : Tgt) (n : Nat) : List Byte × Bool × State :=
  match g with
  | .dram i o =>
    let s := flushOverlap s (t / 16) (rgnBase s i + o) n
    (memBytes s (rgnBase s i + o) n, psnIn s (rgnBase s i + o) n, countBytes s 0 i o n)
  | .spad a => (memBytes s a n, psnIn s a n, s)
  | .hole a => (List.replicate n 0, false, noteHole s a)
  | .peer _ _ => (List.replicate n 0, false, s)

/-- The requests of an agent whose effect is not performed yet: writes and atomics at peers and mirrored writes (R308, R436). -/
def agentPending (s : State) (agent : Nat) : Bool :=
  s.reqs.any (fun r => match r.cont with
    | .mirror owners _ => owners.contains agent
    | _ => contAgent r.cont == some agent && (r.kind == kWRITE || r.kind == kATOMIC))

/-- A release of an agent is pending: the merging-buffer entries that hold its writes go to memory (R348). -/
def releaseFlush (s : State) (agent : Nat) : State :=
  flushWhere s (agent / 32 / 16) (fun e => e.owners.contains agent)

/-- Whether a release of the agent can be performed: after `releaseFlush` nothing of it is outstanding. -/
def released (s : State) (agent : Nat) : Bool := !agentPending (releaseFlush s agent) agent

/-- Names of the engine error registers: record a cause unless one is held. -/
def errOnce (s : State) (a valid v : Nat) : State :=
  if csrF s a valid 1 = 1 then s else csrPut s a (BitVec.ofNat 64 (v + 2 ^ valid))

end Sys2Proof.Machine
end

