-- ==== Sys2Proof/Machine/Ecc.lean ====
section
/-! DEFINITION. Errors of stored data: channel errors and the triggers of page retirement (R403–R407), scratchpad errors (R282), and reads
and writes of agents with what the error check found. -/

namespace Sys2Proof.Machine

/-! ### The layout of a channel (R396, R397) -/

/-- Data pages of a channel that regions may use, and its spares. -/
def spareBase : Nat := 8093696
def spareCount : Nat := 32768

/-- The DRAM page that holds data page `p` of a channel. -/
def dramPage (p : Nat) : Nat := p + p / 31

/-- The DRAM page and the byte within it at which the code line of data page `p` begins. -/
def codeLine (p : Nat) : Nat × Nat := (32 * (p / 31) + 31, 64 * (p % 31))

/-- Region space of one channel and of the module, in 64 KiB units. -/
def chanUnits : Nat := 252928
def spaceUnits (s : State) : Nat := (liveChans s).length * chanUnits
/-- The tops of region space and of the spare pool (R397). -/
def regionTop (s : State) : Nat := spaceUnits s * 65536
def spareTop (s : State) : Nat := regionTop s + (liveChans s).length * 0x4000000

/-- The pool address of spare `x` of a live channel (R397). -/
def spareAddr (s : State) (ch x : Nat) : Nat := regionTop s + ((liveChans s).takeWhile (fun y => y != ch)).length * 0x4000000 + x * 2048

/-! ### Triggers of retirement -/

/-- A page is to be retired (R407). -/
def retireTrigger (s : State) (ch page : Nat) : State :=
  if s.retireQ.contains (ch, page) then s else { s with retireQ := s.retireQ ++ [(ch, page)] }

def trackerOf (s : State) (ch : Nat) : List (Nat × Nat) := tabGet (fun _ => []) s.ceTrack ch

/-- The entry with the lowest count, first of equals. -/
def lowestEntry : List (Nat × Nat) → Option (Nat × Nat)
  | [] => none
  | e :: es => match lowestEntry es with
    | some m => if m.2 < e.2 then some m else some e
    | none => some e

/-- Count a corrected error of a page in its channel's tracker of 16 pages (R407). (DESIGN CHOICE; log entry 29.) -/
def trackCE (s : State) (ch page : Nat) : State :=
  let tr := trackerOf s ch
  let n := ((tr.find? (fun e => e.1 == page)).map (·.2)).getD 0 + 1
  let rest := tr.filter (fun e => e.1 != page)
  let rest := if 16 ≤ rest.length then (match lowestEntry rest with
      | some m => rest.erase m
      | none => rest) else rest
  let s := { s with ceTrack := tabSet (fun _ => []) s.ceTrack ch (rest ++ [(page, n)]) }
  if csrF s (memCsr (ch / 96) 0x18) 16 4 ≤ n then retireTrigger s ch page else s

/-! ### Checks of single units -/

/-- The last uncorrectable sector of a port die. The manual gives no local address for a sector outside every region: there ADDR is a free
value. (DESIGN CHOICE; log entry 29.) -/
def putUE (s : State) (ch : Nat) (a : Option Nat) : State :=
  let put (s : State) (x : Nat) : State := csrPut s (memCsr (ch / 96) 0x20) (BitVec.ofNat 64 (x % 2 ^ 45 + ch % 96 * 2 ^ 45 + 2 ^ 52))
  match a with
  | some x => put s x
  | none => let (w, s) := freshFree s; put s w.toNat

/-- What a channel's check found of the sector at channel offset `off`; `a` is the sector's local address where it has one. A sector that could not be
corrected when it was last read cannot be corrected now. An injected error is recorded and delivered, and nothing stored changes (R529). Answers
whether the delivery is poisoned by it. (DEDUCED; log entry 58.) -/
def chanEcc (s : State) (ch off : Nat) (a : Option Nat) (e : Ecc) : Bool × State :=
  let bad := (a.map (fun x => s.ueSectors.contains x)).getD false
  let (e, inj, s) := injected s (0x2000 + ch) (a.getD 0) 64 (if bad then .uncorrectable else e)
  let ga := a.map (globalOf s)
  match e with
  | .clean => (false, s)
  | .corrected =>
    let s := raise (csrAdd s (chanAddr ch 0x20) 1) (0x2000 + ch) 0x10 NOTE ga inj
    (false, if inj then s else trackCE s ch (off / 2048))
  | .uncorrectable =>
    if (a.map (psnStored s)).getD false then (true, s)
    else
      let s := putUE (raise (csrAdd s (chanAddr ch 0x28) 1) (0x2000 + ch) 0x11 NOTE ga inj) ch a
      if inj then (true, s)
      else
        let s := match a with
          | some x => if s.ueSectors.contains x then s else { s with ueSectors := s.ueSectors ++ [x] }
          | none => s
        (true, retireTrigger s ch (off / 2048))

/-- What a scratchpad's check found at the word of local address `a` (R282, R529). (DEDUCED; log entry 58.) -/
def spadEcc (s : State) (a : Nat) (e : Ecc) : Bool × State :=
  let t := (a - sramBase) / 0x800000
  let (e, inj, s) := injected s (tileSrc 6 t) (a / 8 * 8) 8 e
  match e with
  | .clean => (false, s)
  | .corrected => (false, raise (csrAdd s (tileCsr t 0x90) 1) (tileSrc 6 t) 0x10 NOTE (some (globalOf s a)) inj)
  | .uncorrectable =>
    let s := if inj then s else setPsn s a true
    let s := csrPut s (tileCsr t 0x48) (BitVec.ofNat 64 ((a - sramBase) % 0x800000 / 8 * 8 % 2 ^ 21 + 2 ^ 21))
    (true, raise s (tileSrc 6 t) 0x11 NOTE (some (globalOf s a)) inj)

/-! ### Checks of a whole access -/

/-- Check the units of an access one after the other with `f`: the first finds `e`, the others nothing that is not injected or stored. Answers the units
whose delivery is poisoned by it. -/
def eccScan (f : State → Nat → Ecc → Bool × State) : List Nat → Ecc → State → List Nat × State
  | [], _, s => ([], s)
  | k :: ks, e, s =>
    let (bad, s) := f s k e
    let (rest, s) := eccScan f ks .clean s
    (if bad then k :: rest else rest, s)

/-- An injection is armed at a source of `[lo, hi)`. -/
def armed (s : State) (lo hi : Nat) : Bool := s.ledger.inj.any (fun i => decide (lo ≤ i.source ∧ i.source < hi))

/-- The checks made on a local target when `n` of its bytes are read: the local addresses of the sectors or words whose delivery is poisoned.
(DEDUCED; log entry 58.) -/
def tgtScan (s : State) (g : Tgt) (n : Nat) (e : Ecc) : List Nat × State :=
  match g with
  | .dram i o =>
    if e = .clean ∧ s.ueSectors = [] ∧ !armed s 0x2000 0x2180 then ([], s)
    else
      let live := liveChans s
      let b := rgnBase s i
      eccScan (fun s k e => let c := chanOf s live i (k - b); chanEcc s c.1 c.2 (some k) e) (psnKeys (b + o) n) e s
  | .spad a =>
    if e = .clean ∧ !armed s (tileSrc 6 ((a - sramBase) / 0x800000)) (tileSrc 6 ((a - sramBase) / 0x800000) + 1) then ([], s)
    else eccScan spadEcc (psnKeys a n) e s
  | _ => ([], s)

/-- A read of a local target by an agent on tile `t`, with what the checks found: bytes, the poison mark of each byte, and the state after it.
(DEDUCED; log entry 58.) -/
def agentReadMarks (s : State) (t : Nat) (g : Tgt) (n : Nat) (e : Ecc) : List Byte × List Bool × State :=
  let (bad, s) := tgtScan s g n e
  let (bs, psn, s) := agentRead s t g n
  let a := tgtAddr s g
  (bs, if psn || bad != [] then (List.range n).map (fun j => bad.contains (psnKey (a + j)) || psnAt s (a + j)) else List.replicate n false, s)

/-- The same with one poison mark for the whole read. (DEDUCED; log entry 58.) -/
def agentReadEcc (s : State) (t : Nat) (g : Tgt) (n : Nat) (e : Ecc) : List Byte × Bool × State :=
  let (bad, s) := tgtScan s g n e
  let (bs, psn, s) := agentRead s t g n
  (bs, psn || bad != [], s)

end Sys2Proof.Machine
end

