-- ==== Sys2Proof/Machine/Trans.lean ====
section
/-! DEFINITION. EXP, LOG, RCP, RSQRT, TANH, SIGMOID and ERF, correctly rounded to binary32 (R248, Table 8-6): the exact value is enclosed
between two fixed-point bounds, and the bounds are tightened until both round to the same code. -/

namespace Sys2Proof.Machine

/-- Sum of `2 ^ p / ((2 i + 1) q ^ (2 i + 1))` over `i`, the terms alternating in sign when `alt`: atanh(1/q) or atan(1/q). -/
def arcSeries (alt : Bool) (q : Nat) : Nat → Nat → Nat → Int → Int
  | 0, _, _, acc => acc
  | f + 1, i, pow, acc =>
    if pow = 0 then acc
    else
      let t : Int := pow / (2 * i + 1)
      arcSeries alt q f (i + 1) (pow / (q * q)) (if alt && i % 2 == 1 then acc - t else acc + t)

/-- ln 2 and pi in units of `2 ^ -p`, within `2 ^ 12` units. -/
def fixLn2 (p : Nat) : Int := 2 * arcSeries false 3 p 0 (2 ^ p / 3) 0
def fixPi (p : Nat) : Int := 16 * arcSeries true 5 p 0 (2 ^ p / 5) 0 - 4 * arcSeries true 239 p 0 (2 ^ p / 239) 0

/-- Sum of `r ^ k / k!` in units of `2 ^ -p`. -/
def expSeries (p : Nat) (r : Int) : Nat → Nat → Int → Int → Int
  | 0, _, _, acc => acc
  | f + 1, k, t, acc => if t = 0 then acc else expSeries p r f (k + 1) (t * r / (2 ^ p : Nat) / k) (acc + t)

/-- exp of a fixed-point number: `m * 2 ^ (j - p)` with `m` within `2 ^ 20` units. -/
def fixExp (p : Nat) (x : Int) : Int × Int :=
  let l := fixLn2 p
  let j := x / l
  (expSeries p (x - j * l) p 1 (2 ^ p : Nat) 0, j)

/-- Sum of `z ^ (2 i + 1) / (2 i + 1)`, that is atanh z, in units of `2 ^ -p`. -/
def atanhSeries (p : Nat) (z2 : Int) : Nat → Nat → Int → Int → Int
  | 0, _, _, acc => acc
  | f + 1, i, pow, acc =>
    if pow = 0 then acc else atanhSeries p z2 f (i + 1) (pow * z2 / (2 ^ p : Nat)) (acc + pow / (2 * i + 1 : Nat))

/-- Sum of `2 ^ k x ^ (2 k + 1) / (2 k + 1)!!` in units of `2 ^ -p`. -/
def erfSeries (p : Nat) (x2 : Int) : Nat → Nat → Int → Int → Int
  | 0, _, _, acc => acc
  | f + 1, k, t, acc => if t = 0 then acc else erfSeries p x2 f (k + 1) (2 * t * x2 / (2 ^ p : Nat) / (2 * k + 3 : Nat)) (acc + t)

/-- A finite value in units of `2 ^ -p`, rounded down in magnitude. -/
def fixOf (p : Nat) (s : Bool) (n d : Nat) (e : Int) : Int :=
  let (x, y) := shiftFrac n d (e + p)
  if s then -((x / y : Nat) : Int) else (x / y : Nat)

/-- The binary32 code both bounds round to, if they agree: sign, magnitude within `err`, exponent. -/
def agree (s : Bool) (a err : Nat) (e : Int) : Option Nat :=
  let lo := to32 (.fin s (a - err) 1 e)
  if lo = to32 (.fin s (a + err) 1 e) then some lo else none

/-- Enclosures at precision `p`: magnitude, error bound, exponent and sign. -/
structure Encl where
  s : Bool
  a : Nat
  err : Nat
  e : Int

def enclExp (p : Nat) (s : Bool) (n d : Nat) (e : Int) : Encl :=
  let (m, j) := fixExp p (fixOf p s n d e)
  ⟨false, m.toNat, 2 ^ 24, j - p⟩

def enclLog (p : Nat) (_s : Bool) (n d : Nat) (e : Int) : Encl :=
  let k0 := log2Frac n d
  let (x, y) := shiftFrac n d (-k0)          -- x / y in [1, 2)
  let big := decide (3 * y ≤ 2 * x)
  let y := if big then 2 * y else y
  let k := k0 + e + (if big then 1 else 0)
  let z : Int := ((x : Int) - y) * (2 ^ p : Nat) / ((x + y : Nat) : Int)
  let v := k * fixLn2 p + 2 * atanhSeries p (z * z / (2 ^ p : Nat)) p 0 z 0
  ⟨decide (v < 0), v.natAbs, 2 ^ 24, -p⟩

/-- exp(-|x| * c) in units of `2 ^ -p`. -/
def fixExpNeg (p : Nat) (x : Int) : Int :=
  let (m, j) := fixExp p (-x)
  if 0 ≤ j then m * (2 ^ j.toNat : Nat) else m / (2 ^ (-j).toNat : Nat)

def enclTanh (p : Nat) (s : Bool) (n d : Nat) (e : Int) : Encl :=
  let u := fixExpNeg p (fixOf p false n d (e + 1))
  let one : Int := (2 ^ p : Nat)
  ⟨s, ((one - u) * one / (one + u)).toNat, 2 ^ 24, -p⟩

def enclSigmoid (p : Nat) (s : Bool) (n d : Nat) (e : Int) : Encl :=
  let u := fixExpNeg p (fixOf p false n d e)
  let one : Int := (2 ^ p : Nat)
  ⟨false, ((if s then u else one) * one / (one + u)).toNat, 2 ^ 24, -p⟩

def enclErf (p : Nat) (s : Bool) (n d : Nat) (e : Int) : Encl :=
  let x := fixOf p false n d e
  let x2 := fixOf p false (n * n) (d * d) (2 * e)
  let sum := erfSeries p x2 (4 * p) 0 x 0
  let g := fixExpNeg p x2
  let rp : Int := isqrt ((fixPi p).toNat * 2 ^ p)
  ⟨s, (2 * sum * g / rp).toNat, 2 ^ 48, -p⟩

/-- The first precision at which the enclosure decides the rounding; the midpoint at the last one otherwise. -/
def decide32 (f : Nat → Encl) : List Nat → Nat
  | [] => 0
  | p :: ps =>
    let c := f p
    match agree c.s c.a c.err c.e with
    | some x => x
    | none => if ps = [] then to32 (.fin c.s c.a 1 c.e) else decide32 f ps

def precisions : List Nat := [384, 768]

def one32 : Nat := 0x3F800000
def inf32 : Nat := 0x7F800000
def nan32 : Nat := 0x7FC00000
def neg32 (s : Bool) (x : Nat) : Nat := bit s * 2 ^ 31 + x

/-- |x| at least the integer `k`. -/
def atLeast (k n d : Nat) (e : Int) : Bool :=
  let (x, y) := shiftFrac n d e
  decide (k * y ≤ x)

/-- EXP. Beyond ±104 the result is +∞ or +0. -/
def exp32 (v : Num) : Nat :=
  match v with
  | .nan => nan32
  | .inf s => if s then 0 else inf32
  | .fin _ 0 _ _ => one32
  | .fin s n d e => if atLeast 104 n d e then (if s then 0 else inf32) else decide32 (fun p => enclExp p s n d e) precisions

def log32 (v : Num) : Nat :=
  match v with
  | .nan => nan32
  | .inf s => if s then nan32 else inf32
  | .fin _ 0 _ _ => neg32 true inf32
  | .fin true _ _ _ => nan32
  | .fin false n d e => if Num.eq (.fin false n d e) (ofInt 1) then 0 else decide32 (fun p => enclLog p false n d e) precisions

def rcp32 (v : Num) : Nat := to32 ((ofInt 1).div v)

/-- RSQRT, from the square root of the reciprocal; a zero gives an infinity of its sign. -/
def rsqrt32 (v : Num) : Nat :=
  match v with
  | .nan => nan32
  | .inf s => if s then nan32 else 0
  | .fin s 0 _ _ => neg32 s inf32
  | .fin true _ _ _ => nan32
  | .fin false n d e => sqrtFloat fp32 (.fin false d n (-e))

def tanh32 (v : Num) : Nat :=
  match v with
  | .nan => nan32
  | .inf s => neg32 s one32
  | .fin s 0 _ _ => neg32 s 0
  | .fin s n d e => if atLeast 10 n d e then neg32 s one32 else decide32 (fun p => enclTanh p s n d e) precisions

def sigmoid32 (v : Num) : Nat :=
  match v with
  | .nan => nan32
  | .inf s => if s then 0 else one32
  | .fin _ 0 _ _ => 0x3F000000
  | .fin s n d e =>
    if !s && atLeast 18 n d e then one32
    else if atLeast 104 n d e then 0
    else decide32 (fun p => enclSigmoid p s n d e) precisions

def erf32 (v : Num) : Nat :=
  match v with
  | .nan => nan32
  | .inf s => neg32 s one32
  | .fin s 0 _ _ => neg32 s 0
  | .fin s n d e => if atLeast 4 n d e then neg32 s one32 else decide32 (fun p => enclErf p s n d e) precisions

end Sys2Proof.Machine
end

