-- ==== Sys2Proof/Machine/Exact.lean ====
section
/-! DEFINITION. Comb accumulators: exact terms, merging, packed form and finalisation (R89–R101, R187–R190, R203). -/

namespace Sys2Proof.Machine

/-- Classes: 0 C128, 1 C320, 2 C640, 3 LOOSE. -/
def clsLsb (cls : Nat) : Int := if cls = 0 then 32 else if cls = 1 then 149 else 298
/-- Bytes per element in the comb store (R191). -/
def clsBytes (cls : Nat) : Nat := if cls = 0 then 16 else if cls = 1 then 40 else if cls = 2 then 80 else 4
/-- Bits of the value field (Table 3-8). -/
def clsBits (cls : Nat) : Nat := if cls = 0 then 122 else if cls = 1 then 314 else 634
/-- Index of the top limb. -/
def clsTop (cls : Nat) : Nat := if cls = 0 then 3 else if cls = 1 then 9 else 19

/-- The value field a destination opens with (R187): pooling 2 MAX, 3 MIN. -/
def accOpen (pool cls : Nat) : Acc :=
  let m : Int := (2 ^ (clsBits cls - 1) : Nat)
  { Acc.empty with val := if cls = 3 then 0 else if pool = 2 then -m else if pool = 3 then m - 1 else 0 }

/-- A finite value in units of the class's least bit; exact for the terms a class accepts. -/
def termInt (cls : Nat) (v : Num) : Int :=
  match v with
  | .fin s n d e => let (x, y) := shiftFrac n d (e + clsLsb cls); signedNum s (x / y)
  | _ => 0

/-- The value field read back from its width. -/
def wrapCls (cls : Nat) (v : Int) : Int := toSigned (clsBits cls) (ofSigned (clsBits cls) v)

/-- One term arrives (R91, R93, R187). `psn` is a term read from poisoned data. -/
def accTerm (pool cls : Nat) (a : Acc) (v : Num) (psn : Bool) : Acc :=
  if psn then { a with poison := true, has := true }
  else match v with
    | .nan => { a with nan := true, has := true }
    | .inf s => if s then { a with ninf := true, has := true } else { a with pinf := true, has := true }
    | v =>
      let x := termInt cls v
      { a with
        has := true
        val := if pool = 2 then max a.val x else if pool = 3 then min a.val x else wrapCls cls (a.val + x) }

/-- A partial's element merges (R99, R187). -/
def accMerge (pool cls : Nat) (a b : Acc) : Acc :=
  { val := if pool = 2 then max a.val b.val else if pool = 3 then min a.val b.val else wrapCls cls (a.val + b.val)
    nan := a.nan || b.nan, pinf := a.pinf || b.pinf, ninf := a.ninf || b.ninf, poison := a.poison || b.poison, has := a.has || b.has }

/-- A term of a loose accumulation (R101): the FP32 value, or its FP32 sum with what is held. -/
def looseTerm (a : Acc) (x : Nat) : Acc :=
  { a with has := true, val := if a.has then (addFloat fp32 a.val.toNat x : Nat) else (x : Nat) }

/-- A term is wide when any element has magnitude 2^128 or more (R92). -/
def isWide (v : Num) : Bool := v.isFin && !magLt v (.fin false 1 1 128)

/-- Whether the counts are within R92's guarantee. -/
def countsOk (terms wide : Nat) : Bool := decide (terms + 65535 * wide ≤ 2 ^ 36 ∧ wide < 2 ^ 20)

/-! ### Packed elements (R97–R100) -/

def limbOf (v : Int) (i : Nat) : Nat := ofSigned 32 (v / ((2 ^ (32 * i) : Nat) : Int))

def packFlags (a : Acc) : Nat := bit a.nan + 2 * bit a.pinf + 4 * bit a.ninf + 8 * bit a.poison + 16 * bit (!a.has)

/-- Lowest non-zero limb; 0 for zero. -/
def packLo (cls : Nat) (v : Int) : Nat := ((List.range (clsTop cls + 1)).find? (fun i => limbOf v i != 0)).getD 0

/-- Lowest limb from `lo` such that the value fits in the limbs up to it, sign-extended. -/
def packHi (cls : Nat) (v : Int) (lo : Nat) : Nat :=
  let fits (h : Nat) : Bool := decide (-((2 ^ (32 * h + 31) : Nat) : Int) ≤ v ∧ v < ((2 ^ (32 * h + 31) : Nat) : Int))
  ((List.range (clsTop cls + 1)).find? (fun h => decide (lo ≤ h) && (fits h || h == clsTop cls))).getD 0

def packElem (cls : Nat) (a : Acc) : List Byte :=
  let lo := packLo cls a.val
  let hi := packHi cls a.val lo
  leBytes 4 (lo + hi * 2 ^ 5 + packFlags a * 2 ^ 10 + cls * 2 ^ 16) ++
    (List.range (hi + 1 - lo)).flatMap (fun i => leBytes 4 (limbOf a.val (lo + i)))

/-- Read one packed element of a class; `none` under R100 or when the bytes run out. -/
def unpackElem (cls : Nat) (bs : List Byte) : Option (Acc × List Byte) :=
  let h := ofLE (bs.take 4)
  let lo := h % 32
  let hi := h / 32 % 32
  let fl := h / 1024 % 64
  let n := hi + 1 - lo
  if bs.length < 4 ∨ h / 2 ^ 16 % 4 ≠ cls ∨ clsTop cls < lo ∨ clsTop cls < hi ∨ hi < lo ∨ h / 2 ^ 18 ≠ 0 ∨ 32 ≤ fl ∨
      bs.length < 4 + 4 * n then none
  else
    let v : Int := toSigned (32 * n) (ofLE ((bs.drop 4).take (4 * n))) * ((2 ^ (32 * lo) : Nat) : Int)
    some ({ val := v, nan := fl % 2 == 1, pinf := fl / 2 % 2 == 1, ninf := fl / 4 % 2 == 1, poison := fl / 8 % 2 == 1,
            has := fl / 16 % 2 == 0 }, bs.drop (4 + 4 * n))

/-- Read `n` packed elements; the bytes must end with them. -/
def unpackElems (cls : Nat) : Nat → List Byte → Option (List Acc)
  | 0, bs => if bs = [] then some [] else none
  | n + 1, bs =>
    match unpackElem cls bs with
    | none => none
    | some (a, rest) => (unpackElems cls n rest).map (fun as => a :: as)

/-! ### Finalisation -/

/-- A result before conversion, and whether it carries the poison mark. -/
abbrev Fin := Num × Bool

/-- The exact value an accumulator holds. -/
def accNum (cls : Nat) (v : Int) : Num := .fin (decide (v < 0)) v.natAbs 1 (-clsLsb cls)

/-- Table 3-11. -/
def finSum (cls : Nat) (a : Acc) : Fin :=
  if a.poison then (.nan, true)
  else if a.nan || (a.pinf && a.ninf) then (.nan, false)
  else if a.pinf then (.inf false, false)
  else if a.ninf then (.inf true, false)
  else if !a.has then (ofInt 0, false)
  else (accNum cls a.val, false)

/-- Table 6-3. -/
def finExt (isMax : Bool) (cls : Nat) (a : Acc) : Fin :=
  let m : Int := (2 ^ (clsBits cls - 1) : Nat)
  let sentinel := if isMax then -m else m - 1
  let toward := if isMax then a.pinf else a.ninf
  let away := if isMax then a.ninf else a.pinf
  if a.poison then (.nan, true)
  else if a.nan then (.nan, false)
  else if toward then (.inf (!isMax), false)
  else if a.val ≠ sentinel then (accNum cls a.val, false)
  else if away then (.inf isMax, false)
  else (ofInt 0, false)

/-- Table 6-4 over an exact denominator. -/
def finDiv (cls : Nat) (a d : Acc) : Fin :=
  if a.poison || d.poison then (.nan, true)
  else if a.nan || d.nan || d.pinf || d.ninf || (a.pinf && a.ninf) then (.nan, false)
  else if a.pinf then (.inf (decide (d.val < 0)), false)
  else if a.ninf then (.inf (decide (0 ≤ d.val)), false)
  else if !a.has || a.val == 0 then (ofInt 0, false)
  else if d.val = 0 then (.inf (decide (a.val < 0)), false)
  else ((accNum cls a.val).div (accNum cls d.val), false)

/-- MEAN: the denominator is the term count. -/
def finMean (cls : Nat) (a : Acc) (terms : Nat) : Fin :=
  if a.poison then (.nan, true)
  else if a.nan || (a.pinf && a.ninf) then (.nan, false)
  else if a.pinf then (.inf false, false)
  else if a.ninf then (.inf true, false)
  else if !a.has || a.val == 0 then (ofInt 0, false)
  else if terms = 0 then (.inf (decide (a.val < 0)), false)
  else ((accNum cls a.val).div (ofInt terms), false)

/-- A loose element (R203): FP32 value, or its FP32 quotient by an FP32 denominator. -/
def finLoose (a : Acc) (den : Option Nat) : Num :=
  if !a.has then ofInt 0
  else match den with
    | none => of32 a.val.toNat
    | some d => of32 (divFloat fp32 a.val.toNat d)

end Sys2Proof.Machine
end

