-- ==== Sys2Proof/Machine/Coll.lean ====
section
/-! DEFINITION. Hardware collectives: who sends which elements to whom at which stage, merging, and the start of a collective
(R437–R443, Tables 16-7 and 16-8). -/

namespace Sys2Proof.Machine

/-- Seed and phase ordinal of the run on cluster `c`; zeros when none runs. -/
def seedOrdinal (s : State) (c : Nat) : Word × Nat :=
  match (slotOfCluster s c).bind (fun i => (planOf s i).bind (·.run)) with
  | some r => (r.seed, r.ordinal)
  | none => (0, 0)

/-! ### Descriptors -/

def collDescAddr (c w : Nat) : Nat := fabCsr (0x1000 + 0x80 * c + 8 * w)
def collStateAddr (c : Nat) : Nat := fabCsr (0x1000 + 0x80 * c + 0x40)

/-- Eight words as a descriptor. -/
def descOf (w : Nat → Word) : Desc := BitVec.ofNat 512 ((List.range 8).foldl (fun x i => x + (w i).toNat * 2 ^ (64 * i)) 0)

def collDesc (s : State) (c : Nat) : Desc := descOf (fun w => csrGet s (collDescAddr c w))

def cdOp (d : Desc) : Nat := getF d 0 4
def cdRed (d : Desc) : Nat := getF d 4 4
def cdCls (d : Desc) : Nat := getF d 8 2
def cdIfmt (d : Desc) : Nat := getF d 10 4
def cdW64 (d : Desc) : Bool := getB d 14
def cdConv (d : Desc) : Nat := getF d 16 16
def cdRoot (d : Desc) : Nat := getF d 32 11
def cdElems (d : Desc) : Nat := getF d 192 40
def cdTid (d : Desc) : Nat := getF d 232 40
/-- The reduction is an exact sum. -/
def cdSum (d : Desc) : Bool := (cdOp d == 3 || cdOp d == 4) && cdRed d == 0
/-- Bytes of an input element and of an output element. -/
def cdInB (d : Desc) : Nat := if cdW64 d then 8 else fmtBits (cdIfmt d) / 8
def cdOutB (d : Desc) : Nat := if cdSum d then fmtBits (cwFmt (cdConv d)) / 8 else cdInB d

/-- A descriptor that breaks Table 16-7 or R439 (R438); spans are checked beside it. -/
def collLegal (d : Desc) : Bool :=
  let op := cdOp d
  let red := op == 3 || op == 4
  let f := cdIfmt d
  decide (1 ≤ op ∧ op ≤ 4) && (if red then decide (cdRed d ≤ 5) else cdRed d == 0) &&
  (if cdSum d then cdCls d != 3 else cdCls d == 0) && (!cdW64 d || f == 7) && !getB d 15 &&
  (if cdSum d then cwLegal (cdConv d) && [0, 1, 2, 3, 4, 7].contains (cwFmt (cdConv d)) else cdConv d == 0) &&
  (op == 1 || cdRoot d == 0) && getF d 43 21 == 0 && decide (1 ≤ cdElems d) && getF d 286 2 == 0 && getF d 288 32 != 0 &&
  getF d 334 178 == 0 &&
  (if cdSum d then
    !cdW64 d && (if cdCls d = 0 then [3, 4, 5, 6].contains f else if cdCls d = 1 then [0, 1, 2, 3, 4, 5, 6].contains f
      else [0, 1, 2, 3, 4, 5, 6].contains f)
   else if red && decide (cdRed d ≤ 2) then cdW64 d || [0, 1, 2, 7].contains f
   else if red then cdW64 d || [5, 6, 7].contains f
   else cdW64 d || decide (f ≤ 7)) &&
  locKind (BitVec.ofNat 64 (getF d 64 64)) == 2 && locRsv (BitVec.ofNat 64 (getF d 64 64)) == 0 &&
  locKind (BitVec.ofNat 64 (getF d 128 64)) == 2 && locRsv (BitVec.ofNat 64 (getF d 128 64)) == 0

/-! ### Ranks, slices and groups -/

def rankOf (s : State) (d : Nat) : Nat := (s.shape.takeWhile (fun x => x != d)).length
/-- DESIGN CHOICE; log entry 56. -/
def sliceLo (s : State) (e r : Nat) : Nat := r * e / s.shape.length
def sliceHi (s : State) (e r : Nat) : Nat := (r + 1) * e / s.shape.length
def groupMembers (s : State) (d : Nat) : List Nat := s.shape.filter (fun x => x / 16 == d / 16)
/-- A module's position in its group. -/
def posOf (s : State) (d : Nat) : Nat := ((groupMembers s d).takeWhile (fun x => x != d)).length
/-- Every group holds the same number of members (R443). -/
def evenShape (s : State) : Bool := s.shape.all (fun d => (groupMembers s d).length == (groupMembers s (s.shape.getD 0 0)).length)

/-- Elements of device `d`'s slice. -/
def sliceElems (s : State) (e d : Nat) : List Nat :=
  (List.range (sliceHi s e (rankOf s d) - sliceLo s e (rankOf s d))).map (fun k => sliceLo s e (rankOf s d) + k)

/-- Elements of the slices owned, in any group, by modules at position `p`. (DESIGN CHOICE; log entry 56.) -/
def posElems (s : State) (e p : Nat) : List Nat := (s.shape.filter (fun d => posOf s d == p)).flatMap (sliceElems s e)

/-- Elements module `f` sends module `t` at a stage: 0 terms to group-mates, 1 terms to owners, 2 values across groups, 3 values within
groups. In an uneven shape stages 1 and 2 go directly. (DESIGN CHOICE; log entry 56.) -/
def collSends (s : State) (d : Desc) (stage f t : Nat) : List Nat :=
  let e := cdElems d
  let even := evenShape s
  let mates := f / 16 == t / 16
  let same := posOf s f == posOf s t
  if f = t then []
  else match stage with
    | 0 => if even && mates then posElems s e (posOf s t) else []
    | 1 => if even then (if !mates && same then sliceElems s e t else []) else sliceElems s e t
    | 2 =>
      if cdOp d = 1 then
        (if f = cdRoot d ∧ (!even ∨ (!mates ∧ same)) then List.range e else [])
      else if even then (if !mates && same then sliceElems s e f else []) else sliceElems s e f
    | _ =>
      if !even || !mates then []
      else if cdOp d = 1 then (if posOf s f = posOf s (cdRoot d) ∧ t ≠ cdRoot d then List.range e else [])
      else posElems s e (posOf s f)

/-- Everything a stage brings this module has arrived. (DESIGN CHOICE; log entry 56.) -/
def collHeard (s : State) (c : Coll) (d : Desc) (stage : Nat) : Bool :=
  s.shape.all (fun f => ((c.got.find? (fun g => g.1 == (stage, f))).map (·.2)).getD 0 == (collSends s d stage f (ownId s)).length)

/-! ### Elements -/

/-- Input element at array position `k`: its code and poison mark. -/
def collInput (s : State) (d : Desc) (k : Nat) : Nat × Bool :=
  let l := BitVec.ofNat 64 (getF d 64 64)
  let a := rgnBase s (locIdx l) + locOff l + k * cdInB d
  (memNat s a (cdInB d), psnIn s a (cdInB d))

/-- One element reduced into another under MIN, MAX, AND, OR or XOR (R246 for MIN and MAX). -/
def reduceOp (d : Desc) (a b : Nat × Bool) : Nat × Bool :=
  let x := a.1
  let y := b.1
  let v := match cdRed d with
    | 3 => x &&& y
    | 4 => x ||| y
    | 5 => x ^^^ y
    | r =>
      let isMax := r == 2
      if cdW64 d then (if isMax then max x y else min x y)
      else match floatFmt (cdIfmt d) with
        | some f => minMaxFloat isMax f x y
        | none =>
          let w := cdInB d * 8
          if decide (toSigned w x < toSigned w y) == isMax then y else x
  (v, a.2 || b.2)

def assocGet {α : Type} (l : List (Nat × α)) (k : Nat) : Option α := (l.find? (fun e => e.1 == k)).map (·.2)
def assocPut {α : Type} (l : List (Nat × α)) (k : Nat) (v : α) : List (Nat × α) := (k, v) :: l.filter (fun e => e.1 != k)

/-- A term or reduced element joins what is held. -/
def collJoin (d : Desc) (c : Coll) (k : Nat) (a : Acc) (r : Nat × Bool) : Coll :=
  if cdSum d then
    { c with acc := assocPut c.acc k (match assocGet c.acc k with
        | some x => accMerge 0 (cdCls d) x a
        | none => a) }
  else
    { c with red := assocPut c.red k (match assocGet c.red k with
        | some x => reduceOp d x r
        | none => r) }

/-- The own term of element `k` of the vector. -/
def collOwn (s : State) (d : Desc) (c : Coll) (k : Nat) : Coll :=
  let x := collInput s d k
  collJoin d c k (accTerm 0 (cdCls d) Acc.empty (decodeElem (cdIfmt d) x.1) x.2) x

/-- The owner finalises element `k` once (R440). -/
def collFinal (s : State) (d : Desc) (c : Coll) (k : Nat) : Nat × Bool :=
  if cdSum d then
    let f := finSum (cdCls d) ((assocGet c.acc k).getD Acc.empty)
    let so := seedOrdinal s (getF d 272 8 / 16)
    ((convert (cdConv d) (drawWord so.1 0 (cdTid d) so.2 k) f.1).code, f.2)
  else (assocGet c.red k).getD (0, false)

/-! ### Packets -/

/-- Bytes an element travels as: packed terms at stages 0 and 1 of a sum, values otherwise. -/
def collBytes (d : Desc) (c : Coll) (stage k : Nat) : List Byte × Bool :=
  if stage ≤ 1 then
    (if cdSum d then (packElem (cdCls d) ((assocGet c.acc k).getD Acc.empty), false)
     else let r := (assocGet c.red k).getD (0, false); (leBytes (cdInB d) r.1, r.2))
  else let r := (assocGet c.out k).getD (0, false); (leBytes (cdOutB d) r.1, r.2)

/-- The 16-byte prefix this model puts before a COLL packet's elements (the manual gives no layout): context, sequence, operation,
stage, element count of the vector, first element. (DESIGN CHOICE; log entry 31.) -/
def collHead (d : Desc) (c : Coll) (stage first : Nat) : List Byte :=
  leBytes 1 c.ctx ++ leBytes 1 c.seq ++ leBytes 1 (cdOp d + 16 * cdRed d) ++ leBytes 1 stage ++ leBytes 6 (cdElems d) ++ leBytes 6 first

/-- Cut elements into runs of consecutive numbers with one poison mark and at most 2,032 bytes. -/
def collRuns : List (Nat × List Byte × Bool) → List (Nat × Nat × List Byte × Bool) → List (Nat × Nat × List Byte × Bool)
  | [], acc => acc.reverse
  | (k, bs, p) :: rest, (f, n, ds, q) :: acc =>
    if k = f + n ∧ p = q ∧ ds.length + bs.length ≤ 2032 then collRuns rest ((f, n + 1, ds ++ bs, q) :: acc)
    else collRuns rest ((k, 1, bs, p) :: (f, n, ds, q) :: acc)
  | (k, bs, p) :: rest, [] => collRuns rest [(k, 1, bs, p)]

/-- Send what a stage owes every other module. (DESIGN CHOICE; log entry 31.) -/
def collSend (s : State) (d : Desc) (c : Coll) (stage : Nat) : State :=
  s.shape.foldl (fun s t =>
    (collRuns ((collSends s d stage (ownId s) t).map (fun k => (k, collBytes d c stage k))) []).foldl (fun s r =>
      (sendPkt s kCOLL t 0 (15 + r.2.2.1.length) 0 (collHead d c stage r.1 ++ r.2.2.1) r.2.2.2 true).getD s) s) s

/-- Carry a collective through every stage whose input has arrived. Stage 4: the module's own output is complete. -/
def collAdvance : Nat → State → Desc → Coll → State × Coll
  | 0, s, _, c => (s, c)
  | f + 1, s, d, c =>
    match c.stage with
    | 0 => if collHeard s c d 0 then let c := { c with stage := 1 }; collAdvance f (collSend s d c 1) d c else (s, c)
    | 1 =>
      if collHeard s c d 1 then
        let own := sliceElems s (cdElems d) (ownId s)
        let c := { c with out := own.map (fun k => (k, collFinal s d c k)), stage := if cdOp d = 3 then 4 else 2 }
        if cdOp d = 3 then (s, c) else collAdvance f (collSend s d c 2) d c
      else (s, c)
    | 2 => if collHeard s c d 2 then let c := { c with stage := 3 }; collAdvance f (collSend s d c 3) d c else (s, c)
    | 3 => if collHeard s c d 3 then (s, { c with stage := 4 }) else (s, c)
    | _ => (s, c)

def collPut (s : State) (c : Coll) : State := { s with colls := c :: s.colls.filter (fun x => x.ctx != c.ctx) }

/-! ### Receiving -/

/-- Read `n` values of `b` bytes. -/
def readVals (b : Nat) : Nat → List Byte → List Nat
  | 0, _ => []
  | f + 1, bs => if bs = [] ∨ b = 0 then [] else ofLE (bs.take b) :: readVals b f (bs.drop b)

/-- Read packed elements to the end of the bytes; `none` under R100. -/
def readPacked (cls : Nat) : Nat → List Byte → Option (List Acc)
  | 0, bs => if bs = [] then some [] else none
  | f + 1, bs =>
    if bs = [] then some []
    else match unpackElem cls bs with
      | some (a, rest) => (readPacked cls f rest).map (a :: ·)
      | none => none

/-- Merge a packet of the running collective. A packet with a packed element that R100 refuses is refused whole, with CONTAIN. (DESIGN CHOICE; log
entry 56.) -/
def collTake (s : State) (d : Desc) (c : Coll) (p : CollPkt) : State × Coll :=
  let bump (c : Coll) (n : Nat) : Coll :=
    let key := (p.stage, p.src)
    let old := ((c.got.find? (fun g => g.1 == key)).map (·.2)).getD 0
    { c with got := (key, old + n) :: c.got.filter (fun g => g.1 != key) }
  let packed := if p.stage ≤ 1 && cdSum d then readPacked (cdCls d) p.data.length p.data else some []
  if packed.isNone then (raise s 0x3200 0x20 CONTAIN, c)
  else
  let c :=
    if p.stage ≤ 1 then
      if cdSum d then
        let as := packed.getD []
        bump ((as.zipIdx).foldl (fun c a => collJoin d c (p.first + a.2) { a.1 with poison := a.1.poison || p.psn } (0, false)) c) as.length
      else
        let vs := readVals (cdInB d) p.data.length p.data
        bump ((vs.zipIdx).foldl (fun c v => collJoin d c (p.first + v.2) Acc.empty (v.1, p.psn)) c) vs.length
    else
      let vs := readVals (cdOutB d) p.data.length p.data
      bump ((vs.zipIdx).foldl (fun c v => { c with out := assocPut c.out (p.first + v.2) (v.1, p.psn) }) c) vs.length
  collAdvance 6 s d c

/-! ### Starting -/

/-- The next triggered collective of a context begins (R441): inputs are read, the first stage is sent, and packets that came early are
merged. (DESIGN CHOICE; log entry 56.) -/
def collBegin (s : State) (x : Nat) : State :=
  let d := collDesc s x
  let st := csrGet s (collStateAddr x)
  if getF st 0 1 = 1 ∨ getF st 9 23 = 0 then s
  else
    let seq := (getF st 1 8 + 1) % 256
    let step := getF d 288 32
    let s := csrPut s (collStateAddr x)
      (BitVec.ofNat 64 (1 + seq * 2 + (getF st 9 23 - 1) * 2 ^ 9 + (getF st 32 32 + step) % 2 ^ 32 * 2 ^ 32))
    let c : Coll := { ctx := x, seq := seq, acc := [], red := [], got := [], out := [], stage := 0 }
    let e := cdElems d
    let own := sliceElems s e (ownId s)
    let (s, c) :=
      if cdOp d = 1 then
        let c := { c with stage := 2, out := if ownId s = cdRoot d then (List.range e).map (fun k => (k, collInput s d k)) else [] }
        collAdvance 6 (collSend s d c 2) d c
      else if cdOp d = 2 then
        let c := { c with stage := 2, out := own.map (fun k => (k, collInput s d (k - sliceLo s e (rankOf s (ownId s))))) }
        collAdvance 6 (collSend s d c 2) d c
      else
        let c := (List.range e).foldl (collOwn s d) c
        collAdvance 6 (collSend s d c 0) d c
    let early := s.collHeld.filter (fun p => p.ctx == x && p.seq == seq)
    let s := { s with collHeld := s.collHeld.filter (fun p => !(p.ctx == x && p.seq == seq)) }
    let (s, c) := early.foldl (fun sc p => collTake sc.1 d sc.2 p) (s, c)
    collPut s c

/-- The contexts whose trigger is tally counter `n` of tile `t` see it stand at `v`: every whole step it has advanced since the last
start or pending trigger is one more trigger (R441). (DESIGN CHOICE; log entry 56.) -/
def collTrigger (s : State) (t n v : Nat) : State :=
  (List.range 16).foldl (fun s x =>
    let d := collDesc s x
    let step := getF d 288 32
    if cdOp d = 0 ∨ getF d 272 8 ≠ t ∨ getF d 280 6 ≠ n ∨ step = 0 then s
    else
      let st := csrGet s (collStateAddr x)
      let pend := getF st 9 23
      let adv := (v + 2 ^ 32 - (getF st 32 32 + pend * step) % 2 ^ 32) % 2 ^ 32
      collBegin (csrPut s (collStateAddr x) (setF st 9 23 (pend + adv / step))) x) s

end Sys2Proof.Machine
end

