-- ==== Sys2Proof/Machine/Sync.lean ====
section
/-! DEFINITION. Semaphores, tally counters, barriers, watches and notifications (chapter 10, R297, R441, R444). -/

namespace Sys2Proof.Machine

def semAddr (t n : Nat) : Nat := tileCsr t (0x8800 + 8 * n)
def tallyAddr (t n : Nat) : Nat := tileCsr t (0x9000 + 8 * n)
def tallyCfgAddr (t n : Nat) : Nat := tileCsr t (0x9400 + 8 * n)
def synErrAddr (t : Nat) : Nat := tileCsr t 0x8008
def watchAddr (t : Nat) : Nat := tileCsr t 0x8010
def semVal (s : State) (t n : Nat) : Nat := csrF s (semAddr t n) 0 32
def tallyVal (s : State) (t n : Nat) : Nat := csrF s (tallyAddr t n) 0 32
def semQueue (s : State) (t n : Nat) : List SemWait := tabGet (fun _ => []) s.semQ (t * 256 + n)
def setSemQueue (s : State) (t n : Nat) (q : List SemWait) : State :=
  { s with semQ := tabSet (fun _ => []) s.semQ (t * 256 + n) q }
def tallyQueue (s : State) (t n : Nat) : List TallyWait := tabGet (fun _ => []) s.tallyQ (t * 128 + n)
def setTallyQueue (s : State) (t n : Nat) (q : List TallyWait) : State :=
  { s with tallyQ := tabSet (fun _ => []) s.tallyQ (t * 128 + n) q }

/-- DEPTH of a tally counter; views have 2^31 − 1. -/
def tallyDepth (s : State) (t n : Nat) : Nat := if n < 64 then csrF s (tallyCfgAddr t n) 32 31 else 2 ^ 31 - 1

/-- Record a misuse at a tile (R313): SYN_ERR once, and CONTAIN. -/
def synMisuse (s : State) (t kind num cause : Nat) : State :=
  let s := errOnce s (synErrAddr t) 18 (cause + num % 256 * 2 ^ 8 + kind * 2 ^ 16)
  raise s (tileSrc 7 t) (if cause = 5 then 0x22 else if cause = 6 then 0x23 else 0x21) CONTAIN

/-! ### Waking -/

/-- An instruction of a core retires: PC and the instruction counter. -/
def retire (s : State) (t : Nat) : State :=
  csrAdd (setCore s t { coreOf s t with pc := (coreOf s t).pc + 4 }) (tileCsr t 0x80) 1

/-- After an instruction the stream stands at `pos`; loops whose body ends there iterate or close, innermost first (R320).
(DESIGN CHOICE; log entry 8.) -/
def wayAt : List Loop → Nat → List Loop × Nat
  | [], pos => ([], pos)
  | l :: ls, pos =>
    if pos = l.start + l.len then
      if l.iter + 1 < l.count then ({ l with iter := l.iter + 1 } :: ls, l.start) else wayAt ls pos
    else (l :: ls, pos)

/-- A waybill instruction retires, with the `skip` instructions after it passed over. -/
def wayAdvance (s : State) (x : Stream) (skip : Nat := 0) : Stream :=
  let p := wayAt x.loops (x.wpos + 1 + skip)
  { x with loops := p.1, wpos := p.2, lastProgress := s.now }

/-- A waiter is served: 0 the core, 3 the matrix engine, 4 the vector engine, 16 + c stream context c. -/
def wake (s : State) (t who : Nat) : State :=
  if who = 0 then retire (setCore s t { coreOf s t with blocked := none }) t
  else if who = 3 then setMxe s t { mxeOf s t with waiting := false, granted := true }
  else if who = 4 then setVec s t { vecOf s t with waiting := false, granted := true }
  else match ctxOf s t (who - 16) with
    | some x => setCtx s t (who - 16) (some (wayAdvance s { x with waitSem := none }))
    | none => s

/-- MSI-X vector `v` is raised: the message, or the pending bit while the vector is masked. (PRESUMED; log entry 52.) -/
def raiseMsix (s : State) (v : Nat) : State :=
  if csrF s (hstCsr (0xF0008 + 0x10 * v)) 32 1 = 1 then csrSetF s (hstCsr 0xF8000) v 1 1 else emitOut s (.msix v)

/-! ### Watches (Table 10-9, R279) -/

/-- The watch of a tile is satisfied: it disarms, and the SYNC cause becomes pending for the task that armed it. (DEDUCED; log entry 12.) -/
def watchHit (s : State) (t : Nat) : State :=
  let s := csrSetF s (watchAddr t) 9 1 0
  let here := csrSetF s (tileCsr t 0x30) 1 1 1
  match (coreOf s t).watchBy with
  | none => here
  | some id =>
    if s.suspended.any (fun x => x.tile == t && x.task.id == id) then
      { s with suspended := s.suspended.map (fun x => if x.tile = t ∧ x.task.id = id then { x with hit := true } else x) }
    else here

/-- (VALUE − target) mod 2^32. -/
def tallyGap (v target : Nat) : Nat := (v + 2 ^ 32 - target % 2 ^ 32) % 2 ^ 32

/-- DEDUCED; log entry 12. -/
def watchCheck (s : State) (t : Nat) : State :=
  let w := csrGet s (watchAddr t)
  if getF w 9 1 = 0 then s
  else
    let n := getF w 0 8
    let v := getF w 32 32
    let sat := if getF w 8 1 = 1 then
        decide (n < 128) && decide (tallyGap (tallyVal s t n) v ≤ tallyDepth s t n)
      else decide (v ≤ semVal s t n)
    if sat then watchHit s t else s

/-! ### Semaphores (R289–R291) -/

/-- Serve a semaphore's queue from the head. (DEDUCED; log entry 12.) -/
def semServe : Nat → State → Nat → Nat → State
  | 0, s, _, _ => s
  | f + 1, s, t, n =>
    match semQueue s t n with
    | [] => s
    | w :: rest =>
      if w.amount ≤ semVal s t n then
        let s := csrSetF s (semAddr t n) 0 32 (semVal s t n - w.amount)
        semServe f (wake (setSemQueue s t n rest) t w.who) t n
      else s

/-- A signal of `amt` units: `none` on overflow, which the caller records. -/
def semSignal (s : State) (t n amt : Nat) : Option State :=
  if amt = 0 then some s
  else if 2 ^ 32 ≤ semVal s t n + amt then none
  else
    let s := csrSetF s (semAddr t n) 0 32 (semVal s t n + amt)
    some (watchCheck (semServe ((semQueue s t n).length + 1) s t n) t)

/-- A signal whose overflow is recorded at the tile that holds the semaphore. -/
def signalOrErr (s : State) (t n amt : Nat) : State :=
  match semSignal s t n amt with
  | some s => s
  | none => synMisuse s t 0 n 2

/-- A wait for `amt` units: served at once, or queued at the tail. -/
def semWait (s : State) (t n amt who : Nat) : Bool × State :=
  if amt = 0 then (true, s)
  else if semQueue s t n = [] ∧ amt ≤ semVal s t n then (true, csrSetF s (semAddr t n) 0 32 (semVal s t n - amt))
  else (false, setSemQueue s t n (semQueue s t n ++ [⟨who, amt, s.now⟩]))

/-- A waiter leaves a semaphore's queue without being served; those it held back are served (R291). -/
def semLeave (s : State) (t n who : Nat) : State :=
  let q := (semQueue s t n).filter (fun w => w.who != who)
  semServe (q.length + 1) (setSemQueue s t n q) t n

/-! ### Tally counters (R292, R293) -/

/-- A waiter is released at target `x`: MARK moves forward to it; views have no MARK. -/
def markAt (s : State) (t n x : Nat) : State :=
  if 64 ≤ n then s
  else
    let g := tallyGap x (csrF s (tallyAddr t n) 32 32)
    if 1 ≤ g ∧ g ≤ tallyDepth s t n then csrSetF s (tallyAddr t n) 32 32 x else s

/-- Release every queued waiter whose target is reached. (DEDUCED; log entry 12.) -/
def tallyServe (s : State) (t n : Nat) : State :=
  let reached (w : TallyWait) : Bool := decide (tallyGap (tallyVal s t n) w.target ≤ tallyDepth s t n)
  let q := tallyQueue s t n
  (q.filter reached).foldl (fun s w => wake (markAt s t n w.target) t 0) (setTallyQueue s t n (q.filter (fun w => !reached w)))

/-- Notification slots that watch counter `n` (R303). (DESIGN CHOICE; log entry 61.) -/
def notify (s : State) (t n : Nat) : State :=
  (List.range 8).foldl (fun s j =>
    let c := csrGet s (tileCsr t (0x8100 + 0x10 * j))
    let v := tallyVal s t n
    if getF c 0 1 = 1 ∧ getF c 8 6 = n ∧ getF c 32 32 ≤ tallyGap v (tabGet (fun _ => 0) s.notifyLast (t * 8 + j)) then
      let s := { s with notifyLast := tabSet (fun _ => 0) s.notifyLast (t * 8 + j) v }
      let s := emitOut s (.hostWrite ((csrGet s (tileCsr t (0x8108 + 0x10 * j))).toNat / 8 * 8) (leBytes 8 v))
      if getF c 1 1 = 1 then raiseMsix s (getF c 16 6) else s
    else s) s

/-- An add of `amt`: `none` when it would break DEPTH, which the caller records. -/
def tallyAdd (s : State) (t n amt : Nat) : Option State :=
  let v := tallyVal s t n
  if amt = 0 then some s
  else if tallyDepth s t n < tallyGap (v + amt) (csrF s (tallyAddr t n) 32 32) then none
  else
    let v' := (v + amt) % 2 ^ 32
    let s := csrSetF s (tallyAddr t n) 0 32 v'
    some (collTrigger (notify (watchCheck (tallyServe s t n) t) t n) t n v')

def tallyOrErr (s : State) (t n amt : Nat) : State :=
  match tallyAdd s t n amt with
  | some s => s
  | none => synMisuse s t 1 n 3

/-- A view advances by one when its release arrives (R295). -/
def viewAdvance (s : State) (t n : Nat) : State :=
  watchCheck (tallyServe (csrSetF s (tallyAddr t n) 0 32 ((tallyVal s t n + 1) % 2 ^ 32)) t n) t

/-! ### Barriers -/

/-- Tiles of the clusters of a mask. -/
def maskTiles (m : Nat) : List Nat := (List.range 256).filter (fun t => m.testBit (t / 16))

/-- Tiles of the plan that runs on cluster `c`. -/
def planTiles (s : State) (c : Nat) : List Nat :=
  match (slotOfCluster s c).bind (planOf s) with
  | some p => maskTiles p.clusterMask
  | none => []

def dieCfg (k : Nat) : Nat := clusterCsr (k / 2) (0x8000 + 0x10 * (k % 2))
def dieState (k : Nat) : Nat := clusterCsr (k / 2) (0x8008 + 0x10 * (k % 2))
def fabCfg (k : Nat) : Nat := fabCsr (0x800 + 0x10 * k)
def fabState (k : Nat) : Nat := fabCsr (0x808 + 0x10 * k)
/-- Tiles a release of context `k` (fabric contexts are 32 and above) has not reached. -/
def relTiles (s : State) (k : Nat) : List Nat := tabGet (fun _ => []) s.barRel k
def setRel (s : State) (k : Nat) (l : List Nat) : State := { s with barRel := tabSet (fun _ => []) s.barRel k l }

/-- A die barrier context opens when its generation is complete and no release is in flight (R295). (DESIGN CHOICE; log entry 14.) -/
def dieOpen (s : State) (k : Nat) : State :=
  let v := csrGet s (dieState k)
  let e := csrF s (dieCfg k) 0 16
  if e ≠ 0 ∧ getF v 0 16 = e ∧ getF v 63 1 = 0 then
    let tiles := planTiles s (k / 2)
    let v := setF (setF (setF v 32 31 (getF v 32 31 + 1)) 0 16 (getF v 16 16)) 16 16 0
    setRel (csrPut s (dieState k) (setF v 63 1 (if tiles = [] then 0 else 1))) k tiles
  else s

/-- An arrival from tile `t` reaches the home of die context `k` (Table 10-3). (DESIGN CHOICE; log entry 14.) -/
def dieArrive (s : State) (k t : Nat) : State :=
  let v := csrGet s (dieState k)
  let e := csrF s (dieCfg k) 0 16
  if e = 0 then synMisuse s t 2 k 4
  else if getF v 0 16 < e then dieOpen (csrPut s (dieState k) (setF v 0 16 (getF v 0 16 + 1))) k
  else if getF v 16 16 < e then csrPut s (dieState k) (setF v 16 16 (getF v 16 16 + 1))
  else synMisuse s t 2 k 4

def fabBar (s : State) (k : Nat) : FabBar := tabGet (fun _ => FabBar.init) s.fabArr k
/-- Store a node's lists, and their counts in FAB_BAR_STATE. -/
def setFabBar (s : State) (k : Nat) (b : FabBar) : State :=
  let s := { s with fabArr := tabSet (fun _ => FabBar.init) s.fabArr k b }
  csrPut s (fabState k) (setF (setF (csrGet s (fabState k)) 16 12 b.counted.length) 28 12 b.held.length)

/-- The slot of the running FABRIC plan. -/
def fabricSlot (s : State) : Option Nat := (activeSlots s).find? (fun i => ((planOf s i).map (·.fabric)).getD false)

/-- The module's own arrival for the generation being collected goes to every module: a copy to each group-mate and one to a member of
each other group, which forwards it (R444). (DESIGN CHOICE; log entry 14.) -/
def fabSend (s : State) (k : Nat) : State :=
  let me := ownId s
  let tag := (csrF s (fabState k) 42 22 + 1) % 4
  let data := arriveData k tag ((fabricSlot s).getD 0)
  let firsts := s.shape.filter (fun d => d / 16 != me / 16 && (s.shape.find? (fun x => x / 16 == d / 16)) == some d)
  let s := ((groupMembers s me).filter (fun d => d != me) ++ firsts).foldl
    (fun s d => (sendPkt s kBAR_ARRIVE d 0 7 0 data false false).getD s) s
  let b := fabBar s k
  setFabBar (csrSetF s (fabState k) 40 1 1) k { b with counted := b.counted ++ [me] }

/-- The release of an opened fabric context goes to the tiles. -/
def fabRelease (s : State) (k : Nat) (tiles : List Nat) : State :=
  csrSetF (setRel s (32 + k) tiles) (fabState k) 41 1 (if tiles = [] then 0 else 1)

/-- The tiles of the running FABRIC plan. -/
def fabTiles (s : State) : List Nat :=
  match (activeSlots s).filterMap (fun i => (planOf s i).bind (fun p => if p.fabric then some p.clusterMask else none)) with
  | m :: _ => maskTiles m
  | [] => []

/-- GOV_NS offset of the own group (R501). -/
def groupOffset (s : State) : Nat := (ownId s / 16) % 16 * csrF s (govCsr 0x10) 11 13

/-- A node opens when every module has arrived and its previous release is complete (R297); with local arrivals held, the next
generation's own arrival may follow at once. -/
def fabOpen : Nat → State → Nat → State
  | 0, s, _ => s
  | f + 1, s, k =>
    let v := csrGet s (fabState k)
    let b := fabBar s k
    if getF v 40 1 = 1 ∧ b.counted.length = s.shape.length ∧ getF v 41 1 = 0 ∧ !(s.groupWait.any (fun g => g.1 == k)) then
      let v := setF (setF (setF v 42 22 (getF v 42 22 + 1)) 40 1 0) 0 16 b.next
      let s := setFabBar (csrPut s (fabState k) v) k { next := 0, counted := b.held, held := [] }
      -- context 0 is the phase barrier: the steward releases its phase itself
      let tiles := if k = 0 then [] else fabTiles s
      let s :=
        if groupOffset s = 0 then fabRelease s k tiles
        else csrSetF { s with groupWait := s.groupWait ++ [(k, s.now + groupOffset s)] } (fabState k) 41 1 1
      if csrF s (fabCfg k) 0 16 ≠ 0 ∧ csrF s (fabState k) 0 16 = csrF s (fabCfg k) 0 16 then fabOpen f (fabSend s k) k else s
    else s

/-- A local arrival at a fabric node (R297, Table 10-3 with EXPECT_LOCAL). -/
def fabLocal (s : State) (k t : Nat) : State :=
  let e := csrF s (fabCfg k) 0 16
  let v := csrGet s (fabState k)
  let b := fabBar s k
  if e = 0 then synMisuse s t 3 k 4
  else if getF v 0 16 < e then
    let s := csrPut s (fabState k) (setF v 0 16 (getF v 0 16 + 1))
    if getF v 0 16 + 1 = e then fabOpen 3 (fabSend s k) k else s
  else if b.next < e then setFabBar s k { b with next := b.next + 1 }
  else synMisuse s t 3 k 4

/-- The tile at which objects that no tile holds are recorded: the first tile of the running FABRIC plan (R313). -/
def fabTile (s : State) : Nat := (fabTiles s).head?.getD 0

/-- A peer's arrival with a tag (R297). -/
def fabArrive (s : State) (k dev tag : Nat) : State :=
  let g := csrF s (fabState k) 42 22 + 1
  let b := fabBar s k
  match (tag + 4 - g % 4) % 4 with
  | 0 => fabOpen 3 (setFabBar s k { b with counted := if b.counted.contains dev then b.counted else b.counted ++ [dev] }) k
  | 1 => setFabBar s k { b with held := if b.held.contains dev then b.held else b.held ++ [dev] }
  | _ => synMisuse s (fabTile s) 3 k 4

end Sys2Proof.Machine
end

