-- ==== Sys2Proof/Machine/Trace.lean ====
section
/-! DEFINITION. The waggle trace (R376, R377) and the recording of a unit's failure (R14, R280 and the engine chapters). -/

namespace Sys2Proof.Machine

/-- Append one record to the trace ring (Table 13-7). (DESIGN CHOICE; log entry 26.) -/
def tracePut (s : State) (kind tile wq level taskId arg0 arg1 : Nat) : State :=
  let cfg := csrGet s (clusterCsr 0 0x28)
  let size := 2 ^ getF cfg 2 5
  let n := (csrGet s (clusterCsr 0 0x30)).toNat
  if getF cfg 0 1 = 0 then s
  else if getF cfg 1 1 = 0 ∧ size ≤ n then { s with traceLost := s.traceLost + 1 }
  else
    let bs := leBytes 8 s.now ++
      leBytes 8 (kind + tile * 2 ^ 8 + wq % 4096 * 2 ^ 16 + level * 2 ^ 28 + taskId % 2 ^ 32 * 2 ^ 32) ++ leBytes 8 arg0 ++ leBytes 8 arg1
    let s := match (locAdd (csrGet s (clusterCsr 0 0x20)) (32 * (n % size) : Nat)).map (fun l => locTgt s l 32 true) with
      | some (.ok (.dram i o)) => chanWrite s [] i o bs false 1 none
      | _ => s
    csrAdd s (clusterCsr 0 0x30) 1

/-- Records counted while the ring was full are reported first once there is space (R377). -/
def traceLostFlush (s : State) : State :=
  let cfg := csrGet s (clusterCsr 0 0x28)
  if 0 < s.traceLost ∧ getF cfg 0 1 = 1 ∧ (getF cfg 1 1 = 1 ∨ (csrGet s (clusterCsr 0 0x30)).toNat < 2 ^ getF cfg 2 5) then
    tracePut { s with traceLost := 0 } 0x0D 0xFF 0 0 0 s.traceLost 0
  else s

/-- The kinds that sampling thins out. (DESIGN CHOICE; log entry 26.) -/
def traceSampled (kind : Nat) : Bool := [0x01, 0x04, 0x06, 0x07].contains kind

/-- A record from the dispatcher of cluster `c`: of a sampled kind only the first of every 2^SAMPLE_LOG2 is written. -/
def trace (s : State) (c kind tile wq level taskId arg0 arg1 : Nat) : State :=
  let s := traceLostFlush s
  if traceSampled kind then
    let d := dispOf s c
    let n := (assocGet d.sampled kind).getD 0
    let s := setDisp s c { d with sampled := assocPut d.sampled kind (n + 1) }
    if n % 2 ^ csrF s (clusterCsr 0 0x28) 7 5 = 0 then tracePut s kind tile wq level taskId arg0 arg1 else s
  else tracePut s kind tile wq level taskId arg0 arg1

/-- A record from the steward. -/
def traceSteward (s : State) (kind arg0 arg1 : Nat) : State := tracePut (traceLostFlush s) kind 0xFF 0 0 0 arg0 arg1

/-- The ENGERR cause becomes pending when the failed descriptor belongs to the task on the core (Table 9-4). -/
def engIrq (s : State) (t tag : Nat) : State :=
  if ((coreOf s t).task.map (·.id)) = some tag then csrSetF s (tileCsr t 0x30) 2 1 1 else s

/-- Record an engine's cause and descriptor address, unless a cause is held. -/
def engRecord (s : State) (t err valid cause desc : Nat) : State :=
  if csrF s (tileCsr t err) valid 1 = 1 then s
  else csrPut (errOnce s (tileCsr t err) valid cause) (tileCsr t (err + 8)) (BitVec.ofNat 64 desc)

/-- Record an engine's cause and descriptor address once, and report it (R14). `unit` is the block number of Table 20-2, `err` the offset of
the ERR register, `valid` its VALID bit. (DESIGN CHOICE; log entries 16, 53.) -/
def engFail (s : State) (t unit err valid cause desc tag kind : Nat) : State :=
  engIrq (raise (engRecord s t err valid cause desc) (tileSrc unit t) kind CONTAIN) t tag

end Sys2Proof.Machine
end

