-- ==== Sys2Proof/Machine/Pantry.lean ====
section
/-! DEFINITION. The pantry feature cache (chapter 12): look-ups, fills, eviction, locking, prefetch, preload, zeroed lines, invalidation. -/

namespace Sys2Proof.Machine

def panEn (s : State) (c : Nat) : Bool := csrF s (clusterCsr c 0x4000) 0 1 == 1
def panCnt (c k : Nat) : Nat := clusterCsr c (0x4040 + 8 * k)

/-- A class is cacheable in the present phase of the plan that runs on cluster `c` (R113). -/
def cacheable (s : State) (c cls : Nat) : Bool :=
  cls != 0 && match (slotOfCluster s c).bind (fun i => (planOf s i).bind (·.run)) with
    | some r => r.cacheMask.testBit cls
    | none => false

def panWays (p : Pantry) (set : Nat) : List (Nat × Line) := tabGet (fun _ => []) p.sets set
def panSetWays (p : Pantry) (set : Nat) (w : List (Nat × Line)) : Pantry :=
  { p with sets := tabSet (fun _ => []) p.sets set w }
def panEvb (p : Pantry) (slice : Nat) : List Line := tabGet (fun _ => []) p.evb slice
def panSetEvb (p : Pantry) (slice : Nat) (l : List Line) : Pantry := { p with evb := tabSet (fun _ => []) p.evb slice l }

/-- The line of a tag, from its set or its slice's eviction buffer. -/
def panLine (p : Pantry) (tag : Nat) : Option Line :=
  let set := panSet (tag * 256)
  match (panWays p set).find? (fun w => w.2.tag == tag) with
  | some w => some w.2
  | none => (panEvb p (set % 16)).find? (fun l => l.tag == tag)

/-- The sectors of line `tag` that `[g, g + len)` covers, as a mask. -/
def lineNeed (g len tag : Nat) : Nat :=
  (List.range 4).foldl (fun m k =>
    let a := tag * 256 + 64 * k
    if a < g + len ∧ g < a + 64 then m + 2 ^ k else m) 0

/-- The tags of the lines that `[g, g + len)` covers. -/
def lineTags (g len : Nat) : List Nat := (List.range ((g + max len 1 - 1) / 256 - g / 256 + 1)).map (fun i => g / 256 + i)

/-- Every sector asked for is valid in its line. -/
def panHolds (p : Pantry) (g len : Nat) : Bool :=
  (lineTags g len).all (fun tag => match panLine p tag with
    | some l => lineNeed g len tag &&& l.sectors.toNat == lineNeed g len tag
    | none => false)

/-- The bytes `[g, g + len)` as the lines hold them. -/
def panBytes (p : Pantry) (g len : Nat) : List Byte :=
  (List.range len).map (fun i => match panLine p ((g + i) / 256) with
    | some l => l.bytes.getD ((g + i) % 256) 0
    | none => 0)

/-- The least recently used way that is not locked: the last of the list. -/
def lruUnlocked (ways : List (Nat × Line)) : Option (Nat × Line) := (ways.reverse).find? (fun w => !w.2.lock)

/-- Place a line in its set as most recently used (R344); a displaced line goes to the eviction buffer of 64 (R345). -/
def panPlace (p : Pantry) (l : Line) : Pantry :=
  let set := panSet (l.tag * 256)
  let ways := panWays p set
  match (List.range 16).find? (fun w => !ways.any (fun x => x.1 == w)) with
  | some w => panSetWays p set ((w, l) :: ways)
  | none =>
    match lruUnlocked ways with
    | none => p
    | some v =>
      let p := panSetWays p set ((v.1, l) :: ways.filter (fun x => x.1 != v.1))
      panSetEvb p (set % 16) ((v.2 :: panEvb p (set % 16)).take 64)

/-- Touch the line of a tag: it becomes most recently used, coming back from the eviction buffer when it lies there. -/
def panTouch (p : Pantry) (tag : Nat) : Pantry :=
  let set := panSet (tag * 256)
  let ways := panWays p set
  match ways.find? (fun w => w.2.tag == tag) with
  | some w => panSetWays p set (w :: ways.filter (fun x => x.1 != w.1))
  | none =>
    match (panEvb p (set % 16)).find? (fun l => l.tag == tag) with
    | some l => panPlace (panSetEvb p (set % 16) ((panEvb p (set % 16)).filter (fun x => x.tag != tag))) l
    | none => p

/-- Remove the line of a tag. -/
def panRemove (p : Pantry) (tag : Nat) : Pantry :=
  let set := panSet (tag * 256)
  let p := panSetWays p set ((panWays p set).filter (fun w => w.2.tag != tag))
  panSetEvb p (set % 16) ((panEvb p (set % 16)).filter (fun l => l.tag != tag))

/-- Ledger source of the slice that holds a tag. -/
def panSource (c tag : Nat) : Nat := 0x1100 + c * 16 + panSet (tag * 256) % 16

/-- The slice of a tag is isolated (Table 20-4): its look-ups miss and nothing is allocated. -/
def sliceIso (s : State) (c tag : Nat) : Bool := s.ledger.isoSlices.contains (c, panSet (tag * 256) % 16)

/-- The pantry's check of one line (R355): a corrected error is recorded; an uncorrectable or tag error removes the line. Answers whether
the line may still be used. (DEDUCED; log entry 24.) -/
def panCheck (s : State) (c tag : Nat) : Bool × State :=
  let k := ((s.ledger.inj.find? (fun i => i.source == panSource c tag)).map (·.kind)).getD 0
  let (e, inj, s) := injected s (panSource c tag) (if tag / 2 ^ 37 = ownId s then tag * 256 % 2 ^ 45 else 0) 256 .clean
  match e with
  | .clean => (true, s)
  | .corrected => (true, raise (csrAdd s (panCnt c 6) 1) (panSource c tag) 0x10 NOTE (some (tag * 256)) inj)
  | .uncorrectable =>
    let s := raise (csrAdd s (panCnt c 6) 1) (panSource c tag) (if k = 0x12 then 0x12 else 0x11) NOTE (some (tag * 256)) inj
    (false, setPan s c (panRemove (panOf s c) tag))

def panCheckAll (s : State) (c : Nat) : List Nat → Bool × State
  | [] => (true, s)
  | t :: ts =>
    let (ok, s) := panCheck s c t
    if ok then panCheckAll s c ts else (false, s)

/-- A look-up (R343): the bytes on a hit. Nothing is looked up with EN clear or for a class that is not cacheable. -/
def panLookup (s : State) (c g len cls : Nat) : Option (List Byte) × State :=
  if panEn s c && cacheable s c cls then
    let s := csrAdd s (panCnt c 0) 1
    let p := panOf s c
    if (p.invalBusy && p.invalClasses.testBit cls) || (lineTags g len).any (sliceIso s c) || !panHolds p g len then (none, s)
    else
      let (ok, s) := panCheckAll s c (lineTags g len)
      if !ok then (none, s)
      else
        let p := panOf s c
        let bs := panBytes p g len
        let fromSets := (lineTags g len).all (fun t => (panWays p (panSet (t * 256))).any (fun w => w.2.tag == t))
        let s := csrAdd s (panCnt c (if fromSets then 1 else 2)) 1
        (some bs, setPan s c ((lineTags g len).foldl panTouch (panOf s c)))
  else (none, s)

/-- Fill sectors of one line; sectors already valid stay (R343). `bytes` are the 256 bytes of the block, of which only `mask`'s sectors
count. -/
def fillLine (l : Line) (mask : Nat) (bytes : List Byte) : Line :=
  { l with
    sectors := l.sectors ||| BitVec.ofNat 4 mask
    bytes := (List.range 256).map (fun j =>
      if mask.testBit (j / 64) && !getB l.sectors (j / 64) then bytes.getD j 0 else l.bytes.getD j 0) }

/-- Locked lines of a set. -/
def lockedIn (p : Pantry) (set : Nat) : Nat := (panWays p set).countP (fun w => w.2.lock)

/-- Install sectors of one line, allocating it when it is absent; a lock beyond 12 in the set is refused (R352). -/
def panInstallLine (s : State) (c tag cls mask : Nat) (bytes : List Byte) (lock : Bool) : State :=
  if sliceIso s c tag then s
  else
  let p := panTouch (panOf s c) tag
  let set := panSet (tag * 256)
  let old := (panWays p set).find? (fun w => w.2.tag == tag)
  let already := (old.map (·.2.lock)).getD false
  let refuse := lock && !already && decide (12 ≤ lockedIn p set)
  let s := if refuse then csrAdd s (panCnt c 5) 1 else s
  let lk := already || (lock && !refuse)
  match old with
  | some w =>
    let l := { fillLine w.2 mask bytes with lock := lk }
    setPan s c (panSetWays p set ((panWays p set).map (fun x => if x.1 = w.1 then (x.1, l) else x)))
  | none =>
    setPan s c (panPlace p { fillLine ⟨tag, cls, 0, List.replicate 256 0, false⟩ mask bytes with lock := lk })

/-- Install what a fetch of `[g, g + len)` brought: `data` are the bytes of its sectors, from the first sector's start. -/
def panInstall (s : State) (c g len cls : Nat) (data : List Byte) (lock : Bool) : State :=
  if panEn s c && cacheable s c cls then
    let base := g / 64 * 64
    (lineTags g len).foldl (fun s tag =>
      let bytes := (List.range 256).map (fun j =>
        if base ≤ tag * 256 + j then data.getD (tag * 256 + j - base) 0 else 0)
      csrAdd (panInstallLine s c tag cls (lineNeed g len tag) bytes lock) (panCnt c 3) 1) s
  else s

/-- Next-line prefetch after a miss (R350). `a` is the local address of the fetch's last line, in a local region. (DEDUCED; log entry 24.) -/
def panNextLine (s : State) (c g len : Nat) : State :=
  let last := (g + max len 1 - 1) / 256 * 256
  if g / 2 ^ 45 ≠ ownId s then s
  else match regionOf s (last % 2 ^ 45) 1 with
    | none => s
    | some i =>
      let next := last + 256
      let cls := rgnClass s i
      let p := panOf s c
      let slice := panSet next % 16
      if rgnPrefetch s i && csrF s (clusterCsr c 0x4000) 1 1 == 1 && regionOf s (next % 2 ^ 45) 256 == some i && cacheable s c cls &&
          (panLine p (next / 256)).isNone && decide ((p.fills.countP (fun f => f.slice == slice)) < 16) then
        csrAdd (setPan s c { p with fills := p.fills ++ [⟨slice, next, cls, false⟩] }) (panCnt c 4) 1
      else s

/-- Read a whole line's bytes from local memory for a fill: bytes and poison. (DEDUCED; log entry 24.) -/
def panReadLine (s : State) (c a : Nat) (e : Ecc) : Option (List Byte × Bool × State) :=
  match localTgt s a 256 false with
  | .ok (.dram i o) => some (agentReadEcc s (16 * c) (.dram i o) 256 e)
  | _ => none

/-- The oldest prefetch fill of a slice arrives (R346, R350). -/
def execPrefetchFillArrival (c : BitVec 4) (slice : BitVec 4) (ecc : Ecc) (s : State) : Res :=
  let c := c.toNat
  match (panOf s c).fills.find? (fun f => f.slice == slice.toNat) with
  | none => absent "no prefetch fill in the slice"
  | some f =>
    let s := setPan s c { panOf s c with fills := (panOf s c).fills.erase f }
    match panReadLine s c (f.addr % 2 ^ 45) ecc with
    | none => .next s
    | some (bs, psn, s) =>
      .next (if f.dropped || psn || !panEn s c || !cacheable s c f.cls then s else panInstallLine s c (f.addr / 256) f.cls 15 bs false)

/-! ### Invalidation (R354) -/

/-- Fills in flight of these classes will install nothing (R346). -/
def dropFills (s : State) (c classes : Nat) : State :=
  let p := panOf s c
  let s := setPan s c { p with
    fills := p.fills.map (fun f => { f with dropped := f.dropped || classes.testBit f.cls })
    preload := p.preload.map (fun x => { x with dropped := x.dropped || classes.testBit x.cls }) }
  (List.range 16).foldl (fun s i =>
    let t := 16 * c + i
    let f := fgrOf s t
    if f.slots.any (fun e => (e.2.map (fun x => x.install && classes.testBit x.cls)).getD false) then
      setFgr s t { f with slots := f.slots.map (fun e =>
        (e.1, e.2.map (fun x => { x with install := x.install && !classes.testBit x.cls }))) }
    else s) s

/-- Every line of the classes leaves the sets and the eviction buffers. -/
def dropLines (p : Pantry) (classes : Nat) : Pantry :=
  let keep (l : Line) : Bool := !classes.testBit l.cls
  { p with sets := p.sets.filterMap (fun e =>
             let w := e.2.filter (fun x => keep x.2)
             if w = [] then none else some (e.1, w))
           evb := p.evb.filterMap (fun e =>
             let w := e.2.filter keep
             if w = [] then none else some (e.1, w)) }

/-- Invalidate at once, with nothing left busy (the invalidations the steward waits for). -/
def panInvalNow (s : State) (c classes : Nat) : State :=
  let s := dropFills s c classes
  setPan s c (dropLines (panOf s c) classes)

/-- Clear every lock (R352). -/
def panUnlock (p : Pantry) : Pantry :=
  { p with sets := p.sets.map (fun e => (e.1, e.2.map (fun w => (w.1, { w.2 with lock := false })))) }

/-- A steward's write to PAN_INVALIDATE. -/
def panInvalidateEff (s : State) (c : Nat) (v : Word) : State :=
  let classes := if getF v 0 1 = 1 then 0xFFFF else getF v 1 15 * 2
  let s := if getF v 16 1 = 1 then setPan s c (panUnlock (panOf s c)) else s
  if classes = 0 then s
  else
    let s := panInvalNow s c classes
    setPan s c { panOf s c with invalBusy := true, invalClasses := (panOf s c).invalClasses ||| classes }

def execPanInvalidateDone (c : BitVec 4) (s : State) : Res :=
  let p := panOf s c.toNat
  if p.invalBusy then .next (setPan s c.toNat { p with invalBusy := false, invalClasses := 0 })
  else absent "no invalidation is in progress"

/-- What a steward's write does beside the fields of PAN_CTRL: clearing EN drops the fills in flight (R346, R356). -/
def panCtrlEff (s : State) (c : Nat) (old : Bool) : State := if old && !panEn s c then dropFills s c 0xFFFF else s

/-! ### Zeroed lines (R353) -/

/-- A ZERO_LINE waits for the core's earlier accesses to bytes of its block (R307, R353). -/
def panZeroWaits (s : State) (t : Nat) (l : Word) : Bool :=
  let a := rgnBase s (locIdx l) + locOff l
  (coreOf s t).accs.any (fun x => x.dev.isNone && decide (x.addr < a + 256 ∧ a < x.addr + x.size))

/-- A write to PAN_ZERO from the core of tile `t`: the TCR_ERR cause when it is refused. A line that the block has already keeps its lock
(R352): the write through the slice has zeroed its valid sectors. -/
def panZeroEff (s : State) (c t : Nat) (l : Word) : Except Nat State :=
  if locKind l ≠ 2 ∨ locRsv l ≠ 0 ∨ locOff l % 256 ≠ 0 then .error 3
  else match regionTgt s (locIdx l) (locOff l) 256 true with
    | .error .readOnly => .error 7
    | .error _ => .error 3
    | .ok g =>
      let a := tgtAddr s g
      let s := mergeWrite s c (agentOf t 0) a (List.replicate 256 0) false
      if panEn s c then
        .ok (panInstallLine s c (globalOf s a / 256) (rgnClass s (locIdx l)) 15 (List.replicate 256 0) false)
      else .ok s

/-! ### Merging buffer -/

def execMergeEntryTimeout (c : BitVec 4) (slice : BitVec 4) (time : Nat) (s : State) : Res :=
  match (panOf s c.toNat).merge.find? (fun e => e.slice == slice.toNat) with
  | none => absent "no merging-buffer entry in the slice"
  | some e => if e.since + 500 ≤ time ∧ s.now ≤ time then .next (flushEntry (atTime s time) c.toNat e) else absent "the entry is not 500 ns old"

/-! ### Preload (R351) -/

/-- A preload starts: the lines of a local region are read when it completes, those of a peer are asked for at once. The class of a peer's
lines is not in the command: a free value. -/
def panPreloadStart (s : State) (c : Nat) (l : Word) (lines : Nat) (lock : Bool) : State :=
  match locTgt s l 1 false with
  | .ok (.dram i o) => setPan s c { panOf s c with preload := some ⟨globalOf s (rgnBase s i + o), lines, lock, rgnClass s i, false⟩ }
  | .ok (.peer d a) =>
    let (w, s) := freshFree s
    let cls := w.toNat % 16
    let s := setPan s c { panOf s c with preload := some ⟨d * 2 ^ 45 + a, lines, lock, cls, false⟩ }
    (List.range lines).foldl (fun s k =>
      (sendReq s kREAD d (a + 256 * k) 256 [] false false (.preload c (d * 2 ^ 45 + a + 256 * k) lock)).getD s) s
  | _ => s

/-- A steward's write to PAN_PRELOAD_CMD. -/
def panPreloadEff (s : State) (c : Nat) (v : Word) : State :=
  let n := getF v 0 24
  if n = 0 ∨ 65536 < n ∨ (panOf s c).preload.isSome then s
  else panPreloadStart s c (csrGet s (clusterCsr c 0x4020)) n (getF v 24 1 == 1)

/-- One line of a preload arrives. (DEDUCED; log entry 24.) -/
def preloadLine (s : State) (c g cls : Nat) (bs : List Byte) (psn lock dropped : Bool) : State :=
  if dropped || psn || !panEn s c || !cacheable s c cls then s else panInstallLine s c (g / 256) cls 15 bs lock

/-- The preload of a cluster finishes: the lines of a local region are read and installed; `none` while it waits for a peer.
(DEDUCED; log entry 24.) -/
def preloadFinish (s : State) (c : Nat) : Option State :=
  match (panOf s c).preload with
  | none => none
  | some x =>
    if s.reqs.any (fun r => match r.cont with
        | .preload c' _ _ => c' == c
        | _ => false) then none
    else
      let s := if x.addr / 2 ^ 45 = ownId s then
          (List.range x.lines).foldl (fun s k => match panReadLine s c (x.addr % 2 ^ 45 + 256 * k) .clean with
            | some (bs, psn, s) => preloadLine s c (x.addr + 256 * k) x.cls bs psn x.lock x.dropped
            | none => s) s
        else s
      some (setPan s c { panOf s c with preload := none })

/-- PAN_STATUS as it reads now (Table 12-2). -/
def panStatus (s : State) (c : Nat) : Word :=
  let p := panOf s c
  let locked := p.sets.foldl (fun n e => n + e.2.countP (fun w => w.2.lock)) 0
  BitVec.ofNat 64 (bit p.invalBusy + 2 * bit p.preload.isSome + locked % 2 ^ 16 * 4 + p.merge.length % 2 ^ 10 * 2 ^ 18)

end Sys2Proof.Machine
end

