-- ==== Sys2Proof/Machine/Struct.lean ====
section
/-! DEFINITION. Reading the structures that descriptors name, and tensor descriptors (R102–R105, R132–R137). A read of a peer's bytes that
have not been fetched stops the decode with `need`; the decode runs again, from the state before it, when they have come. -/

namespace Sys2Proof.Machine

/-- Why a decode stops: with a cause of the engine's ERR register, or for bytes of a peer. -/
inductive Stop where
  | fail (cause : Nat)
  | need (d a n : Nat)
  deriving DecidableEq, Repr

/-- A decode: it answers a value or stops, and may count and note in the state, whatever it answers. -/
abbrev Dec (α : Type) := ExceptT Stop (StateM State) α

/-- Run a decode. -/
def drun {α : Type} (x : Dec α) (s : State) : Except Stop α × State := x.run s

def dfail {α : Type} (cause : Nat) : Dec α := throw (.fail cause)
def dneed {α : Type} (d a n : Nat) : Dec α := throw (.need d a n)
def dcheck (b : Bool) (cause : Nat) : Dec Unit := if b then pure () else dfail cause
/-- Use the state. -/
def dget : Dec State := ExceptT.mk (fun s => (.ok s, s))
def dmod (f : State → State) : Dec Unit := ExceptT.mk (fun s => (.ok (), f s))
/-- A step of the state that yields a value. -/
def dstep {α : Type} (f : State → α × State) : Dec α := ExceptT.mk (fun s => let r := f s; (.ok r.1, r.2))

/-- Run `x`; where it fails (not where it needs bytes) answer `f cause` instead. -/
def dcatch {α : Type} (x : Dec α) (f : Nat → α) : Dec α := ExceptT.mk (fun s =>
  match drun x s with
  | (.error (.fail c), s) => (.ok (f c), s)
  | r => r)

/-- Who decodes: the tile, the peer bytes at hand, and the cause of each kind of refused access. -/
structure Env where
  t : Nat
  cache : List Cached
  cz : AccErr → Nat

/-- The peer bytes `[a, a + n)` of device `d`, asked for in pieces of 2 KiB, with a poison mark for each byte. -/
def dpeer (e : Env) (d : Nat) : Nat → Nat → Nat → Dec (List Byte × List Bool)
  | 0, _, _ => pure ([], [])
  | f + 1, a, n =>
    if n = 0 then pure ([], [])
    else
      let k := min n 2048
      match e.cache.find? (fun x => x.g == d * 2 ^ 45 + a && x.len == k) with
      | none => dneed d a k
      | some x => do
        let r ← dpeer e d f (a + k) (n - k)
        pure (x.bytes ++ r.1, List.replicate k x.psn ++ r.2)

/-- Where a locator's `n` bytes lie, checked (R136). (DEDUCED; log entry 17.) -/
def dtgt (e : Env) (l : Word) (n : Nat) (write : Bool) : Dec Tgt := do
  let s ← dget
  match locTgt s l n write with
  | .error x => dfail (e.cz x)
  | .ok g => pure g

/-- Where `n` bytes lie that must be inside one region or one scratchpad, or at a peer: a reserved part of a tile SRAM window is neither (R131, R136). -/
def dspanTgt (e : Env) (l : Word) (n : Nat) (write : Bool) : Dec Tgt := do
  match ← dtgt e l n write with
  | .hole _ => dfail (e.cz .span)
  | g => pure g

/-- The locator `off` bytes further. -/
def dadd (e : Env) (l : Word) (off : Int) : Dec Word :=
  match locAdd l off with
  | some l => pure l
  | none => dfail (e.cz .fault)

/-- Read `n` bytes `off` bytes from a locator, with a poison mark for each byte. A structure that passes the end of its region is a region-table miss
(R105). (DEDUCED; log entry 15.) -/
def dreadMarks (e : Env) (l : Word) (off n : Nat) : Dec (List Byte × List Bool) :=
  if n = 0 then pure ([], [])
  else do
    let l ← dadd e l off
    match ← dtgt { e with cz := fun x => e.cz (if x = .span then .miss else x) } l n false with
    | .peer d a => dpeer e d (n / 2048 + 1) a n
    | g => dstep (fun s => let r := agentReadMarks s e.t g n .clean; ((r.1, r.2.1), r.2.2))

/-- The same with one poison mark for the whole read. -/
def dread (e : Env) (l : Word) (off n : Nat) : Dec (List Byte × Bool) := do
  let r ← dreadMarks e l off n
  pure (r.1, r.2.any (·))

def dnat (e : Env) (l : Word) (off n : Nat) : Dec Nat := do
  let r ← dread e l off n
  pure (ofLE r.1)

/-- Whether a locator's offset is a multiple of `k` within the structure that holds it (R135). -/
def locAligned (l : Word) (k : Nat) : Bool :=
  let a := locLocal l
  if locKind l = 2 then locOff l % k == 0
  else if sramBase ≤ a ∧ a < sramTop then (a - sramBase) % 0x800000 % k == 0
  else a % k == 0

/-- A 64-byte structure at a 64-byte-aligned locator (R578); `cause` when it is misaligned. -/
def ddesc (e : Env) (l : Word) (cause : Nat) : Dec Desc := do
  dcheck (locAligned l 64) cause
  let r ← dread e l 0 64
  pure (BitVec.ofNat 512 (ofLE r.1))

/-! ### Tensor descriptors -/

def tBase (d : Desc) : Word := BitVec.ofNat 64 (getF d 0 64)
def tFmt (d : Desc) : Nat := getF d 64 4
def tDims (d : Desc) : Nat := getF d 68 3
def tId (d : Desc) : Nat := getF d 72 40
def tScale (d : Desc) : Word := BitVec.ofNat 64 (getF d 128 64)
def tSize (d : Desc) (k : Nat) : Nat := getF d (192 + 32 * k) 32
/-- Size of a dimension, 1 at and above NDIM. -/
def tExt (d : Desc) (k : Nat) : Nat := if k < tDims d then tSize d k else 1
/-- Byte stride of dimension `k`, 1 to 4. -/
def tStride (d : Desc) (k : Nat) : Int := if k = 0 then 0 else toSigned 40 (getF d (352 + 40 * (k - 1)) 40)

/-- Bytes of an MX block of 32 elements. -/
def mxBytes (fmt : Nat) : Nat := 4 * fmtBits fmt

/-- Bytes of dimension 0. -/
def tRowBytes (d : Desc) : Nat :=
  if isMX (tFmt d) then tSize d 0 / 32 * mxBytes (tFmt d) else rowBytes (tFmt d) (tSize d 0)

/-- Table 4-7, R133 and R135; the base's kind is checked where it is accessed. -/
def tLegal (d : Desc) : Bool :=
  let f := tFmt d
  let unit := if isMX f then mxBytes f else if isRowCode f then 1 else fmtBits f / 8
  decide (1 ≤ tDims d ∧ tDims d ≤ 5) && f != 0xF && !getB d 71 && getF d 112 16 == 0 &&
  (List.range 5).all (fun k => if k < tDims d then tSize d k != 0 else tSize d k == 0 && tStride d k == 0) &&
  (if isMX f then tSize d 0 % 32 == 0 && locKind (tScale d) != 0 && locRsv (tScale d) == 0 else tScale d == 0) &&
  (isRowCode f || (locAligned (tBase d) unit && (List.range 5).all (fun k => decide (tStride d k % (unit : Int) = 0))))

/-- Elements of the tensor. -/
def tCount (d : Desc) : Nat := tExt d 0 * tExt d 1 * tExt d 2 * tExt d 3 * tExt d 4

/-- Indices of the element with linear index `n` (R134). -/
def tIndex (d : Desc) (n : Nat) : List Nat :=
  let i0 := n % tExt d 0
  let n := n / tExt d 0
  let i1 := n % tExt d 1
  let n := n / tExt d 1
  let i2 := n % tExt d 2
  let n := n / tExt d 2
  [i0, i1, i2, n % tExt d 3, n / tExt d 3]

/-- Byte offset, from BASE, of the row (dimension 0) with these upper indices. -/
def tRowOff (d : Desc) (ix : List Nat) : Int :=
  (ix.getD 1 0) * tStride d 1 + (ix.getD 2 0) * tStride d 2 + (ix.getD 3 0) * tStride d 3 + (ix.getD 4 0) * tStride d 4

/-- Lowest offset and number of bytes that the tensor spans (R136). -/
def tSpan (d : Desc) : Int × Nat :=
  let ds := [1, 2, 3, 4].map (fun k => ((tExt d k : Int) - 1) * tStride d k)
  let lo := ds.foldl (fun a x => a + min x 0) 0
  let hi := ds.foldl (fun a x => a + max x 0) ((tRowBytes d : Int) - 1)
  (lo, (hi - lo + 1).toNat)

/-- Number of MX blocks. -/
def tBlocks (d : Desc) : Nat := tCount d / 32

/-- Check a tensor's span, and the span of its scales, in one region or one scratchpad; `none` when it lies at a peer. Answers where its
lowest byte is and the offset of BASE from it. -/
def dspan (e : Env) (d : Desc) (write : Bool) : Dec Tgt := do
  let sp := tSpan d
  let l ← dadd e (tBase d) sp.1
  let g ← dspanTgt e l sp.2 write
  if isMX (tFmt d) then
    let _ ← dspanTgt e (tScale d) (tBlocks d) write
    pure g
  else pure g

/-- Row `ix` of a tensor at local target base: bytes and the poison of any byte. Local tensors only. -/
def tRowAt (s : State) (d : Desc) (ix : List Nat) : Option (Nat × Tgt) :=
  match (locAdd (tBase d) (tRowOff d ix)).map (fun l => locTgt s l (tRowBytes d) false) with
  | some (.ok g) => some (tgtAddr s g, g)
  | _ => none

/-- The six-, four- or eight-bit code of element `j` of a packed MX block. -/
def mxCode (fmt : Nat) (block : List Byte) (j : Nat) : Nat := ofLE block / 2 ^ (fmtBits fmt * j) % 2 ^ fmtBits fmt

/-- The value and poison mark of element `ix` of a tensor held locally, read without counting. -/
def tElem (s : State) (d : Desc) (ix : List Nat) : Num × Bool :=
  match tRowAt s d ix with
  | none => (.nan, false)
  | some (a, _) =>
    let f := tFmt d
    let i0 := ix.getD 0 0
    if isMX f then
      let k := i0 / 32
      let m := mxBytes f
      let lin := k + tExt d 0 / 32 * (ix.getD 1 0 + tExt d 1 * (ix.getD 2 0 + tExt d 2 * (ix.getD 3 0 + tExt d 3 * ix.getD 4 0)))
      match (locAdd (tScale d) (lin : Int)).map (fun l => locTgt s l 1 false) with
      | some (.ok g) =>
        let sa := tgtAddr s g
        (decodeMX f (mxCode f (memBytes s (a + k * m) m) (i0 % 32)) (memNat s sa 1), psnIn s (a + k * m) m || psnAt s sa)
      | _ => (.nan, false)
    else if isRowCode f then
      let n := tRowBytes d
      let at_ := if f = 0xD then 4 + i0 else 4 + i0 / 2
      (rowCodeElem f (memBytes s a n) i0, psnAt s a || psnAt s (a + 3) || psnAt s (a + at_))
    else
      let b := fmtBits f / 8
      (decodeElem f (memNat s (a + i0 * b) b), psnIn s (a + i0 * b) b)

/-- A counts record of Table 5-3 layout is legal: null, or a 64-byte-aligned locator of a WRITABLE DRAM region's 64 bytes. (DEDUCED; log entry 17.) -/
def dstats (e : Env) (l : Word) (rsv : Nat) : Dec Unit :=
  if l = 0 then pure ()
  else do
    dcheck (locKind l != 0 && locAligned l 64) rsv
    match ← dtgt e l 64 true with
    | .spad _ => dfail (e.cz .fault)
    | .hole _ => dfail (e.cz .fault)
    | _ => pure ()

end Sys2Proof.Machine
end

