-- ==== Sys2Proof/Machine/Tables.lean ====
section
/-! DEFINITION. Feature and embedding tables (chapter 14, R144–R148): descriptors, version slots, the redirect table, shard and row-format
maps, and the resolution of a row. -/

namespace Sys2Proof.Machine

def tdId (d : Desc) : Nat := getF d 0 24
def tdClass (d : Desc) : Nat := getF d 24 4
/-- POLICY: true for DEFAULT. -/
def tdDefault (d : Desc) : Bool := getB d 28
def tdWritable (d : Desc) : Bool := getB d 29
def tdMixed (d : Desc) : Bool := getB d 30
def tdFmt (d : Desc) : Nat := getF d 32 4
def tdElems (d : Desc) : Nat := getF d 36 12 + 1
def tdVslot (d : Desc) : Nat := getF d 48 13
def tdRows (d : Desc) : Nat := getF d 64 40
def tdDefaultRow (d : Desc) : Nat := getF d 104 40
def tdShardMap (d : Desc) : Word := BitVec.ofNat 64 (getF d 192 64)
def tdFmtMap (d : Desc) : Word := BitVec.ofNat 64 (getF d 256 64)
/-- Row stride of a form, in bytes. -/
def tdStride (d : Desc) (f : Nat) : Nat := getF d (320 + 12 * f) 12 * 8
/-- Row format of a form (R380). -/
def tdFormFmt (d : Desc) (f : Nat) : Nat :=
  if !tdMixed d then tdFmt d else if f = 0 then 0x1 else if f = 1 then (if getB d 31 then 0x4 else 0x3) else 0xE
/-- Row formats a look-up may deliver. -/
def tdFmts (d : Desc) : List Nat := if tdMixed d then [tdFormFmt d 0, tdFormFmt d 1, tdFormFmt d 2] else [tdFmt d]
/-- Row length of a form. -/
def tdRowLen (d : Desc) (f : Nat) : Nat := rowBytes (tdFormFmt d f) (tdElems d)

/-- R127: a legal row stride for a row of `len` bytes. -/
def strideLegal (st len : Nat) : Bool :=
  ([8, 16, 32, 64, 128].contains st || (st != 0 && st % 256 == 0)) && decide (len ≤ st)

/-- Table 14-1 and R380. -/
def tdLegal (d : Desc) : Bool :=
  let k (l : Word) : Bool := (locKind l == 1 || locKind l == 2) && locRsv l == 0
  tdId d != 0 && getF d 61 3 == 0 && getF d 144 48 == 0 && getF d 356 156 == 0 &&
  (tdMixed d || !getB d 31) &&
  (if tdMixed d then tdFmt d == 0 else [0, 1, 2, 3, 4, 5, 6, 7, 0xD, 0xE].contains (tdFmt d)) &&
  tdRows d != 0 && (if tdDefault d then decide (tdDefaultRow d < tdRows d) else tdDefaultRow d == 0) &&
  k (tdShardMap d) && (if tdMixed d then k (tdFmtMap d) else tdFmtMap d == 0) &&
  strideLegal (tdStride d 0) (tdRowLen d 0) &&
  (if tdMixed d then strideLegal (tdStride d 1) (tdRowLen d 1) && strideLegal (tdStride d 2) (tdRowLen d 2)
   else tdStride d 1 == 0 && tdStride d 2 == 0)

/-! ### Version slots (R385) -/

def tblVer (v : Nat) : Nat := stwCsr (0x60000 + 8 * v)
def tblCnt (k : Nat) : Nat := stwCsr (0x40040 + 8 * k)
/-- Slot `v` is LIVE with table `id`. -/
def verLive (s : State) (v id : Nat) : Bool := csrF s (tblVer v) 0 2 == 1 && csrF s (tblVer v) 2 24 == id

/-- Read a table descriptor and check it (R379, R380). -/
def dtable (e : Env) (l : Word) (rsv : Nat) : Dec Desc := do
  let d ← ddesc e l rsv
  dcheck (tdLegal d) rsv
  pure d

/-- Bind the version of a table descriptor as read, when its slot is LIVE with its ID: REFS counts the binding (R385). -/
def bindVer (s : State) (d : Desc) : Option State :=
  if verLive s (tdVslot d) (tdId d) then
    some (csrAdd (csrSetF s (tblVer (tdVslot d)) 26 32 (csrF s (tblVer (tdVslot d)) 26 32 + 1)) (tblCnt 0) 1)
  else none

/-- The redirect entries that meet `p` go. The presence filters keep their bits until the next swap (R389), and the space of this module's
replicas waits for the next phase barrier of every running plan (R390). (DESIGN CHOICE; log entry 28.) -/
def rdrDrop (s : State) (p : (Nat × Nat) × Redir → Bool) : State :=
  let out := s.redirect.filter p
  { s with
    redirect := s.redirect.filter (fun e => !p e)
    rdrStale := s.rdrStale ++ out.map (·.1)
    freed := s.freed ++ (out.filter (fun e => e.2.dev == ownId s && e.2.kind != 2)).map (fun e => (e.2.addr, activeSlots s)) }

/-- FREE a RETIRING slot whose last binding is released: its redirect entries go, and VERSION_FREE is due (Table 14-4 step 4). Answers the
TABLE_ID freed. -/
def verRelease (s : State) (v : Nat) : Option Nat × State :=
  let n := csrF s (tblVer v) 26 32
  let s := csrSetF s (tblVer v) 26 32 (n - 1)
  if csrF s (tblVer v) 0 2 = 2 ∧ n ≤ 1 then
    let id := csrF s (tblVer v) 2 24
    (some id, rdrDrop (csrPut s (tblVer v) 0) (fun e => e.1.1 == id))
  else (none, s)

/-! ### The redirect table (R389) -/

def rdrGet (s : State) (id row : Nat) : Option Redir := (s.redirect.find? (fun e => e.1 == (id, row))).map (·.2)

/-- The set of a key. -/
def rdrSet (id row : Nat) : Nat := Config.redirectHash id row % 131072

/-- Insert a key: it replaces its own entry, or takes a free way of its set of 4. (DESIGN CHOICE; log entry 28.) -/
def rdrInsert (s : State) (id row : Nat) (r : Redir) : Option State :=
  let rest := s.redirect.filter (fun e => e.1 != (id, row))
  if (rest.countP (fun e => rdrSet e.1.1 e.1.2 == rdrSet id row)) < 4 then
    some { s with redirect := rest ++ [((id, row), r)] }
  else none

def rdrRemove (s : State) (id row : Nat) : State := rdrDrop s (fun e => e.1 == (id, row))

/-- The presence filter of a cluster answers for a key: its bit is that of a key in the table, or of one removed since the last swap (R389). Every
cluster's filter holds the same bits. -/
def rdrPresent (s : State) (id row : Nat) : Bool :=
  (s.redirect.map (·.1) ++ s.rdrStale).any (fun k => k == (id, row) || Config.filterHash k.1 k.2 % 2 ^ 20 == Config.filterHash id row % 2 ^ 20)

/-- A forager's consultation: only when its cluster's presence filter answers for the key. (DESIGN CHOICE; log entry 28.) -/
def rdrConsult (s : State) (id row : Nat) : Option Redir × State :=
  match rdrGet s id row with
  | some r =>
    let s := csrAdd s (tblCnt 2) 1
    (some r, { s with redirect := s.redirect.map (fun e => if e.1 = (id, row) then (e.1, { e.2 with hits := e.2.hits + 1 }) else e) })
  | none =>
    if rdrPresent s id row then (none, csrAdd (csrAdd s (tblCnt 2) 1) (tblCnt 3) 1) else (none, s)

/-! ### Shard look-ups (Table 13-5, R370, R390) -/

/-- Count one look-up in the cluster's shard table of 1,024 entries; one look-up in 256 of an entry records its row, up to 8 rows. -/
def countShard (s : State) (c id row : Nat) : State :=
  let d := dispOf s c
  let key := (id, row / 65536)
  match d.shards.find? (fun e => e.1 == key) with
  | some e =>
    let n := e.2 + 1
    let room := decide ((d.rows.countP (fun r => r.1 == id && r.2 / 65536 == row / 65536)) < 8)
    setDisp s c { d with shards := d.shards.map (fun x => if x.1 = key then (key, n) else x)
                         rows := if n % 256 = 0 && room then d.rows ++ [(id, row)] else d.rows }
  | none =>
    if d.shards.length < 1024 then setDisp s c { d with shards := d.shards ++ [(key, 1)] }
    else setDisp s c { d with shardOver := d.shardOver + 1 }

/-! ### Locating a row (R381, R383, R384) -/

/-- The number of positions below `j` in a format block with form `f`. -/
def formsBefore (form : Nat) (f j : Nat) : Nat := (List.range j).countP (fun k => form / 4 ^ k % 4 == f)

/-- The form of a row of a mixed table, with its format block (R383, R384). -/
def dform (e : Env) (d : Desc) (r : Nat) (corrupt : Nat) : Dec (Nat × BitVec 256) := do
  let b := BitVec.ofNat 256 (ofLE (← dread e (tdFmtMap d) (32 * (r / 64)) 32).1)
  dcheck (getF b 176 80 == 0 && getF b (2 * (r % 64)) 2 != 3) corrupt
  pure (getF b (2 * (r % 64)) 2, b)

/-- Home device, local address there, and form of a row. -/
def dlocate (e : Env) (d : Desc) (r : Nat) (corrupt : Nat) : Dec (Nat × Nat × Nat) := do
  let sh := BitVec.ofNat 256 (ofLE (← dread e (tdShardMap d) (32 * (r / 65536)) 32).1)
  dcheck (getF sh 11 53 == 0 && getF sh 109 19 == 0 && getF sh 173 19 == 0 && getF sh 237 19 == 0) corrupt
  let (f, k) ← if !tdMixed d then pure (0, r % 65536) else do
    let (f, b) ← dform e d r corrupt
    pure (f, getF b (128 + 16 * f) 16 + formsBefore (getF b 0 128) f (r % 64))
  let base := getF sh (64 * (f + 1)) 45
  dcheck (base % 256 == 0) corrupt
  let a := base + k * tdStride d f
  dcheck (decide (a + tdRowLen d f ≤ 2 ^ 45)) corrupt
  pure (getF sh 0 11, a, f)

/-- The pieces a row of `len` bytes at global address `g` is fetched in (R147). -/
def rowPieces : Nat → Nat → Nat → List (Nat × Nat)
  | 0, _, _ => []
  | f + 1, g, len => if len = 0 then [] else (g, min len 2048) :: rowPieces f (g + min len 2048) (len - min len 2048)

/-- A row as resolved: global address, form; whether it was served by default. -/
structure Found where
  g : Nat
  form : Nat
  defaulted : Bool
  deriving DecidableEq, Repr

/-- Resolve a row number (R145); `none` for a dropped index. `reads` is false for operations that never take the default row. -/
def dresolve (e : Env) (d : Desc) (ix : Nat) (bad : Bool) (reads : Bool) (corrupt : Nat) : Dec (Option Found) := do
  let out := bad || decide (tdRows d ≤ ix)
  if out && !(reads && tdDefault d) then pure none
  else do
    let r := if out then tdDefaultRow d else ix
    match ← dstep (fun s => rdrConsult (countShard s (e.t / 16) (tdId d) r) (tdId d) r) with
    | some x => do
      dmod (fun s => csrAdd s (tileCsr e.t 0x2060) 1)
      let f ← if tdMixed d then (do let f ← dform e d r corrupt; pure f.1) else pure 0
      pure (some ⟨x.dev * 2 ^ 45 + x.addr, f, out⟩)
    | none => do
      let home ← dlocate e d r corrupt
      pure (some ⟨home.1 * 2 ^ 45 + home.2.1, home.2.2, out⟩)

/-- The row as its fetches. -/
def foundRow (d : Desc) (x : Found) : Row := ⟨rowPieces 9 x.g (tdRowLen d x.form), tdClass d⟩

/-- TBL_STATUS as it reads now (Table 14-6). A tick installs a rebuilt filter at once, so FILTER_SWAP reads 0. (DESIGN CHOICE; log entry 28.) -/
def tblStatus (s : State) : Word :=
  let live := s.csr.countP (fun e => inArray e.1 (stwCsr 0x60000) 8 8192 && getF e.2 0 2 == 1)
  BitVec.ofNat 64 (s.redirect.length % 2 ^ 20 + (s.redirect.countP (fun e => e.2.kind == 3)) % 2 ^ 20 * 2 ^ 20 + live % 2 ^ 14 * 2 ^ 40 +
    bit (s.moveFrom != []) * 2 ^ 54)

/-! ### The redirect access registers (Table 14-7) -/

def rdrKey (s : State) : Nat × Nat := (csrF s (stwCsr 0x40010) 0 24, csrF s (stwCsr 0x40010) 24 40)

/-- A steward's write of TBL_RDR_CMD with this OP; the reserved one does nothing. -/
def rdrCmd (s : State) (op : Nat) : State :=
  let key := rdrKey s
  let fin (s : State) (ok : Bool) : State := csrPut s (stwCsr 0x40020) (BitVec.ofNat 64 (4 + 8 * bit ok))
  match op with
  | 0 => match rdrGet s key.1 key.2 with
    | some r => fin (csrPut s (stwCsr 0x40018) (BitVec.ofNat 64 (r.addr + r.dev * 2 ^ 45 + r.kind * 2 ^ 56))) true
    | none => fin (csrPut s (stwCsr 0x40018) 0) false
  | 1 =>
    let v := csrGet s (stwCsr 0x40018)
    match rdrInsert s key.1 key.2 ⟨getF v 56 2, getF v 45 11, getF v 0 45, 0, 0⟩ with
    | some s => fin s true
    | none => fin s false
  | 2 => fin (rdrRemove s key.1 key.2) (rdrGet s key.1 key.2).isSome
  | _ => s

/-- The steward's redirect operations, given while it runs. -/
def rdrStep (s : State) (op : Nat) : Res := if s.boot = 0 then .next (rdrCmd s op) else absent "the steward is not running"

def execTblRdrLookup (s : State) : Res := rdrStep s 0
def execTblRdrInsert (s : State) : Res := rdrStep s 1
def execTblRdrRemove (s : State) : Res := rdrStep s 2

end Sys2Proof.Machine
end

