-- ==== Sys2Proof/Machine/CombUnit.lean ====
section
/-! DEFINITION. The comb unit (chapter 6): aggregation descriptors, destinations and credits, terms, finalisation, partials and merge
contexts. -/

namespace Sys2Proof.Machine

/-! ### Aggregation descriptors (R184, R185, Tables 6-1 and 6-2) -/

def aggOf (d : Desc) : Agg :=
  { pool := getF d 0 3, cls := getF d 3 2, norm := getB d 5, wsrc := getF d 6 2, conv := getF d 16 16, elems := getF d 32 12 + 1,
    heads := getF d 44 4 + 1, part := getB d 48, sigEn := getB d 49, outSem := getF d 240 12, block := getF d 256 16, out := 0,
    ownList := BitVec.ofNat 64 (getF d 128 64), origin := getF d 192 40, spanLog2 := getF d 232 6 }

/-- Pooling kinds that keep a denominator per head. -/
def aggDen (a : Agg) : Bool := a.pool == 5 || (a.pool == 4 && a.norm)

/-- Accumulators of one destination, denominators included. -/
def aggTotal (a : Agg) : Nat := a.elems + (if aggDen a then a.heads else 0)

/-- Words of one destination's credit (R191). (DESIGN CHOICE; log entry 18.) -/
def creditWords (a : Agg) : Nat := ceilDiv (aggTotal a * clsBytes a.cls) 8

/-- Table 6-1 and Table 6-2, with R204 (`deny`) and R579. -/
def aggLegal (d : Desc) (deny : Bool) : Bool :=
  let a := aggOf d
  getF d 8 8 == 0 && getF d 50 14 == 0 && getF d 238 2 == 0 && getF d 252 4 == 0 && getF d 272 240 == 0 &&
  decide (a.pool ≤ 5) && (!a.norm || a.pool == 4) &&
  (a.wsrc != 2 || a.heads == 1) && (if a.pool = 4 then decide (a.wsrc ≤ 2) else if a.pool = 5 then decide (a.wsrc ≤ 1) else a.wsrc == 3) &&
  (if a.pool = 2 ∨ a.pool = 3 then a.cls != 3 else if a.pool = 5 then a.cls == 2 else true) &&
  cwLegal a.conv && [0, 1, 2, 3, 4, 7].contains (cwFmt a.conv) && decide (a.elems % a.heads = 0) &&
  (if a.part then getF d 64 64 == 0 && a.ownList != 0 else getF d 64 64 != 0 && a.ownList == 0) &&
  decide (a.spanLog2 ≤ 40) && (!a.sigEn || (decide (a.outSem < 256) && a.block != 0)) && !(deny && a.cls == 3)

/-- Formats of a value term that a class accepts (Table 3-10). -/
def valueOk (cls f : Nat) : Bool :=
  if cls = 0 then [3, 4, 5, 6].contains f else [0, 1, 2, 3, 4, 5, 6, 0xD, 0xE].contains f

/-- Formats of a product term that a class accepts. -/
def productOk (cls x w : Nat) : Bool :=
  let fp8 (f : Nat) : Bool := f == 3 || f == 4
  let half (f : Nat) : Bool := f == 1 || f == 2
  let any (f : Nat) : Bool := [0, 1, 2, 3, 4, 5, 6].contains f
  if cls = 0 then fp8 x && fp8 w
  else if cls = 1 then (fp8 x && fp8 w) || (half x && fp8 w) || (fp8 x && half w)
  else any x && any w

/-- R90 for one row format under an aggregation whose weights have format `w`. LOOSE accepts what C640 does. -/
def termOk (a : Agg) (x w : Nat) : Bool :=
  let cls := if a.cls = 3 then 2 else a.cls
  if a.pool = 4 then productOk cls x w else if a.pool = 5 then productOk 2 x 0 else valueOk cls x

/-- Read an aggregation descriptor and its output tensor descriptor; `rsv` and `span` are the causes of a reserved encoding and of an output
outside one region or scratchpad. `n` row positions will be written. -/
def dagg (e : Env) (l : Word) (n rsv span : Nat) : Dec Agg := do
  let d ← ddesc e l rsv
  let s ← dget
  dcheck (aggLegal d (csrF s (tileCsr e.t 0x3000) 1 1 == 1)) rsv
  let a := aggOf d
  if a.part then do
    dcheck (locKind a.ownList != 0 && locRsv a.ownList == 0 && locAligned a.ownList 4) rsv
    pure a
  else do
    let o ← ddesc e (BitVec.ofNat 64 (getF d 64 64)) rsv
    dcheck (tLegal o && tFmt o == cwFmt a.conv && tSize o 0 == a.elems && decide (n ≤ tExt o 1)) rsv
    let _ ← dspan { e with cz := fun x => if x = .reserved then rsv else span } o true
    pure { a with out := o }

/-- The `n` bytes `off` bytes from a locator lie in the region or scratchpad that the locator itself names (R196). -/
def sameHome (s : State) (l : Word) (off n : Nat) : Bool :=
  match locTgt s l n false, (locAdd l off).map (fun l => locTgt s l n false) with
  | .ok (.dram i _), some (.ok (.dram j _)) => i == j
  | .ok (.spad a), some (.ok (.spad b)) => (a - sramBase) / 0x800000 == (b - sramBase) / 0x800000
  | .ok (.peer _ _), some (.ok (.peer _ _)) => true
  | _, _ => false

/-- Owner of destination `id` (R196): device, tile, context; `none` where its entry cannot be used. -/
def downer (e : Env) (a : Agg) (id : Nat) : Dec (Option (Nat × Nat × Nat)) := do
  let s ← dget
  let q := (id - a.origin) / 2 ^ a.spanLog2
  if id < a.origin ∨ !sameHome s a.ownList (4 * q) 4 then pure none
  else do
    let v ← dcatch (do let v ← dnat e a.ownList (4 * q) 4; pure (some v)) (fun _ => none)
    pure (v.bind (fun v => if v / 2 ^ 23 = 0 then some (v % 2 ^ 11, v / 2 ^ 11 % 2 ^ 8, v / 2 ^ 19 % 16) else none))

/-! ### The comb store (R191–R193) -/

def cmbWords (s : State) (t : Nat) : Nat := (cmbOf s t).dests.foldl (fun n d => n + d.words) 0

/-- Destinations that an open merge context holds or is to open. -/
def ctxLeft (x : Ctx) : Nat := x.ids.length - x.closed.length
/-- Words and records that open merge contexts reserve (R193). -/
def ctxWords (s : State) (t : Nat) : Nat := (cmbOf s t).ctxs.foldl (fun n x => n + ctxLeft x * creditWords x.agg) 0
def ctxRecs (s : State) (t : Nat) : Nat := (cmbOf s t).ctxs.foldl (fun n x => n + ctxLeft x) 0

/-- Enough words and a record are free; for a request behind the oldest one, beside what is reserved for that (R192). -/
def cmbFits (s : State) (t words : Nat) (oldest : Bool) : Bool :=
  let c := cmbOf s t
  let r := if oldest then (0, 0) else (c.resWords, c.resRecs)
  decide (cmbWords s t + r.1 + words ≤ 262144 ∧ c.dests.length + r.2 < 4096)

/-- The lowest place of `n` contiguous free words. (DESIGN CHOICE; log entry 18.) -/
def cmbPlace (s : State) (t n : Nat) : Option Nat := firstFit ((cmbOf s t).dests.map (fun d => (d.base, d.base + d.words))) n 262144

/-- Move the open accumulators together, in the order in which they were opened; no value changes. (DESIGN CHOICE; log entry 18.) -/
def cmbPack : Nat → List Dest → List Dest
  | _, [] => []
  | b, d :: ds => { d with base := b } :: cmbPack (b + d.words) ds

/-- Open a destination at `base` (R160, R187). -/
def openDest (s : State) (t owner id pos base : Nat) (a : Agg) : State :=
  let c := cmbOf s t
  setCmb s t { c with dests := c.dests ++ [{
    owner := owner, id := id, pos := pos, acc := List.replicate a.elems (accOpen a.pool a.cls),
    den := List.replicate (if aggDen a then a.heads else 0) (accOpen 0 a.cls), terms := 0, wide := 0, parts := 0, loosePsn := false,
    left := 0, allKnown := false, words := creditWords a, base := base }] }

/-- The place a new request gets at once: its words are free in one piece, and none of them is reserved for an older request.
(DEDUCED; log entry 18.) -/
def creditNow (s : State) (t : Nat) (a : Agg) : Option Nat :=
  if cmbFits s t (creditWords a) ((cmbOf s t).credits == []) then cmbPlace s t (creditWords a) else none

/-- Claim a credit, or queue for it. -/
def claimCredit (s : State) (t owner id pos : Nat) (a : Agg) : Bool × State :=
  let c := cmbOf s t
  match creditNow s t a with
  | some b => (true, openDest s t owner id pos b a)
  | none => (false, setCmb s t { c with credits := c.credits ++ [⟨owner, id, pos, creditWords a, s.now⟩] })

def destOf (s : State) (t owner pos : Nat) : Option Dest :=
  (cmbOf s t).dests.find? (fun d => d.owner == owner && d.pos == pos)
def setDest (s : State) (t : Nat) (x : Dest) : State :=
  let c := cmbOf s t
  setCmb s t { c with dests := c.dests.map (fun d => if d.owner = x.owner ∧ d.pos = x.pos then x else d) }

/-- Credits return, and requests leave: what is freed is reserved for the oldest request that waits (R192). (DEDUCED; log entry 18.) -/
def cmbRelease (s : State) (t : Nat) (gone : Dest → Bool) (drop : CreditReq → Bool) : State :=
  let c := cmbOf s t
  let out := c.dests.filter gone
  let credits := c.credits.filter (fun r => !drop r)
  let kept := credits != [] && credits.head? == c.credits.head?
  let (w, r) := if kept then (c.resWords, c.resRecs) else (0, 0)
  setCmb s t { c with
    dests := c.dests.filter (fun d => !gone d)
    credits := credits
    resWords := if credits = [] then 0 else out.foldl (fun n d => n + d.words) w
    resRecs := if credits = [] then 0 else r + out.length
    moving := c.moving && kept }

def dropDest (s : State) (t owner pos : Nat) : State := cmbRelease s t (fun d => d.owner == owner && d.pos == pos) (fun _ => false)

/-! ### Terms -/

/-- The value of head `h`'s weight: w_h, or a_h = exp(s_h) under ATTN (R186). -/
def headWeight (a : Agg) (w : WeightVal) : Num :=
  let v := decodeElem w.fmt w.bits
  if a.pool = 5 then of32 (exp32 (of32 (to32 v))) else v

/-- What the comb store's check found of a destination (R206). -/
inductive CombHit where
  | clean
  /-- an element's accumulator, denominators after the row's elements -/
  | elem (k : Nat)
  /-- the destination record -/
  | record
  deriving DecidableEq, Repr

/-- The comb store's check as a destination is read (R206). The manual does not say which word an injected error falls on: where no address is
given a free value chooses the record or an element. (DEDUCED; log entry 58.) -/
def combCheck (s : State) (t : Nat) (a : Agg) (d : Dest) : CombHit × State :=
  let lo := sramBase + t * 0x800000 + 0x200000 + 8 * d.base
  let at_ := ((armedInj s (tileSrc 2 t) lo (8 * d.words)).map (·.addr)).getD 0
  let (e, inj, s) := injected s (tileSrc 2 t) lo (8 * d.words) .clean
  match e with
  | .clean => (.clean, s)
  | .corrected => (.clean, raise s (tileSrc 2 t) 0x10 NOTE none inj)
  | .uncorrectable =>
    if at_ ≠ 0 then (.elem ((at_ - lo) / clsBytes a.cls), raise s (tileSrc 2 t) 0x20 CONTAIN none inj)
    else
      let (w, s) := freshFree s
      if w.toNat % 2 = 0 then (.record, s) else (.elem (w.toNat / 2 % aggTotal a), raise s (tileSrc 2 t) 0x20 CONTAIN none inj)

/-- An element's accumulator takes POISON; a LOOSE destination has one poison bit (R203, R206). -/
def combSpoil (a : Agg) (d : Dest) (k : Nat) : Dest :=
  if a.cls = 3 then { d with loosePsn := true }
  else
    let mark (n : Nat) (xs : List Acc) : List Acc := xs.zipIdx.map (fun p => if p.2 + n = k then { p.1 with poison := true } else p.1)
    { d with acc := mark 0 d.acc, den := mark d.acc.length d.den }

/-- One term joins a destination: row values, weights by head, and whether the whole term is poisoned (R91–R93, R101, R185–R187, R203). A poisoned
weight poisons the elements and the denominator of its head (R581). A poisoned term is not counted as a wide one. (DEDUCED, DESIGN CHOICE;
log entry 19.) -/
def destTerm (a : Agg) (d : Dest) (xs : List Num) (ws : List WeightVal) (psn : Bool) : Dest :=
  let per := a.elems / a.heads
  let weighted := decide (4 ≤ a.pool)
  let wv (h : Nat) : Num := (ws[h]?.map (headWeight a)).getD .nan
  let wp (h : Nat) : Bool := (ws[h]?.map (·.psn)).getD false
  let val (j : Nat) : Num := if weighted then (wv (j / per)).mul (xs.getD j .nan) else xs.getD j .nan
  let bad (j : Nat) : Bool := psn || (weighted && wp (j / per))
  if a.cls = 3 then
    if psn || (weighted && (List.range a.heads).any wp) then { d with terms := d.terms + 1, loosePsn := true }
    else
      { d with terms := d.terms + 1
               acc := d.acc.zipIdx.map (fun p => looseTerm p.1 (to32 (val p.2)))
               den := d.den.zipIdx.map (fun p => looseTerm p.1 (to32 (wv p.2))) }
  else
    { d with terms := d.terms + 1
             wide := d.wide + (if a.cls = 1 ∧ (List.range a.elems).any (fun j => !bad j && isWide (val j)) then 1 else 0)
             acc := d.acc.zipIdx.map (fun p => accTerm a.pool a.cls p.1 (val p.2) (bad p.2))
             den := d.den.zipIdx.map (fun p => accTerm 0 a.cls p.1 (wv p.2) (wp p.2)) }

/-- Deliver a term to an open destination; `true` when the destination's record is lost. -/
def combTerm (s : State) (t owner pos : Nat) (a : Agg) (xs : List Num) (ws : List WeightVal) (psn : Bool) : Bool × State :=
  match destOf s t owner pos with
  | none => (false, s)
  | some d =>
    match combCheck s t a d with
    | (.record, s) => (true, s)
    | (hit, s) =>
      let d := destTerm a d xs ws psn
      let d := match hit with
        | .elem k => combSpoil a d k
        | _ => d
      (false, csrAdd (setDest s t d) (tileCsr t 0x3040) 1)

/-! ### Finalisation -/

/-- The results of a destination before conversion (R94, R188, R189, R203). -/
def destFinal (a : Agg) (d : Dest) : List Fin :=
  let per := a.elems / a.heads
  d.acc.zipIdx.map (fun p =>
    if a.cls = 3 then
      (if d.loosePsn then (.nan, true)
       else
        let den : Option Nat :=
          if a.pool = 1 then some (to32 (ofInt d.terms))
          else if aggDen a then (d.den[p.2 / per]?.map (fun x => x.val.toNat)) else none
        (finLoose p.1 den, false))
    else if a.pool = 2 ∨ a.pool = 3 then finExt (a.pool == 2) a.cls p.1
    else if a.pool = 1 then finMean a.cls p.1 d.terms
    else if aggDen a then finDiv a.cls p.1 (d.den.getD (p.2 / per) Acc.empty)
    else finSum a.cls p.1)

/-- Record a comb failure (Table 6-12) and report it with a kind. -/
def combFailAs (s : State) (t cause ctx desc tag kind : Nat) : State :=
  engFail s t 2 0x3010 12 (cause + ctx * 2 ^ 8) desc tag kind

/-- The same: an owner's refusal of a partial is a remote failure (R28, R201). -/
def combFail (s : State) (t cause ctx desc tag : Nat) : State := combFailAs s t cause ctx desc tag (if cause = 9 then 0x24 else 0x20)

/-- Every semaphore due is signalled once the unit's earlier writes are performed (R195). -/
def combSettle (s : State) (t : Nat) : State :=
  if (cmbOf s t).sigs = [] then s
  else
    let s := releaseFlush s (agentOf t 2)
    if agentPending s (agentOf t 2) then s
    else
      let sg := (cmbOf s t).sigs
      sg.foldl (fun s n => signalOrErr s t n 1) (setCmb s t { cmbOf s t with sigs := [] })

/-- DESIGN CHOICE; log entry 18. -/
def combSig (s : State) (t n k : Nat) : State :=
  setCmb s t { cmbOf s t with sigs := (cmbOf s t).sigs ++ List.replicate k n }

/-- Who writes rows: the owner, its descriptor's address and its task's tag, and the class of its requests. -/
structure RowBy where
  owner : Nat
  desc : Nat
  tag : Nat
  lc : Bool

/-- The runs of a row's bytes that are written with equal poison. -/
def rowRuns (b : Nat) : List (Option (Nat × Bool)) → Nat → List (Nat × List Byte × Bool)
  | [], _ => []
  | none :: xs, off => rowRuns b xs (off + b)
  | some (v, p) :: xs, off =>
    match rowRuns b xs (off + b) with
    | (o, bs, q) :: rs => if o = off + b ∧ q = p then (off, leBytes b v ++ bs, p) :: rs else (off, leBytes b v, p) :: (o, bs, q) :: rs
    | [] => [(off, leBytes b v, p)]

/-- Write a run of bytes at an offset of a target; a peer's goes out in pieces of at most 2,048 bytes. -/
def writeRun (s : State) (t : Nat) (w : RowBy) (g : Tgt) (r : Nat × List Byte × Bool) : Option State :=
  let (off, bs, psn) := r
  match g with
  | .peer d a =>
    (rowPieces (bs.length / 2048 + 1) (a + off) bs.length).foldl (fun s p =>
      s.bind (fun s => sendReq s kWRITE d p.1 p.2 ((bs.drop (p.1 - a - off)).take p.2) psn w.lc (.combWrite t w.owner w.desc w.tag))) (some s)
  | .dram i o => some (agentWrite s t (agentOf t 2) (.dram i (o + off)) bs psn w.lc)
  | .spad a => some (agentWrite s t (agentOf t 2) (.spad (a + off)) bs psn w.lc)
  | .hole a => some (noteHole s a)

/-- Rows of the output tensor overlap. -/
def rowsMeet (a : Agg) : Bool := decide ((tStride a.out 1).natAbs < tRowBytes a.out)

/-- Element `j` of the row at `pos` lies in the row of a higher position that is written already: that row's element stays (R137). -/
def rowCovered (a : Agg) (wrote : List Nat) (b pos j : Nat) : Bool :=
  let x : Int := pos * tStride a.out 1 + j * b
  wrote.any (fun p => decide (pos < p) && decide (p * tStride a.out 1 ≤ x ∧ x < p * tStride a.out 1 + tRowBytes a.out))

/-- Write a finalised row at its position (R94, R137, R194, R205); an error is a cause of Table 6-9. -/
def combWrite (s : State) (t : Nat) (w : RowBy) (a : Agg) (d : Dest) (wrote : List Nat) : Except Nat State :=
  let f := cwFmt a.conv
  let b := fmtBits f / 8
  let so := seedOrdinal s (t / 16)
  let xs := (destFinal a d).zipIdx.map (fun p =>
    ((convert a.conv (if cwRnd a.conv = 2 then drawWord so.1 0 (tId a.out) so.2 (p.2 + tSize a.out 0 * d.pos) else 0) p.1.1).code, p.1.2))
  let ys := if rowsMeet a then xs.zipIdx.map (fun x => if rowCovered a wrote b d.pos x.2 then none else some x.1) else xs.map some
  match (locAdd (tBase a.out) (d.pos * tStride a.out 1)).map (fun l => locTgt s l (a.elems * b) true) with
  | some (.ok g) =>
    match (rowRuns b ys 0).foldl (fun s r => s.bind (fun s => writeRun s t w g r)) (some s) with
    | none => .error 2
    | some s =>
      let s := csrAdd s (tileCsr t 0x3050) 1
      if xs.any (·.2) then
        let ga := match g with
          | .peer dv x => dv * 2 ^ 45 + x
          | g => globalOf s (tgtAddr s g)
        .ok (raise (csrAdd s (tileCsr t 0x3058) 1) (tileSrc 2 t) 0x15 CONTAIN (some ga))
      else .ok s
  | _ => .error 2

/-! ### Partials (R196–R201) -/

/-- A partial row (Table 6-6, R197). -/
def packPartial (a : Agg) (d : Dest) (parts ctx : Nat) : List Byte :=
  let n := aggTotal a
  let loose := decide (a.cls = 3)
  leBytes 8 (d.id + n * 2 ^ 48) ++
  leBytes 8 (d.terms % 2 ^ 37 + parts * 2 ^ 37 + ctx * 2 ^ 38 + bit loose * 2 ^ 42 + bit (loose && d.loosePsn) * 2 ^ 43 +
    (if a.cls = 1 then d.wide % 2 ^ 20 else 0) * 2 ^ 44) ++
  (d.acc ++ d.den).flatMap (fun x => if loose then leBytes 4 x.val.toNat else packElem a.cls x)

/-- Send a destination's partial to its owner (R196, R198). (DEDUCED; log entry 19.) -/
def sendPartial (s : State) (t : Nat) (w : RowBy) (a : Agg) (d : Dest) (parts : Nat) (cache : List Cached) : Except Nat State :=
  match drun (downer ⟨t, cache, fun _ => 4⟩ a d.id) s with
  | (.ok (some (dev, tile, ctx)), s) =>
    let row := packPartial a d parts ctx
    if dev = ownId s then .ok { s with partials := s.partials ++ [⟨t, w.owner, d.id, tile, ctx, row, w.desc, w.tag⟩] }
    else if !peerUsable s dev then .error 9
    else match sendReq s kPARTIAL dev (sramBase + tile * 0x800000) row.length row false w.lc (.partialRow t w.owner d.id w.desc w.tag) with
      | some s => .ok s
      | none => .error 9
  | _ => .error 4

/-- A destination is finished: its credit returns, and it is written or sent on. `wrote` are the positions written before it. A segment WALK whose
aggregation descriptor has PART 0 is finalised like any other. (DEDUCED, DESIGN CHOICE; log entry 19.) -/
def combFinish (s : State) (t : Nat) (w : RowBy) (a : Agg) (d : Dest) (parts : Nat) (cache : List Cached) (wrote : List Nat) : Except Nat State :=
  let s := dropDest s t d.owner d.pos
  match combCheck s t a d with
  | (.record, _) => .error 7
  | (hit, s) =>
    let d := match hit with
      | .elem k => combSpoil a d k
      | _ => d
    if !countsOk d.terms d.wide then .error 3
    else if a.part then sendPartial s t w a d parts cache
    else combWrite s t w a d wrote

/-! ### Merge contexts (R199, R200) -/

def ctxNum (c : Nat) : Nat := 1000000 + c
def cctxOf (s : State) (t c : Nat) : Option Ctx := (cmbOf s t).ctxs.find? (fun x => x.num == c)
def setCctx (s : State) (t : Nat) (x : Ctx) : State :=
  setCmb s t { cmbOf s t with ctxs := (cmbOf s t).ctxs.map (fun y => if y.num = x.num then x else y) }
def dropCctx (s : State) (t c : Nat) : State :=
  setCmb s t { cmbOf s t with ctxs := (cmbOf s t).ctxs.filter (fun y => y.num != c) }

/-- Positions done from the first without a gap. -/
def donePrefix (done : List Nat) : Nat → Nat → Nat
  | 0, k => k
  | f + 1, k => if done.contains k then donePrefix done f (k + 1) else k

/-- OUT_SEM signals due: for whole blocks of positions written or dropped, and at completion for a short last block (R195). -/
def signalsDue (done : List Nat) (n block : Nat) (final : Bool) : Nat :=
  let k := donePrefix done (n + 1) 0
  if final && decide (n ≤ k) then ceilDiv n block else k / block

/-- OUT_SEM signals a context owes. A destination that failed is neither written nor dropped. -/
def ctxSignals (s : State) (t : Nat) (x : Ctx) (final : Bool) : Ctx × State :=
  if !x.agg.sigEn then (x, s)
  else
    let done := (x.closed.filter (fun id => !x.failed.contains id)).map (fun id => (x.ids.takeWhile (fun i => i != id)).length)
    let due := signalsDue done x.ids.length x.agg.block final
    ({ x with signalled := max x.signalled due }, combSig s t x.agg.outSem (due - x.signalled))

/-- How a context's rows are written. -/
def ctxBy (x : Ctx) : RowBy := ⟨ctxNum x.num, x.descAddr, x.tag, false⟩

/-- One destination of a context is finished, or `ends` with a cause; a failure concerns that destination alone. Answers whether its record was
lost. -/
def ctxFinishOne (s : State) (t : Nat) (x : Ctx) (d : Dest) (ends : Option Nat) : Bool × State :=
  let x := { x with closed := x.closed ++ [d.id] }
  let r : Except Nat State := match ends with
    | some c => .error c
    | none => combFinish s t (ctxBy x) x.agg d 1 x.cache x.wrote
  let (c, x, s) : Nat × Ctx × State := match r with
    | .ok s => (0, { x with wrote := if rowsMeet x.agg then d.pos :: x.wrote else x.wrote }, s)
    | .error c => (c, { x with failed := x.failed ++ [d.id] }, combFail (dropDest s t d.owner d.pos) t c x.num x.descAddr x.tag)
  let (x, s) := ctxSignals s t x false
  (c == 7, setCctx s t x)

/-- Close a context: finalise or forward every destination left, or fail those short of EXPECT (R200). -/
def ctxClose (s : State) (t c : Nat) : State :=
  match cctxOf s t c with
  | none => s
  | some x =>
    let ds := (cmbOf s t).dests.filter (fun d => d.owner == ctxNum c)
    let s := ds.foldl (fun s d =>
      match cctxOf s t c with
      | none => s
      | some x => (ctxFinishOne s t x d (if x.expect ≠ 0 then some 5 else none)).2) s
    let (_, s) := ctxSignals s t ((cctxOf s t c).getD x) true
    let s := cmbRelease (dropCctx s t c) t (fun _ => false) (fun r => r.owner == ctxNum c)
    -- a MERGE_OPEN that was still opening the context ends with it
    if x.opening = [] then s else setCmb s t { cmbOf s t with busy := none, cache := [] }

/-- One destination of a context is finished; a lost record closes the context (R206). -/
def ctxFinish (s : State) (t : Nat) (x : Ctx) (d : Dest) (ends : Option Nat) : State :=
  let (lost, s) := ctxFinishOne s t x d ends
  combSettle (if lost then ctxClose s t x.num else s) t

/-- A context all of whose destinations are finished closes. -/
def ctxCloseIfDone (s : State) (t c : Nat) : State :=
  match cctxOf s t c with
  | some x =>
    if x.expect ≠ 0 ∧ x.opening = [] ∧ x.closed.length = x.ids.length then
      let (_, s) := ctxSignals s t x true
      combSettle (dropCctx s t c) t
    else s
  | none => s

/-- The elements of a partial row after its header. (DEDUCED, DESIGN CHOICE; log entries 19, 31.) -/
def partialElems (a : Agg) (bs : List Byte) : Option (List Acc) :=
  if a.cls = 3 then
    if bs.length = 4 * aggTotal a then
      some ((readVals 4 (aggTotal a + 1) bs).map (fun v => { Acc.empty with val := (v : Nat), has := true }))
    else none
  else unpackElems a.cls (aggTotal a) bs

/-- Merge into a LOOSE accumulator in arrival order (R203). (DEDUCED; log entry 19.) -/
def looseMerge (a b : Acc) : Acc := if b.has then looseTerm a b.val.toNat else a

/-- A partial row arrives at tile `t` (R200, R201); `psn` is the packet's poison mark. Answers whether it was accepted. -/
def combMerge (s : State) (t : Nat) (row : List Byte) (psn : Bool) : Bool × State :=
  let h0 := ofLE (row.take 8)
  let h1 := ofLE ((row.drop 8).take 8)
  let id := h0 % 2 ^ 40
  let c := h1 / 2 ^ 38 % 16
  let refuse (s : State) : Bool × State :=
    (false, raise (csrAdd s (tileCsr t 0x3060) 1) (tileSrc 2 t) 0x04 NOTE)
  match cctxOf s t c with
  | none => refuse s
  | some x =>
    match (cmbOf s t).dests.find? (fun d => d.owner == ctxNum c && d.id == id), partialElems x.agg (row.drop 16) with
    | some d, some es =>
      let loose := x.agg.cls == 3
      if row.length < 16 || h0 / 2 ^ 40 % 2 ^ 8 != 0 || h0 / 2 ^ 61 != 0 || h0 / 2 ^ 48 % 2 ^ 13 != aggTotal x.agg ||
          (h1 / 2 ^ 42 % 2 == 1) != loose then refuse s
      else
        match combCheck s t x.agg d with
        | (.record, s) => (true, ctxFinish s t x d (some 7))
        | (hit, s) =>
        let d := match hit with
          | .elem k => combSpoil x.agg d k
          | _ => d
        let terms := h1 % 2 ^ 37
        let es := if psn && !loose then es.map (fun e => { e with poison := true }) else es
        let es := if loose && terms == 0 then es.map (fun e => { e with has := false }) else es
        let n := x.agg.elems
        let d := { d with
          acc := (d.acc.zip (es.take n)).map (fun p => if loose then looseMerge p.1 p.2 else accMerge x.agg.pool x.agg.cls p.1 p.2)
          den := (d.den.zip (es.drop n)).map (fun p => if loose then looseMerge p.1 p.2 else accMerge 0 x.agg.cls p.1 p.2)
          terms := d.terms + terms, wide := d.wide + h1 / 2 ^ 44, parts := d.parts + h1 / 2 ^ 37 % 2
          loosePsn := d.loosePsn || (loose && (psn || h1 / 2 ^ 43 % 2 == 1)) }
        let s := csrAdd (setDest s t d) (tileCsr t 0x3048) 1
        let s := if x.expect ≠ 0 ∧ x.expect ≤ d.parts then ctxFinish s t x d none else s
        (true, ctxCloseIfDone s t c)
    | _, _ => refuse s

/-- Open the destinations of a context that is opening, one credit at a time; with none left MERGE_OPEN completes. -/
def ctxOpenMore : Nat → State → Nat → Nat → State
  | 0, s, _, _ => s
  | f + 1, s, t, c =>
    match cctxOf s t c with
    | none => s
    | some x =>
      match x.opening with
      | [] =>
        match (cmbOf s t).busy with
        | some q =>
          let s := setCmb s t { cmbOf s t with busy := none, cache := [] }
          let s := if getB q.desc 9 then combSig s t (getF q.desc 16 12) 1 else s
          combSettle s t
        | none => s
      | id :: rest =>
        let pos := x.ids.length - x.opening.length
        match claimCredit s t (ctxNum c) id pos x.agg with
        | (true, s) => ctxOpenMore f (setCctx s t { x with opening := rest }) t c
        | (false, s) => s

def hasRepeat : List Nat → Bool
  | [] => false
  | a :: l => l.contains a || hasRepeat l

/-- A comb descriptor's own bits (Table 6-7, R579). -/
def combLegal (d : Desc) : Bool :=
  let op := getF d 0 8
  (op == 1 || op == 2) && !getB d 8 && getF d 10 6 == 0 && getF d 28 4 == 0 && getF d 36 28 == 0 && getF d 280 232 == 0 &&
  (!getB d 9 || decide (getF d 16 12 < 256)) &&
  (if op = 1 then getF d 64 64 != 0 && decide (1 ≤ getF d 232 32 ∧ getF d 232 32 ≤ 4096) else getF d 64 64 == 0)

/-- What a MERGE_OPEN reads: its aggregation descriptor and its destination IDs, each inside one region or scratchpad (R199). -/
def dmergeOpen (e : Env) (d : Desc) : Dec (Agg × List Nat) := do
  let n := getF d 232 32
  let al := BitVec.ofNat 64 (getF d 64 64)
  dcheck (locAligned al 64) 1
  let _ ← dspanTgt e al 64 false
  let a ← dagg e al n 1 2
  let dl := BitVec.ofNat 64 (getF d 128 64)
  let ids ← if dl = 0 then pure ((List.range n).map (fun i => getF d 192 40 + i))
    else do
      let _ ← dspanTgt e dl (8 * n) false
      let r ← dread e dl 0 (8 * n)
      pure (readVals 8 n r.1)
  dcheck (!hasRepeat ids) 6
  let s ← dget
  dcheck (decide (n * creditWords a + ctxWords s e.t ≤ 262144 ∧ n + ctxRecs s e.t ≤ 4096)) 0x0A
  if a.part then do
    let _ ← ids.mapM (fun id => downer e a id)
    pure (a, ids)
  else pure (a, ids)

/-- The comb unit stops on a failed descriptor (R14). (DESIGN CHOICE, DEDUCED; log entries 16, 19.) -/
def combStopAs (s : State) (t cause : Nat) (q : QDesc) (kind : Nat) : State :=
  let s := combFailAs s t cause (if cause ≤ 2 then 0 else getF q.desc 32 4) q.addr q.tag kind
  setCmb s t { cmbOf s t with busy := none, cache := [], stopped := true }

def combStop (s : State) (t cause : Nat) (q : QDesc) : State := combStopAs s t cause q 0x20

/-- Read a MERGE_OPEN's structures, asking peers for what is missing, and begin opening. -/
def mergeOpenTry (s : State) (t : Nat) (q : QDesc) : State :=
  let cz (x : AccErr) : Nat := if x = .reserved then 1 else 2
  match drun (dmergeOpen ⟨t, (cmbOf s t).cache, cz⟩ q.desc) s with
  | (.error (.fail c), s) => combStop s t c q
  | (.error (.need d a n), _) => (sendReq s kREAD d a n [] false false (.combRead t)).getD (combStop s t 2 q)
  | (.ok (a, ids), s) =>
    let c := getF q.desc 32 4
    let x : Ctx := { num := c, agg := a, expect := getF q.desc 264 16, ids := ids, opening := ids, closed := [], descAddr := q.addr,
                     tag := q.tag, cache := (cmbOf s t).cache, signalled := 0 }
    ctxOpenMore (ids.length + 1) (setCmb s t { cmbOf s t with ctxs := (cmbOf s t).ctxs ++ [x] }) t c

/-- The comb unit may begin its next descriptor. -/
def combReady (s : State) (t : Nat) : Bool :=
  s.boot == 0 && !(cmbOf s t).stopped && (cmbOf s t).busy.isNone && (coreOf s t).suspending.isNone

/-- The head of the comb unit's queue with this operation code; a head whose bits are reserved fails under any of them. -/
def combHead (s : State) (t op : Nat) : Option QDesc :=
  match (cmbOf s t).queue with
  | q :: _ => if combReady s t && (getF q.desc 0 8 == op || !(getF q.desc 0 8 == 1 || getF q.desc 0 8 == 2)) then some q else none
  | [] => none

def execMergeOpen (t : BitVec 8) (s : State) : Res :=
  let t := t.toNat
  match combHead s t 1 with
  | none => absent "no MERGE_OPEN to begin"
  | some q =>
    let s := setCmb s t { cmbOf s t with queue := (cmbOf s t).queue.drop 1 }
    .next (if !combLegal q.desc then combStop s t 1 q
      else if (cctxOf s t (getF q.desc 32 4)).isSome then combStop s t 6 q
      else mergeOpenTry (setCmb s t { cmbOf s t with busy := some q, cache := [] }) t q)

def execMergeClose (t : BitVec 8) (s : State) : Res :=
  let t := t.toNat
  match combHead s t 2 with
  | none => absent "no MERGE_CLOSE to begin"
  | some q =>
    let s := setCmb s t { cmbOf s t with queue := (cmbOf s t).queue.drop 1 }
    .next (if !combLegal q.desc then combStop s t 1 q
      else
        let s := ctxClose s t (getF q.desc 32 4)
        let s := if getB q.desc 9 then combSig s t (getF q.desc 16 12) 1 else s
        combSettle s t)

/-- CMB_STATUS as it reads now (Table 6-11). -/
def cmbStatus (s : State) (t : Nat) : Word :=
  let c := cmbOf s t
  BitVec.ofNat 64 ((262144 - cmbWords s t - c.resWords) + (4096 - c.dests.length) * 2 ^ 19 + (c.ctxs.foldl (fun m x => m ||| 2 ^ x.num) 0) * 2 ^ 32 +
    min c.credits.length 31 * 2 ^ 48 + bit c.moving * 2 ^ 53 + c.queue.length % 16 * 2 ^ 54)

end Sys2Proof.Machine
end

