-- ==== Sys2Proof/Machine/Evq.lean ====
section
/-! DEFINITION. The event ring in host memory (R485–R487). -/

namespace Sys2Proof.Machine

def evqCfg : Nat := hstCsr 0x8008
def evqPtr : Nat := hstCsr 0x8010
def evqLost : Nat := hstCsr 0x8018

/-- Raise the ring's vector, or keep the entry for the coalescing timer (R487). -/
def evqSignal (s : State) : State :=
  let coal := csrF s evqCfg 13 10 * 1000
  if csrF s evqCfg 12 1 = 0 then s
  else if coal = 0 ∨ s.evqRaised = 0 ∨ s.evqRaised + coal ≤ s.now then
    raiseMsix { s with evqRaised := s.now, evqOldest := none } (csrF s evqCfg 6 6)
  else { s with evqOldest := some (s.evqOldest.getD s.now) }

/-- Write one entry (Table 18-9): PHASE is 1 on the first pass and toggles on each wrap. -/
def evqPut (s : State) (kind source level arg0 arg1 : Nat) : State :=
  let size := 2 ^ csrF s evqCfg 1 5
  let tail := csrF s evqPtr 32 32
  let phase := (tail / size + 1) % 2
  let bs := leBytes 8 s.now ++ leBytes 8 (kind + phase * 2 ^ 8 + source * 2 ^ 16 + level * 2 ^ 32) ++ leBytes 8 arg0 ++ leBytes 8 arg1
  let s := emitOut s (.hostWrite ((csrGet s (hstCsr 0x8000)).toNat / 4096 * 4096 + 32 * (tail % size)) bs)
  evqSignal (csrSetF s evqPtr 32 32 (tail + 1))

def evqFull (s : State) : Bool :=
  (csrF s evqPtr 32 32 + 2 ^ 32 - csrF s evqPtr 0 32) % 2 ^ 32 == 2 ^ csrF s evqCfg 1 5

/-- With space again, a LOST entry comes first (R486). -/
def evqLostFlush (s : State) : State :=
  let n := (csrGet s evqLost).toNat
  if csrF s evqCfg 0 1 = 1 ∧ n ≠ 0 ∧ !evqFull s then evqPut (csrPut s evqLost 0) 0x07 0 0 n 0 else s

/-- Report an event: nothing while the ring is not in use; counted while it is full. (DESIGN CHOICE; log entry 61.) -/
def evqPost (s : State) (kind source level arg0 arg1 : Nat) : State :=
  if csrF s evqCfg 0 1 = 0 then s
  else
    let s := evqLostFlush s
    if evqFull s then csrAdd s evqLost 1 else evqPut s kind source level arg0 arg1

/-- What a write of HST_EVQ_CFG does beside its fields: setting EN starts the ring anew. -/
def evqCfgEff (s : State) (wasOn : Bool) : State :=
  if csrF s evqCfg 0 1 = 1 ∧ !wasOn then { csrPut s evqPtr 0 with evqOldest := none } else s

def execEvqCoalesceTimer (time : Nat) (s : State) : Res :=
  match s.evqOldest with
  | some _ =>
    let coal := csrF s evqCfg 13 10 * 1000
    if s.evqRaised + coal ≤ time ∧ s.now ≤ time then
      let s := atTime s time
      .next (raiseMsix { s with evqRaised := s.now, evqOldest := none } (csrF s evqCfg 6 6))
    else absent "the coalescing time has not passed"
  | none => absent "every entry has been signalled"

/-- A host error on an entry write clears EN (R487). -/
def execEvqWriteError (s : State) : Res :=
  if csrF s evqCfg 0 1 = 1 then .next (raise (csrSetF s evqCfg 0 1 0) 0x7004 0x25 CONTAIN)
  else absent "the event ring is not in use"

end Sys2Proof.Machine
end

