-- ==== Sys2Proof/Machine/Porter.lean ====
section
/-! DEFINITION. The porter (chapter 11): waybills and their check, stream contexts, chunks and their requests, signals, host transfers,
deadlines, the stall timer and the stream record. -/

namespace Sys2Proof.Machine

/-- A policy parameter that the steward holds (Table 13-13). -/
def polVal (s : State) (n : Nat) : Nat := (assocGet s.policy n).getD 0

/-! ### The waybill (R319, R320) -/

def wiOp (w : Word) : Nat := getF w 0 4
def wiReg (w : Word) : Nat := getF w 4 2
def wiLoopLen (w : Word) : Nat := getF w 8 5
def wiCount (w : Word) : Nat := getF w 32 32
def wiImm (w : Word) : Int := toSigned 40 (getF w 24 40)
def wiDst (w : Word) : Nat := getF w 6 2
def wiLen (w : Word) : Nat := getF w 12 24 + 1
def wiDl (w : Word) : Nat := getF w 36 16
def wiSem (w : Word) : Nat := getF w 4 12
def wiSpan (w : Word) : Nat := getF w 9 2 + 1

/-- An instruction's own fields (Table 11-2). -/
def wiLegal (w : Word) : Bool :=
  match wiOp w with
  | 1 => getF w 4 4 == 0 && getF w 13 19 == 0 && wiLoopLen w != 0
  | 2 => getF w 6 18 == 0
  | 3 => getF w 7 57 == 0
  | 4 => getF w 52 12 == 0
  | 5 => getF w 36 28 == 0 && decide (wiSem w < 256)
  | 6 => getF w 16 48 == 0 && decide (wiSem w < 256)
  | 7 => getF w 11 5 == 0 && getF w 32 32 == 0 && (getF w 7 2 != 2 || getF w 16 16 != 0)
  | 8 => getF w 4 60 == 0
  | _ => false

/-- Check from instruction `i` on; `ends` are where the open bodies end, innermost first, and the waybill's end is last. (DEDUCED; log entry 23.) -/
def wayCheck : List Word → Nat → List Nat → Bool
  | [], _, _ => false
  | w :: ws, i, ends =>
    let ends := ends.dropWhile (fun e => e == i && ends.length > 1)
    let top := ends.headD 0
    wiLegal w &&
    (match wiOp w with
      | 8 => true
      | 1 => decide (i + 1 + wiLoopLen w ≤ top ∧ ends.length ≤ 6) && wayCheck ws (i + 1) ((i + 1 + wiLoopLen w) :: ends)
      | 7 => decide (i + 1 + wiSpan w ≤ top) && (ws.take (wiSpan w)).all (fun v => wiOp v != 1 && wiOp v != 8) && wayCheck ws (i + 1) ends
      | _ => wayCheck ws (i + 1) ends)

/-- The waybill is legal; it ends with its first END. -/
def wayLegal (ws : List Word) : Bool :=
  decide (ws.length ≤ 32) && ((ws.getLast?.map wiOp) == some 8) && wayCheck ws 0 [ws.length - 1]

/-- PRT_ERR cause of a refused access (Table 11-4). -/
def prtCz : AccErr → Nat
  | .reserved => 1
  | .fault => 2
  | .straddle => 2
  | .span => 2
  | .miss => 3
  | .readOnly => 3
  | .noTarget => 4

/-- Read a waybill up to its first END, at most 32 instructions; the reads are made even where one fails (R29, R327). -/
def wayRead (s : State) (t : Nat) (l : Word) : Nat → Nat → Except Nat (List Word) × State
  | 0, _ => (.ok [], s)
  | f + 1, i =>
    match locAdd l ((8 * i : Nat) : Int) with
    | none => (.error 2, s)
    | some p =>
      match locTgt s p 8 false with
      | .error x => (.error (prtCz x), s)
      | .ok g =>
        let (bs, _, s) := agentReadEcc s t g 8 .clean
        let w : Word := BitVec.ofNat 64 (ofLE bs)
        if wiOp w = 8 then (.ok [w], s)
        else
          let (r, s) := wayRead s t l f (i + 1)
          (r.map (fun r => w :: r), s)

/-! ### Descriptors (Table 11-1) -/

def pdCtx (d : Desc) : Nat := getF d 28 4
def pdResume (d : Desc) : Nat := getF d 424 32
def pdWay (d : Desc) : Word := BitVec.ofNat 64 (getF d 64 64)
def pdHost (d : Desc) (r : Nat) : Bool := getB d (32 + r)
def pdStride (d : Desc) : Int := toSigned 40 (getF d 384 40)

/-- Table 11-1 with R318: an address register that holds no host address holds null or a locator without reserved bits. -/
def pdLegal (d : Desc) : Bool :=
  (List.range 4).all (fun r =>
    let v : Word := BitVec.ofNat 64 (getF d (128 + 64 * r) 64)
    pdHost d r || v == 0 || (locKind v != 0 && locRsv v == 0)) &&
  getF d 0 8 == 1 && getF d 11 5 == 0 && getF d 36 28 == 0 && getF d 456 56 == 0 && (!getB d 9 || decide (getF d 16 12 < 256)) &&
  (locKind (pdWay d) == 1 || locKind (pdWay d) == 2) && locAligned (pdWay d) 64

/-! ### Ending a stream -/

/-- Agent of a stream context. -/
def prtAgent (t c : Nat) : Nat := agentOf t (16 + c)
def prtDelivAddr (t c : Nat) : Nat := tileCsr t (0x6100 + 8 * c)

/-- Chunks delivered from chunk 0 (R332). -/
def delivered (x : Stream) : Nat := x.chunks.foldl (fun m k => min m k.n) x.emits

/-- PRT_DELIV as the stream stands. -/
def putDeliv (s : State) (t c : Nat) (x : Stream) : State :=
  csrPut s (prtDelivAddr t c) (BitVec.ofNat 64 (delivered x % 2 ^ 32 + x.emits % 2 ^ 32 * 2 ^ 32))

/-- The context becomes idle; a stream restored for it takes it (R334). Answers to requests of the stream that went are dropped. -/
def ctxIdle (s : State) (t c : Nat) : State :=
  let gone (k : Cont) : Bool := match k with
    | .chunkRead t' c' _ _ => t' == t && c' == c
    | .chunkWrite t' c' _ => t' == t && c' == c
    | .index t' c' => t' == t && c' == c
    | _ => false
  let s := { s with reqs := s.reqs.map (fun r => if gone r.cont then { r with cont := .none_ } else r) }
  let p := prtOf s t
  match p.restore.find? (fun e => e.1 == c) with
  | some e => setCtx (setPrt s t { p with restore := p.restore.erase e }) t c (some e.2)
  | none => setCtx s t c none

/-- The stream stops with a cause (R338). (DESIGN CHOICE; log entry 16.) -/
def prtFail (s : State) (t c cause : Nat) (x : Stream) : State :=
  let s := putDeliv s t c x
  let s := match x.waitSem with
    | some n => semLeave s t n (16 + c)
    | none => s
  let s := ctxIdle s t c
  let s := setPrt s t { prtOf s t with stopped := c :: (prtOf s t).stopped }
  engFail s t 5 0x6010 12 (cause + c * 2 ^ 8) x.q.addr x.q.tag
    (if cause = 4 then 0x24 else if cause = 5 then 0x25 else if cause = 6 then 0x22 else 0x20)

/-! ### Addresses -/

/-- Register `r` moved by `k` bytes: locators within their offset part, host addresses modulo 2^64 (R318). -/
def regMove (x : Stream) (r : Nat) (k : Int) : Option Word :=
  let v := x.a.getD r 0
  if pdHost x.q.desc r then some (v + BitVec.ofInt 64 k) else locAdd v k

def setReg (x : Stream) (r : Nat) (v : Word) : Stream := { x with a := x.a.set r v }

/-- A target `k` bytes further. -/
def tgtAdd (g : Tgt) (k : Nat) : Tgt :=
  match g with
  | .dram i o => .dram i (o + k)
  | .spad a => .spad (a + k)
  | .hole a => .hole (a + k)
  | .peer d a => .peer d (a + k)

/-- Global address of a target. -/
def tgtGlobal (s : State) (g : Tgt) : Nat :=
  match g with
  | .peer d a => d * 2 ^ 45 + a
  | g => globalOf s (tgtAddr s g)

/-- One side of an EMIT: a host address within one page, or a global address; otherwise a cause. -/
def emitSide (s : State) (x : Stream) (r : Nat) (indexed : Bool) (len : Nat) (write : Bool) : Except Nat (Nat × Bool) :=
  match regMove x r (if indexed then x.x.toNat * pdStride x.q.desc else 0) with
  | none => .error 2
  | some v =>
    if pdHost x.q.desc r then
      if 4096 < v.toNat % 4096 + len then .error 2 else .ok (v.toNat, true)
    else match locTgt s v len write with
      | .ok (.hole _) => .error 2
      | .ok g => .ok (tgtGlobal s g, false)
      | .error e => .error (prtCz e)

/-! ### Chunks (R322–R324) -/

def sideLocal (s : State) (g : Nat) (host : Bool) : Bool := !host && g / 2 ^ 45 == ownId s
def sidePeer (s : State) (g : Nat) (host : Bool) : Bool := !host && g / 2 ^ 45 != ownId s
def chunkPeer (s : State) (k : Chunk) : Bool := sidePeer s k.src k.srcHost || sidePeer s k.dst k.dstHost

/-- Two sides overlap. -/
def sideMeets (a : Nat) (ha : Bool) (na b : Nat) (hb : Bool) (nb : Nat) : Bool := ha == hb && decide (a < b + nb ∧ b < a + na)

/-- An earlier chunk of the context must be performed before `k` touches these addresses (R307). (DESIGN CHOICE; log entry 22.) -/
def chunkHeld (x : Stream) (k : Chunk) : Bool :=
  x.chunks.any (fun e => decide (e.n < k.n) &&
    (sideMeets e.dst e.dstHost e.len k.src k.srcHost k.len || sideMeets e.dst e.dstHost e.len k.dst k.dstHost k.len ||
     sideMeets e.src e.srcHost e.len k.dst k.dstHost k.len))

def setChunk (x : Stream) (k : Chunk) : Stream := { x with chunks := x.chunks.map (fun e => if e.n = k.n then k else e) }

/-- Request slots in use by a context and by a porter. -/
def ctxSlots (x : Stream) : Nat :=
  min 64 (x.chunks.foldl (fun n k => n + (if k.out = 0 ∧ k.next = 0 then ceilDiv k.len 2048 else k.out)) 0)
def outSlots (x : Stream) : Nat := x.chunks.foldl (fun n k => n + k.out) 0
def prtSlots (s : State) (t : Nat) : Nat :=
  min 256 ((prtOf s t).ctxs.foldl (fun n e => n + ((e.2.map ctxSlots).getD 0)) 0)
def prtOut (s : State) (t : Nat) : Nat := (prtOf s t).ctxs.foldl (fun n e => n + ((e.2.map outSlots).getD 0)) 0

/-- A chunk's requests pass through the staging buffer: both sides are local DRAM, or they are on two modules (R322).
(DESIGN CHOICE; log entry 22.) -/
def needStage (s : State) (k : Chunk) : Bool :=
  !k.srcHost && !k.dstHost &&
    (k.src / 2 ^ 45 != k.dst / 2 ^ 45 || (k.src / 2 ^ 45 == ownId s && decide (k.src % 2 ^ 45 < sramBase ∧ k.dst % 2 ^ 45 < sramBase)))

/-- Bytes of a porter's 64 KiB staging buffer that requests hold. -/
def stageUsed (s : State) (t : Nat) : Nat :=
  (prtOf s t).ctxs.foldl (fun n e => n + ((e.2.map (fun x => x.chunks.foldl (fun n k => n + k.staged) 0)).getD 0)) 0

/-- Space for `n` more bytes of a chunk in the staging buffer, and a request slot, are free (R328). (DESIGN CHOICE; log entry 22.) -/
def chunkRoom (s : State) (t : Nat) (x : Stream) (k : Chunk) (n : Nat) : Bool :=
  (!needStage s k || decide (stageUsed s t + n ≤ 65536)) && decide (outSlots x < 64 ∧ prtOut s t < 256)

/-- Read local bytes in units that share a poison mark: offset, bytes, poison. -/
def readUnits (s : State) (t : Nat) (g : Tgt) (n : Nat) : List (Nat × List Byte × Bool) × State :=
  let a := tgtAddr s g
  let (bad, s) := tgtScan s g n .clean
  let (_, _, s') := agentRead s t g n
  let s := match g with
    | .dram i o => flushOverlap s (t / 16) (rgnBase s i + o) n
    | _ => s
  let us := (psnKeys a n).map (fun k =>
    let lo := max a k
    let hi := min (a + n) (k + psnUnit a)
    match g with
    | .hole _ => (lo - a, List.replicate (hi - lo) 0, false)
    | _ => (lo - a, memBytes s lo (hi - lo), psnAt s k || bad.contains k))
  (us, s')

/-- Write units to a local target; the first units land first. -/
def writeUnits (s : State) (t c : Nat) (g : Tgt) (us : List (Nat × List Byte × Bool)) : State :=
  us.foldl (fun s u => agentWrite s t (prtAgent t c) (tgtAdd g u.1) u.2.1 u.2.2) s

/-- The local target at a global address. -/
def localAt (s : State) (g n : Nat) (write : Bool) : Option Tgt :=
  match localTgt s (g % 2 ^ 45) n write with
  | .ok (.peer _ _) => none
  | .ok x => some x
  | .error _ => none

/-- Bytes of the next request of a chunk: at most 2 KiB, within a 2 KiB boundary of either side. -/
def pieceLen (k : Chunk) : Nat :=
  min (k.len - k.next) (min (2048 - (k.src + k.next) % 2048) (2048 - (k.dst + k.next) % 2048))

/-- Issue one request of a chunk that has a peer's side; `none` when no path exists. (DESIGN CHOICE; log entry 22.) -/
def issueOne (s : State) (t c : Nat) (x : Stream) (k : Chunk) : Option State :=
  let n := pieceLen k
  let lc := getB x.q.desc 8
  let src := k.src + k.next
  let dst := k.dst + k.next
  let mark (s : State) : State := setCtx s t c (some (setChunk x { k with
    next := k.next + n, out := k.out + 1, staged := k.staged + (if needStage s k then n else 0) }))
  if sidePeer s src k.srcHost then
    (sendReq s kREAD (src / 2 ^ 45) (src % 2 ^ 45) n [] false lc (.chunkRead t c k.n k.next)).map mark
  else
    let (bs, psn, s) :=
      if k.srcHost then ((k.data.drop k.next).take n, false, s)
      else match localAt s src n false with
        | some g => agentReadEcc s t g n .clean
        | none => (List.replicate n 0, false, s)
    (sendReq s kWRITE (dst / 2 ^ 45) (dst % 2 ^ 45) n bs psn lc (.chunkWrite t c k.n)).map mark

/-- Issue requests to peers while staging space and slots are free (R328). -/
def prtPump : Nat → State → Nat → Nat → State
  | 0, s, _, _ => s
  | f + 1, s, t, c =>
    match ctxOf s t c with
    | none => s
    | some x =>
      match x.chunks.find? (fun k => chunkPeer s k && decide (k.next < k.len) && (!k.srcHost || k.data != []) && !chunkHeld x k &&
          chunkRoom s t x k (pieceLen k)) with
      | none => s
      | some k =>
        match issueOne s t c x k with
        | some s => prtPump f s t c
        | none => prtFail s t c 4 x

/-! ### Signals and completion (R316, R324, R332) -/

/-- A stream whose host transfer failed has completed what came before it: DELIVERED is final and CONTAIN is raised. -/
def failIfDone (s : State) (t c : Nat) : State :=
  match ctxOf s t c with
  | some x =>
    if x.failAt.isSome ∧ x.chunks = [] ∧ x.sigs = [] ∧ !(s.reqs.any (fun r => r.cont == .waySig t c)) then
      prtFail s t c 5 { x with emits := x.emits, chunks := match x.failAt with
        | some n => [⟨n, 0, false, 0, false, 1, none, 0, 0, [], 0⟩]
        | none => [] }
    else s
  | none => s

/-- Perform the signals that have become due, in order. (DEDUCED; log entry 23.) -/
def waySettle : Nat → State → Nat → Nat → State
  | 0, s, _, _ => s
  | f + 1, s, t, c =>
    match ctxOf s t c with
    | none => s
    | some x =>
      match x.sigs with
      | [] => failIfDone s t c
      | g :: rest =>
        if x.chunks.any (fun k => decide (k.n < g.after)) then s
        else
          let s := releaseFlush s (prtAgent t c)
          if agentPending s (prtAgent t c) then s
          else
            let s := setCtx s t c (some { x with sigs := rest })
            match g.at_ with
            | none => waySettle f (signalOrErr s t g.sem 1) t c
            | some (d, tile) =>
              if d = ownId s then waySettle f (signalOrErr s tile g.sem 1) t c
              else if !peerUsable s d then prtFail s t c 4 x
              else match sendReq s kSIGNAL d 0 8 (syncData tile g.sem 1) false false (.waySig t c) with
                | some s => waySettle f s t c
                | none => prtFail s t c 4 x

/-- What follows a change of a context: its requests, then its signals; then requests of other contexts that waited for the slots and the space. -/
def prtNext (s : State) (t c : Nat) : State :=
  let s := prtPump 9000 s t c
  let s := match ctxOf s t c with
    | some x => waySettle (x.sigs.length + 1) s t c
    | none => s
  (((prtOf s t).ctxs.map (·.1)).filter (fun k => k != c)).foldl (fun s k => prtPump 9000 s t k) s

/-! ### Beginning -/

/-- The task of a descriptor is being suspended (R334). -/
def tagSuspending (s : State) (t tag : Nat) : Bool :=
  (coreOf s t).suspending.isSome && ((coreOf s t).task.map (·.id)) == some tag

/-- The first queued descriptor of an idle context begins: the waybill is read and checked (R316, R319). -/
def execStream (t : BitVec 8) (c : BitVec 4) (s : State) : Res :=
  let t := t.toNat
  let c := c.toNat
  let p := prtOf s t
  match p.queue.find? (fun q => pdCtx q.desc == c) with
  | none => absent "no descriptor is queued for the context"
  | some q =>
    if s.boot ≠ 0 ∨ (coreOf s t).suspending.isSome ∨ (ctxOf s t c).isSome ∨ p.stopped.contains c then
      absent "no descriptor begins on the context now"
    else
      let s := setPrt s t { p with queue := p.queue.erase q }
      let x : Stream := { q := q, way := [], wpos := 0, loops := [], x := 0, a := (List.range 4).map (fun i => BitVec.ofNat 64 (getF q.desc (128 + 64 * i) 64)),
                          emits := 0, chunks := [], sigs := [], begin_ := s.now, waitSem := none, indexing := false, ended := false,
                          failAt := none, lastProgress := s.now }
      .next (if !pdLegal q.desc then prtFail s t c 1 x
        else match wayRead s t (pdWay q.desc) 32 0 with
          | (.error e, s) => prtFail s t c e x
          | (.ok ws, s) => if wayLegal ws then setCtx (csrPut s (prtDelivAddr t c) 0) t c (some { x with way := ws }) else prtFail s t c 1 x)

/-! ### Instructions -/

/-- The context's next instruction, when it is this one and the context executes. -/
def wayNext (s : State) (t c op : Nat) : Option (Stream × Word) :=
  match ctxOf s t c with
  | none => none
  | some x =>
    let w := x.way.getD x.wpos 0
    if s.boot = 0 ∧ !x.ended ∧ x.failAt.isNone ∧ x.waitSem.isNone ∧ !x.indexing ∧ !tagSuspending s t x.q.tag ∧ wiOp w = op then some (x, w) else none

/-- One waybill instruction: absent when it is not the context's next. -/
def wayStep (s : State) (t : BitVec 8) (c : BitVec 4) (op : Nat) (eff : Nat → Nat → Stream → Word → State) : Res :=
  match wayNext s t.toNat c.toNat op with
  | some (x, w) => .next (eff t.toNat c.toNat x w)
  | none => absent "this is not the context's next instruction"

def execWaybillLoop (t : BitVec 8) (c : BitVec 4) (s : State) : Res :=
  wayStep s t c 1 (fun t c x w =>
    setCtx s t c (some (if wiCount w = 0 then wayAdvance s x (wiLoopLen w)
      else wayAdvance s { x with loops := ⟨x.wpos + 1, wiLoopLen w, wiCount w, 0⟩ :: x.loops })))

def execAddAddr (t : BitVec 8) (c : BitVec 4) (s : State) : Res :=
  wayStep s t c 2 (fun t c x w =>
    match regMove x (wiReg w) (wiImm w) with
    | some v => setCtx s t c (some (wayAdvance s (setReg x (wiReg w) v)))
    | none => prtFail s t c 2 x)

/-- LOAD_INDEX ends with its value: X is set and the register advances. -/
def indexDone (s : State) (t c : Nat) (v : Nat) : State :=
  match ctxOf s t c with
  | none => s
  | some x =>
    let w := x.way.getD x.wpos 0
    match regMove x (wiReg w) (if getB w 6 then 8 else 4) with
    | some a => setCtx s t c (some (wayAdvance s (setReg { x with x := BitVec.ofNat 64 v, indexing := false } (wiReg w) a)))
    | none => prtFail s t c 2 x

/-- LOAD_INDEX: from local memory at once; from a peer or the host when the bytes come. The command that brings the host's bytes is CHUNK_PERFORMED
with the number of the next chunk. (DESIGN CHOICE; log entry 23.) -/
def execLoadIndex (t : BitVec 8) (c : BitVec 4) (s : State) : Res :=
  wayStep s t c 3 (fun t c x w =>
    let n := if getB w 6 then 8 else 4
    let v := x.a.getD (wiReg w) 0
    if pdHost x.q.desc (wiReg w) then setCtx (emitOut s (.hostRead v.toNat n)) t c (some { x with indexing := true })
    else match locTgt s v n false with
      | .error e => prtFail s t c (prtCz e) x
      | .ok (.peer d a) =>
        match sendReq s kREAD d a n [] false (getB x.q.desc 8) (.index t c) with
        | some s => setCtx s t c (some { x with indexing := true })
        | none => prtFail s t c 4 x
      | .ok g =>
        let (bs, _, s) := agentReadEcc s t g n .clean
        indexDone s t c (ofLE bs))

/-- Bytes that a LOAD_INDEX of the context waits for from the host; none otherwise. (DEDUCED, DESIGN CHOICE; log entry 23.) -/
def hostIndex (x : Stream) : Option Nat :=
  let w := x.way.getD x.wpos 0
  if x.indexing && wiOp w == 3 && pdHost x.q.desc (wiReg w) then some (if getB w 6 then 8 else 4) else none

/-- SPOST and DPOST (R322). (DESIGN CHOICE; log entry 22.) -/
def emitPost (x : Stream) (w : Word) : Option Stream :=
  let x := { x with emits := x.emits + 1 }
  match (if getB w 10 then (regMove x (wiReg w) (wiLen w : Nat)).map (setReg x (wiReg w)) else some x) with
  | none => none
  | some x => if getB w 11 then (regMove x (wiDst w) (wiLen w : Nat)).map (setReg x (wiDst w)) else some x

/-- EMIT: one chunk, or under RESUME its arithmetic alone (R333). -/
def execEmit (t : BitVec 8) (c : BitVec 4) (s : State) : Res :=
  wayStep s t c 4 (fun t c x w =>
    let len := wiLen w
    if x.emits < pdResume x.q.desc then
      match emitPost x w with
      | some x => setCtx s t c (some (wayAdvance s x))
      | none => prtFail s t c 2 x
    else match emitSide s x (wiReg w) (getB w 8) len false, emitSide s x (wiDst w) (getB w 9) len true with
      | .error e, _ => prtFail s t c e x
      | _, .error e => prtFail s t c e x
      | .ok (src, sh), .ok (dst, dh) =>
        if sh && dh then prtFail s t c 2 x
        else
          let k : Chunk := { n := x.emits, src := src, srcHost := sh, dst := dst, dstHost := dh, len := len,
                             deadline := if getB x.q.desc 10 && wiDl w != 0 then some (x.begin_ + 1000 * wiDl w) else none,
                             next := 0, out := 0, data := [] }
          let s := if sh then emitOut s (.hostRead src len) else s
          let x' := { x with chunks := x.chunks ++ [k] }
          match emitPost x' w with
          | some x =>
            let s := putDeliv s t c x
            prtNext (setCtx s t c (some (wayAdvance s x))) t c
          | none =>
            -- the EMIT is issued; the carry stops the stream after it
            let s := prtNext (setCtx s t c (some { x' with emits := x.emits + 1 })) t c
            match ctxOf s t c with
            | some x => prtFail s t c 2 x
            | none => s)

/-- A SIGNAL or WAIT lies before the first EMIT that a resumed stream performs (R333). (DEDUCED; log entry 23.) -/
def beforeResume (x : Stream) : Bool := pdResume x.q.desc != 0 && decide (x.emits ≤ pdResume x.q.desc)

/-- SIGNAL: performed once every earlier EMIT is (R324). -/
def execWaybillSignal (t : BitVec 8) (c : BitVec 4) (s : State) : Res :=
  wayStep s t c 5 (fun t c x w =>
    if beforeResume x then setCtx s t c (some (wayAdvance s x))
    else
      let g : WaySig := ⟨x.emits, wiSem w, if getB w 16 then some (getF w 17 11, getF w 28 8) else none⟩
      prtNext (setCtx s t c (some (wayAdvance s { x with sigs := x.sigs ++ [g] }))) t c)

def execWaybillWait (t : BitVec 8) (c : BitVec 4) (s : State) : Res :=
  wayStep s t c 6 (fun t c x w =>
    if beforeResume x then setCtx s t c (some (wayAdvance s x))
    else
      let (got, s) := semWait s t (wiSem w) 1 (16 + c)
      setCtx s t c (some (if got then wayAdvance s x else { x with waitSem := some (wiSem w) })))

/-- The guard of a PRED (R320, R321). -/
def predHolds (x : Stream) (w : Word) : Bool :=
  match x.loops.reverse[getF w 4 3]? with
  | none => false
  | some l =>
    match getF w 7 2 with
    | 0 => l.iter == 0
    | 1 => l.iter + 1 == l.count
    | 2 => l.iter % getF w 16 16 + 1 == getF w 16 16
    | _ => l.iter + 1 != l.count

def execWaybillPred (t : BitVec 8) (c : BitVec 4) (s : State) : Res :=
  wayStep s t c 7 (fun t c x w => setCtx s t c (some (wayAdvance s x (if predHolds x w then 0 else wiSpan w))))

def execWaybillEnd (t : BitVec 8) (c : BitVec 4) (s : State) : Res :=
  wayStep s t c 8 (fun t c x _ => setCtx s t c (some { x with ended := true, lastProgress := s.now }))

/-! ### Chunks end -/

/-- Chunk `n` is performed at `s.now`: counted, a late one reported (R330), and what waited for it goes on. (DESIGN CHOICE; log entry 22.) -/
def chunkDone (s : State) (t c : Nat) (n : Nat) : State :=
  match ctxOf s t c with
  | none => s
  | some x =>
    match x.chunks.find? (fun k => k.n == n) with
    | none => s
    | some k =>
      let x := { x with chunks := x.chunks.filter (fun e => e.n != n), lastProgress := s.now }
      let s := putDeliv (setCtx s t c (some x)) t c x
      let s := csrAdd (csrAdd s (tileCsr t 0x6040) k.len) (tileCsr t 0x6048) 1
      let s := match k.deadline with
        | some d =>
          if d < s.now then
            evqPost (raise (csrAdd s (tileCsr t 0x6050) 1) (tileSrc 5 t) 0x26 NOTE) 3 (tileSrc 5 t) NOTE (t + c * 2 ^ 8 + n * 2 ^ 12)
              ((s.now - d) / 1000)
          else s
        | none => s
      prtNext s t c

/-- Bytes for the host: one write where none is poisoned, else one for each run of units that share a mark (R323). (DESIGN CHOICE; log entry 22.) -/
def hostDeliver (s : State) (a : Nat) (us : List (Nat × List Byte × Bool)) : State :=
  if us.any (·.2.2) then us.foldl (fun s u => emitOut s (.hostWrite (a + u.1) u.2.1 u.2.2)) s
  else emitOut s (.hostWrite a (us.flatMap (fun u => u.2.1)))

/-- The last request of chunk `n` is performed. Of a chunk within the module this is where the bytes move; `hostData` is what a host read
brought. (DESIGN CHOICE; log entry 22.) -/
def execChunkPerformed (t : BitVec 8) (c : BitVec 4) (n : BitVec 32) (hostData : List Byte) (time : Nat) (s : State) : Res :=
  let t := t.toNat
  let c := c.toNat
  match ctxOf s t c with
  | none => absent "the context is idle"
  | some x =>
    match x.chunks.find? (fun k => k.n == n.toNat) with
    | none =>
      if s.now ≤ time ∧ n.toNat = x.emits ∧ hostIndex x = some hostData.length then .next (indexDone (atTime s time) t c (ofLE hostData))
      else absent "no such chunk is in flight"
    | some k =>
      if time < s.now ∨ chunkHeld x k then absent "the chunk is not performed yet"
      else
        let s := atTime s time
        let wait := k.srcHost && k.data == []
        if hostData.length ≠ (if wait then k.len else 0) then absent "the host's bytes do not match the chunk"
        else if chunkPeer s k then
          if wait then .next (prtNext (setCtx s t c (some (setChunk x { k with data := hostData }))) t c)
          else if k.next = k.len ∧ k.out = 0 then .next (chunkDone s t c k.n)
          else absent "requests of the chunk are outstanding"
        else if !chunkRoom s t x k (min k.len 2048) then absent "the staging buffer or the request slots are full"
        else
          let (us, s) :=
            if k.srcHost then ([(0, hostData, false)], s)
            else match localAt s k.src k.len false with
              | some g => readUnits s t g k.len
              | none => ([(0, List.replicate k.len 0, false)], s)
          let s :=
            if k.dstHost then hostDeliver s k.dst us
            else match localAt s k.dst k.len true with
              | some g => writeUnits s t c g us
              | none => s
          .next (chunkDone s t c k.n)

/-- A request of `len` bytes of a chunk was answered; its staging space is free again. -/
def chunkAnswered (s : State) (t c n len : Nat) : State :=
  match ctxOf s t c with
  | none => s
  | some x =>
    let x := { x with lastProgress := s.now
                      chunks := x.chunks.map (fun k => if k.n = n then { k with out := k.out - 1, staged := k.staged - len } else k) }
    prtNext (setCtx s t c (some x)) t c

/-- A peer's bytes for a chunk arrived: they go on to the destination. -/
def chunkData (s : State) (t c n off : Nat) (bs : List Byte) (psn : Bool) : State :=
  match ctxOf s t c with
  | none => s
  | some x =>
    match x.chunks.find? (fun k => k.n == n) with
    | none => s
    | some k =>
      let dst := k.dst + off
      if k.dstHost then chunkAnswered (emitOut s (.hostWrite dst bs psn)) t c n bs.length
      else if sidePeer s dst false then
        match sendReq s kWRITE (dst / 2 ^ 45) (dst % 2 ^ 45) bs.length bs psn (getB x.q.desc 8) (.chunkWrite t c n) with
        | some s => setCtx s t c (some { x with lastProgress := s.now })
        | none => prtFail s t c 4 x
      else
        let s := match localAt s dst bs.length true with
          | some g => agentWrite s t (prtAgent t c) g bs psn
          | none => s
        chunkAnswered s t c n bs.length

/-- A request of a stream was refused at its peer, or never answered. -/
def streamReqFail (s : State) (t c : Nat) : State :=
  match ctxOf s t c with
  | some x => prtFail s t c 4 x
  | none => s

/-- A remote SIGNAL of a stream was acknowledged. -/
def waySigDone (s : State) (t c : Nat) : State :=
  match ctxOf s t c with
  | some x => failIfDone (setCtx s t c (some { x with lastProgress := s.now })) t c
  | none => s

/-- END is reached and everything emitted and signalled is performed (R316). -/
def execStreamComplete (t : BitVec 8) (c : BitVec 4) (s : State) : Res :=
  let t := t.toNat
  let c := c.toNat
  match ctxOf s t c with
  | none => absent "the context is idle"
  | some x =>
    let s := releaseFlush s (prtAgent t c)
    if !x.ended || x.failAt.isSome || x.chunks != [] || x.sigs != [] || s.reqs.any (fun r => r.cont == .waySig t c) ||
        agentPending s (prtAgent t c) then absent "the stream is not complete"
    else
      let s := ctxIdle s t c
      .next (if getB x.q.desc 9 then signalOrErr s t (getF x.q.desc 16 12) 1 else s)

/-- The host transfer of chunk `n` fails (R332): later chunks in flight and their signals go, their destinations are undefined, and earlier
ones are completed. -/
def execHostXferFail (t : BitVec 8) (c : BitVec 4) (n : BitVec 32) (s : State) : Res :=
  let t := t.toNat
  let c := c.toNat
  match ctxOf s t c with
  | none => absent "the context is idle"
  | some x =>
    let n := n.toNat
    if !(x.chunks.any (fun k => k.n == n && (k.srcHost || k.dstHost)) || ((hostIndex x).isSome && n == x.emits)) then
      absent "no such host transfer is in flight"
    else
      if (x.failAt.map (fun m => decide (m ≤ n))).getD false then absent "the stream has failed before it"
      else
        let lost := x.chunks.filter (fun e => decide (n ≤ e.n))
        let s := lost.foldl (fun s e =>
          if sideLocal s e.dst e.dstHost then
            match localAt s e.dst e.len true with
            | some (.dram i o) =>
              let a := rgnBase s i + o
              undefSpan (flushOverlap s (t / 16) a e.len) a (a + e.len)
            | some (.spad a) => undefSpan s a (a + e.len)
            | _ => s
          else s) s
        let s := match x.waitSem with
          | some m => semLeave s t m (16 + c)
          | none => s
        let x := (ctxOf s t c).getD x
        let x := { x with waitSem := none, indexing := false, failAt := some n, chunks := x.chunks.filter (fun e => decide (e.n < n)),
                          sigs := x.sigs.filter (fun g => decide (g.after ≤ n)) }
        let gone (r : Req) : Bool := match r.cont with
          | .chunkRead t' c' m _ => t' == t && c' == c && decide (n ≤ m)
          | .chunkWrite t' c' m => t' == t && c' == c && decide (n ≤ m)
          | .index t' c' => t' == t && c' == c
          | _ => false
        let s := { s with reqs := s.reqs.map (fun r => if gone r then { r with cont := .none_ } else r) }
        let s := setCtx s t c (some x)
        .next (failIfDone (waySettle (x.sigs.length + 1) s t c) t c)

/-! ### The stall timer (R335) -/

def execStallLimit (t : BitVec 8) (c : BitVec 4) (time : Nat) (s : State) : Res :=
  let t := t.toNat
  let c := c.toNat
  match ctxOf s t c with
  | none => absent "the context is idle"
  | some x =>
    if time < s.now ∨ stallHeld s t c x ∨ time < x.lastProgress + polVal s 0x11 * 1000000 then absent "the stall timer has not run out"
    else .next (prtFail (atTime s time) t c 6 x)

/-! ### The stream record (R334, Table 11-3) -/

/-- A context that has stopped issuing has nothing left to do before it is recorded. -/
def streamQuiet (s : State) (t c : Nat) (x : Stream) : Bool :=
  x.chunks == [] && x.sigs == [] && !x.indexing &&
    !(s.reqs.any (fun r => r.cont == .waySig t c)) && !agentPending s (prtAgent t c)

/-- DEDUCED; log entry 23. -/
def streamRecord (x : Stream) : List Byte :=
  let iters := (x.loops.reverse.map (·.iter)) ++ List.replicate (6 - x.loops.length) 0
  leBytes 64 x.q.desc.toNat ++ leBytes 8 (x.wpos % 32 + x.loops.length * 2 ^ 5) ++ leBytes 8 x.x.toNat ++
    x.a.flatMap (fun v => leBytes 8 v.toNat) ++ iters.flatMap (fun i => leBytes 4 i) ++ leBytes 4 x.emits ++ leBytes 4 (delivered x) ++
    leBytes 8 x.begin_ ++ leBytes 40 0

/-- The loops of a waybill whose body holds position `pos`, outermost first: start, length and COUNT. -/
def loopsAround (ws : List Word) (pos : Nat) : List (Nat × Nat × Nat) :=
  ws.zipIdx.filterMap (fun w =>
    if wiOp w.1 = 1 ∧ w.2 < pos ∧ pos ≤ w.2 + wiLoopLen w.1 then some (w.2 + 1, wiLoopLen w.1, wiCount w.1) else none)

/-- A stream as its record gives it; `none` when its waybill no longer reads as one. -/
def streamOf (s : State) (t addr tag elapsed : Nat) (r : List Byte) : Option (Nat × Stream) × State :=
  let n (lo k : Nat) : Nat := ofLE ((r.drop lo).take k)
  let d : Desc := BitVec.ofNat 512 (n 0 64)
  match wayRead s t (pdWay d) 32 0 with
  | (.error _, s) => (none, s)
  | (.ok ws, s) =>
    let pos := n 64 1 % 32
    let ls := (loopsAround ws pos).zipIdx.map (fun l => (⟨l.1.1, l.1.2.1, l.1.2.2, n (112 + 4 * l.2) 4⟩ : Loop))
    (some (pdCtx d,
      { q := ⟨d, addr, tag, []⟩, way := ws, wpos := pos, loops := ls.reverse, x := BitVec.ofNat 64 (n 72 8),
        a := (List.range 4).map (fun i => BitVec.ofNat 64 (n (80 + 8 * i) 8)), emits := n 136 4, chunks := [], sigs := [],
        begin_ := n 144 8, waitSem := none, indexing := false, ended := false, failAt := none, lastProgress := s.now - elapsed }), s)

/-- PRT_STATUS as it reads now (Table 11-5). -/
def prtStatus (s : State) (t : Nat) : Word :=
  let p := prtOf s t
  let busy := p.ctxs.foldl (fun m e => m ||| 2 ^ e.1) 0
  let wait := p.ctxs.foldl (fun m e => if ((e.2.map (fun x => x.waitSem.isSome)).getD false) then m ||| 2 ^ e.1 else m) 0
  BitVec.ofNat 64 (busy + wait * 2 ^ 16 + p.queue.length % 64 * 2 ^ 32 + prtSlots s t * 2 ^ 38)

end Sys2Proof.Machine
end

