-- ==== Sys2Proof/Machine/SyncEvents.lean ====
section
/-! DEFINITION. Events of the synchronisation objects: stalls, arrivals at barrier homes, releases, the group stagger and failed
notifications (chapter 10, R501). -/

namespace Sys2Proof.Machine

/-- The semaphore of tile `t` that agent `who` queues on, and since when. -/
def semWaitOf (s : State) (t who : Nat) : Option (Nat × Nat) :=
  (List.range 256).findSome? (fun n => ((semQueue s t n).find? (fun w => w.who == who)).map (fun w => (n, w.since)))

/-- The tally counter that the core of tile `t` queues on, and since when. -/
def tallyWaitOf (s : State) (t : Nat) : Option (Nat × Nat) :=
  (List.range 128).findSome? (fun n => ((tallyQueue s t n).head?).map (fun w => (n, w.since)))

/-- A wait has stayed queued for SYNC_LIMIT (R314). The wait stays; it is timed anew. (DESIGN CHOICE; log entry 14.) -/
def execSyncStall (t : BitVec 8) (who : BitVec 5) (time : Nat) (s : State) : Res :=
  let t := t.toNat
  let limit := polVal s 0x10 * 1000000
  let due (since : Nat) : Bool := decide (s.now ≤ time ∧ since + limit ≤ time)
  match semWaitOf s t who.toNat with
  | some (n, since) =>
    if due since then
      let s := atTime s time
      let s := setSemQueue s t n ((semQueue s t n).map (fun w => if w.who = who.toNat then { w with since := time } else w))
      .next (synMisuse s t 0 n 5)
    else absent "the wait has not reached SYNC_LIMIT"
  | none =>
    match (if who = 0 then tallyWaitOf s t else none) with
    | some (n, since) =>
      if n < 96 ∧ due since = true then
        let s := atTime s time
        let s := setTallyQueue s t n ((tallyQueue s t n).map (fun w => { w with since := time }))
        .next (synMisuse s t 1 n 5)
      else absent "the wait is not timed or has not reached SYNC_LIMIT"
    | none => absent "the agent waits for nothing"

/-- The oldest arrival of tile `t` on its way to die context `k` reaches its home. -/
def execDieBarrierArrival (k : BitVec 5) (t : BitVec 8) (s : State) : Res :=
  let a := (k.toNat, t.toNat)
  if s.barArr.contains a then .next (dieArrive { s with barArr := s.barArr.erase a } k.toNat t.toNat)
  else absent "no such arrival is on its way"

/-- A release reaches tile `t`: its view advances, and after the last tile the context may open again (R295, R297). Contexts 32 to 63 are
the fabric contexts. (DESIGN CHOICE; log entry 14.) -/
def execBarrierRelease (t : BitVec 8) (k : BitVec 6) (s : State) : Res :=
  let t := t.toNat
  let k := k.toNat
  let l := relTiles s k
  if l.contains t then
    let l := l.erase t
    let s := viewAdvance (setRel s k l) t (64 + k)
    .next (if l ≠ [] then s
      else if k < 32 then dieOpen (csrSetF s (dieState k) 63 1 0) k
      else fabOpen 3 (csrSetF s (fabState (k - 32)) 41 1 0) (k - 32))
  else absent "no release is on its way to the tile"

/-- The group offset of an opened fabric context has passed: its release goes to the tiles (R501). -/
def execGroupStagger (k : BitVec 5) (time : Nat) (s : State) : Res :=
  match s.groupWait.find? (fun g => g.1 == k.toNat) with
  | some g =>
    if g.2 ≤ time ∧ s.now ≤ time then
      let s := atTime { s with groupWait := s.groupWait.erase g } time
      .next (fabOpen 3 (fabRelease s k.toNat (if k = 0 then [] else fabTiles s)) k.toNat)
    else absent "the offset has not passed"
  | none => absent "no release waits for the offset"

/-- A host-side error on a notification write: the slot is disabled (R303). -/
def execNotifyWriteError (t : BitVec 8) (j : BitVec 3) (s : State) : Res :=
  let a := tileCsr t.toNat (0x8100 + 0x10 * j.toNat)
  if csrF s a 0 1 = 1 then .next (raise (csrSetF s a 0 1 0) (tileSrc 7 t.toNat) 0x25 CONTAIN)
  else absent "the slot is not enabled"

/-- SYN_STATUS as it reads now (Table 10-9). -/
def synStatus (s : State) (t : Nat) : Word :=
  let sems := (List.range 256).foldl (fun n i => n + (semQueue s t i).length) 0
  let tals := (List.range 128).foldl (fun n i => n + (tallyQueue s t i).length) 0
  BitVec.ofNat 64 (sems % 32 + tals % 32 * 2 ^ 5)

end Sys2Proof.Machine
end

