-- ==== Sys2Proof/Machine/Operands.lean ====
section
/-! DEFINITION. Operands of the tile core: scalar registers, predicates, sizes, effective addresses, amounts and readiness (chapter 9). -/

namespace Sys2Proof.Machine

/-- Register s`i`; s0 reads as zero (R264). -/
def getR (c : Core) (i : BitVec 5) : Word := if i = 0 then 0 else c.regs[i.toNat]'(i.isLt)
/-- Write register s`i`; a write to s0 is discarded (R264). -/
def setR (c : Core) (i : BitVec 5) (v : Word) : Core :=
  if i = 0 then c else { c with regs := c.regs.set i.toNat v i.isLt }
def getP (c : Core) (i : Nat) : Bool := c.preds.getLsbD i
def setP (c : Core) (i : Nat) (b : Bool) : Core :=
  { c with preds := if b then c.preds ||| BitVec.ofNat 8 (2 ^ i) else c.preds &&& ~~~(BitVec.ofNat 8 (2 ^ i)) }

/-- The interrupt due between instructions: the lowest bit pending and enabled while IE is set (R277). (DESIGN CHOICE; log entry 8.) -/
def irqDue (s : State) (t : Nat) : Option Nat :=
  let m := csrF s (tileCsr t 0x30) 0 3 &&& csrF s (tileCsr t 0x28) 0 3
  if csrF s (tileCsr t 0) 0 1 = 1 then [0, 1, 2].find? (fun i => m.testBit i) else none

/-- The core of tile `t` executes its next instruction: a task is on it, it neither blocks nor suspends, and no interrupt is due.
(DESIGN CHOICE; log entry 8.) -/
def coreReady (s : State) (t : Nat) : Bool :=
  let c := coreOf s t
  s.boot == 0 && c.task.isSome && c.blocked.isNone && c.suspending.isNone && (irqDue s t).isNone

/-- Local address of the word of the instruction store that holds the core's next instruction (R281). -/
def codeWord (s : State) (t : Nat) : Nat := sramBase + t * 0x800000 + 0x600000 + (coreOf s t).pc.toNat / 8 * 8

/-- The injection that the check of the next instruction's word finds (R281, R528). -/
def fetchHit (s : State) (t : Nat) : Option Inj := armedInj s (tileSrc 8 t) (codeWord s t) 8

/-- The core executes its next instruction, and the check of its word finds nothing. -/
def coreGo (s : State) (t : Nat) : Bool := coreReady s t && (fetchHit s t).isNone

/-- The steward writes a tile's instruction store again from its copy of the CODE section (R281). -/
def codeRewrite (s : State) (t : Nat) : State :=
  match ((slotOfCluster s (t / 16)).bind (planOf s)).bind (fun p => p.code.find? (fun e => e.1 == t)) with
  | some e => storeBytes s (sramBase + t * 0x800000 + 0x600000) e.2
  | none => s

/-- An outstanding load will write one of these registers (R274). -/
def regBusy (c : Core) (rs : List (BitVec 5)) : Bool :=
  c.accs.any (fun a => !a.store && rs.any (fun r => r != 0 && r.toNat == a.rd))

/-- A fault at the core is recorded once with the offset, reported, and traced for its task (R280). A remote failure is reported as REMOTE_FAILED
(R28, R182). -/
def coreFault (s : State) (t cause pc : Nat) (k : Option Task) (inj : Bool := false) : State :=
  let held := csrF s (tileCsr t 0x38) 8 1 = 1
  let s := if held then s else csrPut (errOnce s (tileCsr t 0x38) 8 cause) (tileCsr t 0x40) (BitVec.ofNat 64 (pc % 2 ^ 17))
  let s := raise s (tileSrc 0 t) (if cause = 5 then 0x15 else if cause = 8 then 0x24 else 0x20) CONTAIN none inj
  match k with
  | some k => trace s (t / 16) 0x08 t k.wq k.level k.rcd.taskId cause pc
  | none => s

/-- Fault at the core (R280): the task ends as failed. Loads in flight are dropped. -/
def coreFailAt (s : State) (t cause : Nat) (pc : Nat) (inj : Bool := false) : State :=
  let c := coreOf s t
  let s := csrSetF (coreFault s t cause pc c.task inj) (tileCsr t 0x30) 0 1 0
  setCore s t { c with task := none, blocked := none, issueWait := false, preempt := none, suspending := none,
                       accs := c.accs.filter (·.store) }

/-- The task fails at the present instruction. (DESIGN CHOICE, DEDUCED; log entries 7, 13.) -/
def coreFail (s : State) (t cause : Nat) : State := coreFailAt s t cause (coreOf s t).pc.toNat

/-- An instruction of the task with tag `id` failed after it retired (R280): the task fails if the core still runs it; one that has ended
completes no more; the record and the report are made in any case. (DEDUCED; log entry 13.) -/
def coreFailTask (s : State) (t cause pc id : Nat) : State :=
  if (coreOf s t).task.any (fun k => k.id == id) then coreFailAt s t cause pc
  else
    let s' := coreFault s t cause pc ((s.ended.find? (fun e => e.1 == t && e.2.id == id)).map (·.2))
    { s' with ended := s'.ended.filter (fun e => !(e.1 == t && e.2.id == id)) }

/-- One instruction of the core of tile `t`: absent when the core does not execute; failed when the check of its word finds an uncorrectable error, which
has the steward write the store again, a corrected one being noted (R281); failed when illegal (R267); waiting, with nothing changed, while an
outstanding load owns one of its registers (R274); otherwise its effect. (DESIGN CHOICE; log entry 7.) -/
def coreStep (s : State) (t : Nat) (legal : Bool) (rs : List (BitVec 5)) (eff : State → State) : Res :=
  let go (s : State) : State := if !legal then coreFail s t 1 else if regBusy (coreOf s t) rs then s else eff s
  if coreReady s t then
    if (fetchHit s t).isNone then .next (go s)
    else match injected s (tileSrc 8 t) (codeWord s t) 8 .clean with
      | (.uncorrectable, inj, s) => .next (codeRewrite (coreFailAt s t 6 (coreOf s t).pc.toNat inj) t)
      | (_, inj, s') => .next (go (raise s' (tileSrc 8 t) 0x10 NOTE (some (globalOf s (codeWord s t))) inj))
  else absent "the core executes no instruction now"

/-- Write rd and retire. -/
def writeRd (s : State) (t : Nat) (rd : BitVec 5) (v : Word) : State := retire (setCore s t (setR (coreOf s t) rd v)) t

/-- A control transfer to byte offset `target` (R266). -/
def jump (s : State) (t : Nat) (target : Int) : State :=
  if 0 ≤ target ∧ target < 131072 ∧ target % 4 = 0 then
    csrAdd (setCore s t { coreOf s t with pc := BitVec.ofNat 32 target.toNat }) (tileCsr t 0x80) 1
  else coreFail s t 6

/-- Bytes of an access of size code SZ, and whether a load of it sign-extends (R272). -/
def szBytes (sz : BitVec 3) : Nat := 2 ^ (if sz.toNat < 4 then sz.toNat else sz.toNat - 4)
def szSigned (sz : BitVec 3) : Bool := decide (4 ≤ sz.toNat)

/-- The effective address: a locator with OFF13 added to its offset part; `none` on a carry out (R272). -/
def effAddr (base : Word) (off : BitVec 13) : Option Word := locAdd base off.toInt

/-- TCR_ERR cause of a refused access (Table 9-6). (DEDUCED; log entry 13.) -/
def accCause : AccErr → Nat
  | .reserved => 3
  | .fault => 3
  | .straddle => 3
  | .miss => 4
  | .span => 4
  | .readOnly => 7
  | .noTarget => 8

/-- The amount of a SYNC instruction: register RA, or 1 when RA is 0 (R275). -/
def syncAmount (c : Core) (ra : BitVec 5) : Nat := if ra = 0 then 1 else getF (getR c ra) 0 32

/-- The core's earlier stores are all performed once its merging entries are written out (R308, R310). -/
def coreReleased (s : State) (t : Nat) : Bool :=
  !(coreOf s t).accs.any (·.store) && !agentPending s (agentOf t 0)

/-- An operation with release semantics: it waits, with the merging buffer sent on, until every earlier store is performed.
(DESIGN CHOICE; log entry 8.) -/
def afterRelease (s : State) (t : Nat) (eff : State → State) : State :=
  let s := releaseFlush s (agentOf t 0)
  if coreReleased s t then eff s else s

end Sys2Proof.Machine
end

