-- ==== Sys2Proof/Machine/Flags.lean ====
section
/-! DEFINITION. Predicates of the tile core: comparisons and predicate logic (Table 9-3, R269). -/

namespace Sys2Proof.Machine

/-- Float comparison by operation 0 EQ, 1 LT, 2 LE; false with a NaN. -/
def floatCmp (f : FFmt) (op a b : Nat) : Bool :=
  let x := decodeFloat f a
  let y := decodeFloat f b
  match op with
  | 0 => x.eq y
  | 1 => x.lt y
  | _ => x.lt y || x.eq y

/-- CMP by function code; `none` when the code is reserved. -/
def cmpFn (fn : Nat) (a b : Word) : Option Bool :=
  match fn with
  | 0 => some (a == b)
  | 1 => some (a != b)
  | 2 => some (a.slt b)
  | 3 => some (a.sle b)
  | 4 => some (a.ult b)
  | 5 => some (a.ule b)
  | 8 => some (floatCmp fp32 0 (getF a 0 32) (getF b 0 32))
  | 9 => some (floatCmp fp32 1 (getF a 0 32) (getF b 0 32))
  | 10 => some (floatCmp fp32 2 (getF a 0 32) (getF b 0 32))
  | 12 => some (floatCmp fp64 0 a.toNat b.toNat)
  | 13 => some (floatCmp fp64 1 a.toNat b.toNat)
  | 14 => some (floatCmp fp64 2 a.toNat b.toNat)
  | _ => none

/-- PRED by function code. -/
def predFn (fn : Nat) (a b : Bool) : Option Bool :=
  match fn with
  | 0 => some (a && b)
  | 1 => some (a || b)
  | 2 => some (xor a b)
  | 3 => some (!a)
  | 4 => some true
  | 5 => some false
  | _ => none

end Sys2Proof.Machine
end

