-- ==== Sys2Proof/Machine/TileCore.lean ====
section
/-! DEFINITION. The tile core's instructions (chapter 9), but for CSRR and CSRW, which stand with the register accesses, and the
completion of its loads and stores. -/

namespace Sys2Proof.Machine

/-! ### Integer -/

/-- ALU by function code (Table 9-3, R268); `none` when the code is reserved. -/
def aluFn (fn : Nat) (a b : Word) : Option Word :=
  match fn with
  | 0x000 => some (a + b)
  | 0x001 => some (a - b)
  | 0x002 => some (a * b)
  | 0x003 => some (BitVec.ofInt 64 ((a.toInt * b.toInt) / (2 ^ 64 : Nat)))
  | 0x004 => some (BitVec.ofNat 64 ((a.toNat * b.toNat) / 2 ^ 64))
  | 0x005 => some (if b = 0 then BitVec.allOnes 64 else a.sdiv b)
  | 0x006 => some (if b = 0 then BitVec.allOnes 64 else a.udiv b)
  | 0x007 => some (if b = 0 then a else a.srem b)
  | 0x008 => some (if b = 0 then a else a.umod b)
  | 0x010 => some (a &&& b)
  | 0x011 => some (a ||| b)
  | 0x012 => some (a ^^^ b)
  | 0x013 => some (a <<< (b.toNat % 64))
  | 0x014 => some (a >>> (b.toNat % 64))
  | 0x015 => some (a.sshiftRight (b.toNat % 64))
  | 0x018 => some (if a.slt b then a else b)
  | 0x019 => some (if a.slt b then b else a)
  | 0x01A => some (if a.ult b then a else b)
  | 0x01B => some (if a.ult b then b else a)
  | 0x020 => some (BitVec.ofNat 64 ((List.range 64).countP (fun i => a.getLsbD i)))
  | 0x021 => some (BitVec.ofNat 64 (if a = 0 then 64 else 63 - Nat.log2 a.toNat))
  | 0x022 => some (BitVec.ofNat 64 (((List.range 64).find? (fun i => a.getLsbD i)).getD 64))
  | _ => none

/-- A three-register instruction whose function code gives a result or is reserved. -/
def coreFn (s : State) (t : Nat) (rd : BitVec 5) (rs : List (BitVec 5)) (f : Core → Option Word) : Res :=
  coreStep s t (f (coreOf s t)).isSome (rd :: rs) (fun s => match f (coreOf s t) with
    | some v => writeRd s t rd v
    | none => s)

def execAlu (t : BitVec 8) (rd ra rb : BitVec 5) (fn : BitVec 11) (s : State) : Res :=
  coreFn s t.toNat rd [ra, rb] (fun c => aluFn fn.toNat (getR c ra) (getR c rb))

def execAddi (t : BitVec 8) (rd ra : BitVec 5) (imm : BitVec 16) (s : State) : Res :=
  coreFn s t.toNat rd [ra] (fun c => some (getR c ra + imm.signExtend 64))

def execAndi (t : BitVec 8) (rd ra : BitVec 5) (imm : BitVec 16) (s : State) : Res :=
  coreFn s t.toNat rd [ra] (fun c => some (getR c ra &&& imm.zeroExtend 64))

def execOri (t : BitVec 8) (rd ra : BitVec 5) (imm : BitVec 16) (s : State) : Res :=
  coreFn s t.toNat rd [ra] (fun c => some (getR c ra ||| imm.zeroExtend 64))

def execXori (t : BitVec 8) (rd ra : BitVec 5) (imm : BitVec 16) (s : State) : Res :=
  coreFn s t.toNat rd [ra] (fun c => some (getR c ra ^^^ imm.zeroExtend 64))

/-- SHI by the bits of IMM16: amount [5:0], kind [7:6], the rest 0. -/
def shiFn (imm : BitVec 16) (a : Word) : Option Word :=
  let n := getF imm 0 6
  if getF imm 8 8 ≠ 0 then none
  else match getF imm 6 2 with
    | 0 => some (a <<< n)
    | 1 => some (a >>> n)
    | 2 => some (a.sshiftRight n)
    | _ => none

def execShi (t : BitVec 8) (rd ra : BitVec 5) (imm : BitVec 16) (s : State) : Res :=
  coreFn s t.toNat rd [ra] (fun c => shiFn imm (getR c ra))

/-- MOVW: RA [1:0] the halfword, RA [2] keep, RA [4:3] 0. -/
def movwFn (ra : BitVec 5) (imm : BitVec 16) (old : Word) : Option Word :=
  if getF ra 3 2 ≠ 0 then none
  else some (setF (if getB ra 2 then old else 0) (16 * getF ra 0 2) 16 imm.toNat)

def execMovw (t : BitVec 8) (rd ra : BitVec 5) (imm : BitVec 16) (s : State) : Res :=
  coreFn s t.toNat rd [] (fun c => movwFn ra imm (getR c rd))

/-! ### Predicates -/

/-- Write a predicate and retire. -/
def writeP (s : State) (t p : Nat) (b : Bool) : State := retire (setCore s t (setP (coreOf s t) p b)) t

def execCmp (t : BitVec 8) (rd ra rb : BitVec 5) (fn : BitVec 11) (s : State) : Res :=
  let r (s : State) := cmpFn fn.toNat (getR (coreOf s t.toNat) ra) (getR (coreOf s t.toNat) rb)
  coreStep s t.toNat (decide (rd.toNat < 8) && (r s).isSome) [ra, rb] (fun s => writeP s t.toNat rd.toNat ((r s).getD false))

def execPred (t : BitVec 8) (rd ra rb : BitVec 5) (fn : BitVec 11) (s : State) : Res :=
  let r (s : State) := predFn fn.toNat (getP (coreOf s t.toNat) ra.toNat) (getP (coreOf s t.toNat) rb.toNat)
  coreStep s t.toNat (decide (rd.toNat < 8 ∧ ra.toNat < 8 ∧ rb.toNat < 8) && (r s).isSome) []
    (fun s => writeP s t.toNat rd.toNat ((r s).getD false))

def execCsel (t : BitVec 8) (rd ra rb : BitVec 5) (fn : BitVec 11) (s : State) : Res :=
  coreFn s t.toNat rd [ra, rb] (fun c =>
    if getF fn 4 7 ≠ 0 then none
    else some (if xor (getP c (getF fn 0 3)) (getB fn 3) then getR c ra else getR c rb))

/-! ### Floating point (R269) -/

/-- F32 and F64 by function code over the codes of a format. -/
def floatFn (f : FFmt) (fn a b d : Nat) : Option Nat :=
  match fn with
  | 0 => some (addFloat f a b)
  | 1 => some (subFloat f a b)
  | 2 => some (mulFloat f a b)
  | 3 => some (divFloat f a b)
  | 4 => some (sqrtFloat f (decodeFloat f a))
  | 5 => some (minMaxFloat false f a b)
  | 6 => some (minMaxFloat true f a b)
  | 7 => some (fmaFloat f a b d)
  | 8 => some (toFloat f .rne false (decodeFloat f a).abs).code
  | 9 => some (toFloat f .rne false (decodeFloat f a).neg).code
  | _ => none

def execF32 (t : BitVec 8) (rd ra rb : BitVec 5) (fn : BitVec 11) (s : State) : Res :=
  coreFn s t.toNat rd [ra, rb] (fun c =>
    (floatFn fp32 fn.toNat (getF (getR c ra) 0 32) (getF (getR c rb) 0 32) (getF (getR c rd) 0 32)).map (BitVec.ofNat 64))

def execF64 (t : BitVec 8) (rd ra rb : BitVec 5) (fn : BitVec 11) (s : State) : Res :=
  coreFn s t.toNat rd [ra, rb] (fun c =>
    (floatFn fp64 fn.toNat (getR c ra).toNat (getR c rb).toNat (getR c rd).toNat).map (BitVec.ofNat 64))

/-- CVT by function code: to floating point under RNE, to integer toward zero with saturation. -/
def cvtFn (fn : Nat) (a : Word) : Option Word :=
  let f32 := decodeFloat fp32 (getF a 0 32)
  let f64 := decodeFloat fp64 a.toNat
  let fl (f : FFmt) (v : Num) : Option Word := some (BitVec.ofNat 64 (toFloat f .rne false v).code)
  let int (uns : Bool) (v : Num) : Option Word := some (BitVec.ofNat 64 (toInt 64 uns .rtz v).code)
  match fn with
  | 0 => fl fp32 (ofInt a.toInt)
  | 1 => fl fp64 (ofInt a.toInt)
  | 2 => fl fp64 f32
  | 3 => fl fp32 f64
  | 4 => int false f32
  | 5 => int false f64
  | 6 => fl fp64 (ofInt a.toNat)
  | 7 => int true f64
  | _ => none

def execCvt (t : BitVec 8) (rd ra rb : BitVec 5) (fn : BitVec 11) (s : State) : Res :=
  coreFn s t.toNat rd [ra] (fun c => if rb ≠ 0 then none else cvtFn fn.toNat (getR c ra))

/-! ### Memory (R272, R274) -/

/-- The lowest free access slot. (DEDUCED; log entry 11.) -/
def freeAcc (c : Core) : Nat := ((List.range 24).find? (fun i => !c.accs.any (fun a => a.slot == i))).getD 0

/-- A load or store enters the core's outstanding accesses; a peer's goes out as a request. -/
def coreIssue (s : State) (t : Nat) (store : Bool) (rd : BitVec 5) (l : Word) (size : Nat) (signed : Bool) (v : Word) : State :=
  let c := coreOf s t
  if l.toNat % size ≠ 0 then coreFail s t 2
  else match locTgt s l size store with
    | .error e => coreFail s t (accCause e)
    | .ok g =>
      let slot := freeAcc c
      let (dev, addr) := match g with
        | .peer d a => (some d, a)
        | g => (none, tgtAddr s g)
      let a : CoreAcc := { slot := slot, store := store, rd := rd.toNat, dev := dev, addr := addr, loc := l, size := size,
                           signed := signed, value := v, pc := c.pc.toNat, tag := (c.task.map (·.id)).getD 0 }
      let s' := setCore s t { c with accs := c.accs ++ [a] }
      match dev with
      | none => retire s' t
      | some d =>
        let data := if store then leBytes size v.toNat else []
        match sendReq s' (if store then kWRITE else kREAD) d addr size data false true (.coreAcc t slot) with
        | some s'' => retire s'' t
        | none => coreFail s t 8

/-- DEDUCED; log entry 11. -/
def execLd (t : BitVec 8) (rd ra : BitVec 5) (sz : BitVec 3) (off : BitVec 13) (s : State) : Res :=
  let t := t.toNat
  coreStep s t (sz != 7) [rd, ra] (fun s =>
    if 8 ≤ (coreOf s t).accs.countP (fun a => !a.store) then s
    else match effAddr (getR (coreOf s t) ra) off with
      | none => coreFail s t 3
      | some l => coreIssue s t false rd l (szBytes sz) (szSigned sz) 0)

/-- DEDUCED; log entry 11. -/
def execSt (t : BitVec 8) (rd ra : BitVec 5) (sz : BitVec 3) (off : BitVec 13) (s : State) : Res :=
  let t := t.toNat
  coreStep s t (sz != 7) [rd, ra] (fun s =>
    if 16 ≤ (coreOf s t).accs.countP (·.store) then s
    else match effAddr (getR (coreOf s t) ra) off with
      | none => coreFail s t 3
      | some l => coreIssue s t true rd l (szBytes sz) false (getR (coreOf s t) rd))

/-- DEDUCED; log entry 62. -/
def dropAcc (s : State) (t slot : Nat) : State :=
  setCore s t { coreOf s t with accs := (coreOf s t).accs.filter (fun a => a.slot != slot) }

/-- A load's data arrives: the register, or the core's failure on poisoned data (Table 9-6 cause 0x05). (DEDUCED; log entry 11.) -/
def loadDone (s : State) (t : Nat) (a : CoreAcc) (v : Nat) (psn : Bool) : State :=
  let s := dropAcc s t a.slot
  if psn then coreFailAt s t 5 a.pc
  else
    let w := if a.signed then ofSigned 64 (toSigned (8 * a.size) v) else v % 2 ^ (8 * a.size)
    setCore s t (setR (coreOf s t) (BitVec.ofNat 5 a.rd) (BitVec.ofNat 64 w))

/-- Two accesses touch a byte in common at one home. (DEDUCED; log entry 11.) -/
def accOverlap (a b : CoreAcc) : Bool :=
  a.dev == b.dev && decide (a.addr < b.addr + b.size ∧ b.addr < a.addr + a.size)

/-- An outstanding local access of the core is performed. It is absent while an earlier access to a byte of it is outstanding.
(DEDUCED; log entry 11.) -/
def execCoreAccessComplete (t : BitVec 8) (idx : BitVec 5) (ecc : Ecc) (s : State) : Res :=
  let t := t.toNat
  let c := coreOf s t
  let earlier := c.accs.takeWhile (fun a => a.slot != idx.toNat)
  match c.accs.find? (fun a => a.slot == idx.toNat && a.dev.isNone) with
  | none => absent "no such outstanding access"
  | some a =>
    if earlier.any (accOverlap a) then absent "an earlier access to the address is outstanding"
    else match locTgt s a.loc a.size a.store with
      | .error e => .next (coreFailTask (dropAcc s t a.slot) t (accCause e) a.pc a.tag)
      | .ok g =>
        if a.store then .next (agentWrite (dropAcc s t a.slot) t (agentOf t 0) g (leBytes a.size a.value.toNat) false)
        else
          let (bs, psn, s) := agentReadEcc s t g a.size ecc
          .next (loadDone s t a (ofLE bs) psn)

/-- FENCE: every earlier load and store of the core is complete (R310). -/
def execFence (t : BitVec 8) (rsv : BitVec 26) (s : State) : Res :=
  let t := t.toNat
  coreStep s t (rsv == 0) [] (fun s => afterRelease s t (fun s => if (coreOf s t).accs = [] then retire s t else s))

/-! ### Control -/

/-- The target of a branch: its own offset plus 4 × OFF21. -/
def brTarget (s : State) (t : Nat) (off : BitVec 21) : Int := (coreOf s t).pc.toNat + 4 * off.toInt

def brTaken (s : State) (t : Nat) (p : BitVec 3) (neg al : Bool) : Bool := al || xor (getP (coreOf s t) p.toNat) neg

def execBr (t : BitVec 8) (p : BitVec 3) (neg al : Bool) (off : BitVec 21) (s : State) : Res :=
  let t := t.toNat
  coreStep s t true [] (fun s => if brTaken s t p neg al then jump s t (brTarget s t off) else retire s t)

/-- CALL: s31 holds the next offset, then the branch. A target refused leaves s31 as it was. -/
def execCall (t : BitVec 8) (p : BitVec 3) (neg al : Bool) (off : BitVec 21) (s : State) : Res :=
  let t := t.toNat
  coreStep s t true [31] (fun s =>
    let link := setCore s t (setR (coreOf s t) 31 (BitVec.ofNat 64 ((coreOf s t).pc.toNat + 4)))
    let x := brTarget s t off
    if brTaken s t p neg al then
      (if 0 ≤ x ∧ x < 131072 ∧ x % 4 = 0 then jump link t x else coreFail s t 6)
    else retire link t)

def execJr (t : BitVec 8) (rd ra rb : BitVec 5) (fn : BitVec 11) (s : State) : Res :=
  let t := t.toNat
  coreStep s t (rd == 0 && rb == 0 && fn == 0) [ra] (fun s => jump s t (getR (coreOf s t) ra).toNat)

/-- RETI: IE set, and the core continues at TCR_EPC (R277). (DEDUCED; log entry 13.) -/
def execReti (t : BitVec 8) (rsv : BitVec 26) (s : State) : Res :=
  let t := t.toNat
  coreStep s t (rsv == 0) [] (fun s =>
    let x := csrF s (tileCsr t 0x18) 0 17
    if x % 4 = 0 then jump (csrSetF s (tileCsr t 0) 0 1 1) t (x : Nat) else coreFail s t 6)

/-- A blocked WAIT or TALLY_WAIT leaves its queue with nothing taken (R276, R291). -/
def unblock (s : State) (t : Nat) : State :=
  let c := coreOf s t
  let s := setCore s t { c with blocked := none, issueWait := false }
  match c.blocked with
  | some (.sem n _) => semLeave s t n 0
  | some (.tally n _) => setTallyQueue s t n []
  | none => s

/-- Suspension begins, by YIELD or forced, with the PC to record (R367): waits of the core and of the task's streams take nothing, and the
trace has a record. -/
def beginSuspend (s : State) (t : Nat) (forced : Bool) : State :=
  let s := unblock s t
  match (coreOf s t).task with
  | none => s
  | some k =>
    let pc := (coreOf s t).pc.toNat
    let s := (prtOf s t).ctxs.foldl (fun s e =>
      match ctxOf s t e.1 with
      | some x =>
        match x.waitSem with
        | some n => if x.q.tag = k.id then semLeave (setCtx s t e.1 (some { x with waitSem := none })) t n (16 + e.1) else s
        | none => s
      | none => s) s
    let s := setCore s t { coreOf s t with suspending := some (forced, pc) }
    trace s (t / 16) (if forced then 0x05 else 0x04) t k.wq k.level k.rcd.taskId pc 0

/-- YIELD: nothing, or the start of the suspension that a request asks for (R278). -/
def execYield (t : BitVec 8) (rsv : BitVec 26) (s : State) : Res :=
  let t := t.toNat
  coreStep s t (rsv == 0) [] (fun s =>
    let s' := retire s t
    if (coreOf s t).preempt.isSome then beginSuspend s' t false else s')

/-- END: the task leaves the core; it completes when its descriptors have (R271). A pre-emption request is withdrawn (R367). -/
def execEnd (t : BitVec 8) (rsv : BitVec 26) (s : State) : Res :=
  let t := t.toNat
  coreStep s t (rsv == 0) [] (fun s =>
    let c := coreOf s t
    let s := csrSetF (retire s t) (tileCsr t 0x30) 0 1 0
    let s := setCore s t { coreOf s t with task := none, preempt := none, accs := c.accs.filter (·.store) }
    match c.task with
    | some k => { s with ended := s.ended ++ [(t, { k with busy := k.busy + (s.now - k.startedAt) })] }
    | none => s)

/-! ### Synchronisation (R275) -/

def execSignal (t : BitVec 8) (ra _rb : BitVec 5) (num : BitVec 12) (s : State) : Res :=
  let t := t.toNat
  coreStep s t (decide (num.toNat < 256)) [ra] (fun s => afterRelease s t (fun s =>
    retire (signalOrErr s t num.toNat (syncAmount (coreOf s t) ra)) t))

/-- The core's wait is queued. (DESIGN CHOICE; log entry 8.) -/
def coreBlock (s : State) (t : Nat) (b : Blocked) : State :=
  setCore s t { coreOf s t with blocked := some b }

def execWait (t : BitVec 8) (ra _rb : BitVec 5) (num : BitVec 12) (s : State) : Res :=
  let t := t.toNat
  coreStep s t (decide (num.toNat < 256)) [ra] (fun s =>
    let n := syncAmount (coreOf s t) ra
    match semWait s t num.toNat n 0 with
    | (true, s) => retire s t
    | (false, s) => coreBlock s t (.sem num.toNat n))

/-- TAKE: the units at once, or SEM_UNDERFLOW; it never waits (Table 10-2). -/
def execTake (t : BitVec 8) (ra _rb : BitVec 5) (num : BitVec 12) (s : State) : Res :=
  let t := t.toNat
  coreStep s t (decide (num.toNat < 256)) [ra] (fun s =>
    let n := syncAmount (coreOf s t) ra
    let v := semVal s t num.toNat
    if n = 0 then retire s t
    else if semQueue s t num.toNat = [] ∧ n ≤ v then retire (csrSetF s (semAddr t num.toNat) 0 32 (v - n)) t
    else retire (synMisuse s t 0 num.toNat 1) t)

def execTallyAdd (t : BitVec 8) (ra _rb : BitVec 5) (num : BitVec 12) (s : State) : Res :=
  let t := t.toNat
  coreStep s t (decide (num.toNat < 64)) [ra] (fun s => afterRelease s t (fun s =>
    retire (tallyOrErr s t num.toNat (syncAmount (coreOf s t) ra)) t))

/-- TALLY_WAIT: reached, queued, or TALLY_DRIFT (R293). -/
def execTallyWait (t : BitVec 8) (ra _rb : BitVec 5) (num : BitVec 12) (s : State) : Res :=
  let t := t.toNat
  coreStep s t (decide (num.toNat < 128)) [ra] (fun s =>
    let n := num.toNat
    let x := syncAmount (coreOf s t) ra
    let gap := tallyGap (tallyVal s t n) x
    if gap ≤ tallyDepth s t n then retire (markAt s t n x) t
    else if 2 ^ 32 - tallyDepth s t n ≤ gap then
      coreBlock (setTallyQueue s t n (tallyQueue s t n ++ [⟨x, s.now⟩])) t (.tally n x)
    else retire (synMisuse s t 1 n 3) t)

/-- BARRIER_ARRIVE: one arrival goes to the die context's home, or to the module's node of the fabric context (R294, R298). -/
def execBarrierArrive (t : BitVec 8) (ra rb : BitVec 5) (num : BitVec 12) (s : State) : Res :=
  let t := t.toNat
  let k := getF num 0 5
  coreStep s t (ra == 0 && rb == 0 && getF num 5 6 == 0 && k != 0) [] (fun s => afterRelease s t (fun s =>
    if getB num 11 then retire (fabLocal s k t) t else retire { s with barArr := s.barArr ++ [(k, t)] } t))

/-- SIGNAL_AT and TALLY_ADD_AT: on this module at once, on a peer by a packet (R275, R308). -/
def syncAt (s : State) (t : Nat) (ra rb : BitVec 5) (num kind : Nat) (here : State → Nat → Nat → State) : State :=
  let x := getR (coreOf s t) rb
  let d := getF x 0 11
  let tile := getF x 11 8
  let amt := syncAmount (coreOf s t) ra
  if x.toNat / 2 ^ 19 ≠ 0 then coreFail s t 3
  else if d = ownId s then afterRelease s t (fun s => retire (here s tile amt) t)
  else if !peerUsable s d then coreFail s t 8
  else afterRelease s t (fun s =>
    match sendReq s kind d 0 8 (syncData tile num amt) false false
      (.sync t (coreOf s t).pc.toNat (((coreOf s t).task.map (·.id)).getD 0)) with
    | some s => retire s t
    | none => coreFail s t 8)

def execSignalAt (t : BitVec 8) (ra rb : BitVec 5) (num : BitVec 12) (s : State) : Res :=
  let t := t.toNat
  coreStep s t (decide (num.toNat < 256)) [ra, rb] (fun s =>
    syncAt s t ra rb num.toNat kSIGNAL (fun s tile amt => signalOrErr s tile num.toNat amt))

def execTallyAddAt (t : BitVec 8) (ra rb : BitVec 5) (num : BitVec 12) (s : State) : Res :=
  let t := t.toNat
  coreStep s t (decide (num.toNat < 64)) [ra, rb] (fun s =>
    syncAt s t ra rb num.toNat kTALLY (fun s tile amt => tallyOrErr s tile num.toNat amt))

/-! ### ISSUE (R270) -/

/-- Queue depth of each engine in ISSUE numbering. -/
def queueDepth (eng : Nat) : Nat := if eng = 0 then 32 else if eng = 1 then 8 else if eng = 4 then 32 else 16

def engQueue (s : State) (t eng : Nat) : List QDesc :=
  if eng = 0 then (fgrOf s t).queue else if eng = 1 then (cmbOf s t).queue else if eng = 2 then (mxeOf s t).queue
  else if eng = 3 then (vecOf s t).queue else (prtOf s t).queue

def setEngQueue (s : State) (t eng : Nat) (q : List QDesc) : State :=
  if eng = 0 then setFgr s t { fgrOf s t with queue := q }
  else if eng = 1 then setCmb s t { cmbOf s t with queue := q }
  else if eng = 2 then setMxe s t { mxeOf s t with queue := q }
  else if eng = 3 then setVec s t { vecOf s t with queue := q }
  else setPrt s t { prtOf s t with queue := q }

def bytesDesc (bs : List Byte) : Desc := BitVec.ofNat 512 (ofLE bs)

/-- The registers a vector descriptor captures (R243). -/
def capRegs (d : Desc) : List (BitVec 5) := (List.range 4).map (fun i => BitVec.ofNat 5 (getF d (64 + 5 * i) 5))

/-- The descriptor is read and, when the queue has space, its copy enqueued. (DEDUCED; log entry 13.) -/
def issueRead (s : State) (t eng : Nat) (tryB : Bool) (pd : Nat) (l : Word) : State :=
  if locKind l = 0 ∨ locKind l = 3 then coreFail s t 3
  else if locOff l % 64 ≠ 0 then coreFail s t 2
  else match locTgt s l 64 false with
    | .error e => coreFail s t (accCause e)
    | .ok g =>
      match g with
      | .hole a => coreFail (noteHole s a) t 3
      | g =>
        let (bs, psn, s) := agentReadEcc s t g 64 .clean
        if psn then coreFail s t 5
        else
          let d := bytesDesc bs
          let c := coreOf s t
          if eng = 3 ∧ regBusy c (capRegs d) then s
          else
            let q := engQueue s t eng
            let id := (c.task.map (·.id)).getD 0
            if q.length < queueDepth eng then
              let x : QDesc := { desc := d, addr := tgtAddr s g, tag := id,
                                 caps := if eng = 3 then (capRegs d).map (getR c) else if eng = 2 then [BitVec.ofNat 64 (stagedCount s t)] else [] }
              let s := setEngQueue s t eng (q ++ [x])
              let s := setCore s t { (if tryB then setP (coreOf s t) pd true else coreOf s t) with issueWait := false }
              retire s t
            else if tryB then writeP s t pd false
            else setCore s t { coreOf s t with issueWait := true }

/-- DEDUCED; log entry 13. -/
def execIssue (t : BitVec 8) (eng : BitVec 3) (tryBit : Bool) (pd : BitVec 3) (ra : BitVec 5) (rsv : BitVec 14) (s : State) : Res :=
  let t := t.toNat
  coreStep s t (decide (eng.toNat < 5) && rsv == 0 && (tryBit || pd == 0)) [ra] (fun s => afterRelease s t (fun s =>
    issueRead s t eng.toNat tryBit pd.toNat (getR (coreOf s t) ra)))

/-! ### Interrupts (R277) -/

/-- The core takes the interrupt due: EPC, CAUSE, IE clear, continue at TCR_VEC. -/
def takeIrq (s : State) (t b : Nat) : State :=
  let s := unblock s t
  let s := csrPut s (tileCsr t 0x18) (BitVec.ofNat 64 ((coreOf s t).pc.toNat % 2 ^ 17))
  let s := csrSetF (csrPut s (tileCsr t 0x20) (BitVec.ofNat 64 b)) (tileCsr t 0) 0 1 0
  setCore s t { coreOf s t with pc := BitVec.ofNat 32 (csrF s (tileCsr t 0x10) 0 17) }

def execInterruptTake (t : BitVec 8) (s : State) : Res :=
  let c := coreOf s t.toNat
  match irqDue s t.toNat with
  | some b => if c.task.isSome ∧ c.suspending.isNone then .next (takeIrq s t.toNat b) else absent "no task on the core"
  | none => absent "no interrupt is due"

end Sys2Proof.Machine
end

