-- ==== Sys2Proof/Machine/Disp.lean ====
section
/-! DEFINITION. Work queues, dispatch, stealing, pre-emption, suspension and resumption (chapter 13). -/

namespace Sys2Proof.Machine

/-! ### Work queues (R359, R360) -/

def wqBase (c n : Nat) : Nat := clusterCsr c (0x2000 + 0x20 * n)
def wqCfg (c n : Nat) : Nat := clusterCsr c (0x2008 + 0x20 * n)
def wqPtr (c n : Nat) : Nat := clusterCsr c (0x2010 + 0x20 * n)
def wqSize (s : State) (c n : Nat) : Nat := 2 ^ csrF s (wqCfg c n) 0 5
def wqLevel (s : State) (c n : Nat) : Nat := csrF s (wqCfg c n) 5 3
def wqHead (s : State) (c n : Nat) : Nat := csrF s (wqPtr c n) 0 32
def wqTail (s : State) (c n : Nat) : Nat := csrF s (wqPtr c n) 32 32
/-- Records in a queue. -/
def wqCount (s : State) (c n : Nat) : Nat := (wqTail s c n + 2 ^ 32 - wqHead s c n) % 2 ^ 32

/-- Queues in use of cluster `c` whose plan runs. -/
def wqsOf (s : State) (c : Nat) : List Nat :=
  (List.range 256).filter (fun n => csrF s (wqCfg c n) 8 1 == 1 && planActive (planOf s (csrF s (wqCfg c n) 9 4)))

/-- The locator of record `i` of a queue. -/
def wqRecord (s : State) (c n i : Nat) : Option Word := locAdd (csrGet s (wqBase c n)) ((64 * (i % wqSize s c n) : Nat) : Int)

/-- An access of the steward across parts of a tile SRAM window performs nothing and is noted (R577). -/
def stewardStraddle (s : State) (l : Option Word) : State := raise s 0x8000 0x04 NOTE (l.map (fun l => globalOf s (locLocal l)))

/-- The 64 bytes of a local structure; zeros where nothing can be read. -/
def readLocal (s : State) (c : Nat) (l : Option Word) (n : Nat) : List Byte × State :=
  match l.map (fun l => locTgt s l n false) with
  | some (.ok (.peer _ _)) => (List.replicate n 0, s)
  | some (.ok g) =>
    let (bs, _, s) := agentRead s (16 * c) g n
    (bs, s)
  | some (.error .straddle) => (List.replicate n 0, stewardStraddle s l)
  | _ => (List.replicate n 0, s)

/-- A task record (Table 13-1). -/
def taskRec (d : Desc) : TaskRec :=
  { entry := getF d 0 17, nopreempt := getB d 19, taskId := getF d 32 32, args := BitVec.ofNat 64 (getF d 64 64), save := BitVec.ofNat 64 (getF d 128 64),
    dstFirst := getF d 192 40, dstCount := getF d 232 24 }

/-- A record that is not refused (R359). -/
def recOk (d : Desc) : Bool :=
  getF d 24 8 == 0 && getF d 256 256 == 0 && getF d 0 2 == 0 && (getB d 17 || getF d 20 4 == 0) && (getB d 19 || getF d 128 64 != 0)

/-- The record at the head of a queue. -/
def wqFront (s : State) (c n : Nat) : Desc := bytesDesc (readLocal s c (wqRecord s c n (wqHead s c n)) 64).1

/-- The steward writes bytes to a local structure (rings, control blocks), latency-critical (R398). WRITABLE concerns other agents (R111), the reserved
part of a tile SRAM window takes nothing (R29), and a write across its parts is noted (R577). -/
def stewardWrite (s : State) (c : Nat) (l : Word) (bs : List Byte) : State :=
  match locTgt s l bs.length false with
  | .ok (.dram i o) => chanWrite (flushOverlap s c (rgnBase s i + o) bs.length) [] i o bs false 1 none true
  | .ok (.spad a) => writeHome s a bs false
  | .ok (.hole a) => noteHole s a
  | .error .straddle => stewardStraddle s (some l)
  | _ => s

/-- TAIL moves to `tail`, unless that overruns the ring (R360). -/
def wqAdvance (s : State) (c n tail : Nat) : State :=
  if wqSize s c n < (tail + 2 ^ 32 - wqHead s c n) % 2 ^ 32 then raise s (0x1000 + 16 * c) 0x29 CONTAIN
  else csrSetF s (wqPtr c n) 32 32 tail

/-- One record joins the tail of a queue. -/
def wqPush (s : State) (c n : Nat) (bs : List Byte) : State :=
  match wqRecord s c n (wqTail s c n) with
  | some l => wqAdvance (stewardWrite s c l bs) c n ((wqTail s c n + 1) % 2 ^ 32)
  | none => s

/-- A list entry of the TASKS section (Table 2-11): queue, count, locator. -/
def liWq (e : BitVec 128) : Nat := getF e 0 12
def liCount (e : BitVec 128) : Nat := getF e 16 32
def liLoc (e : BitVec 128) : Word := BitVec.ofNat 64 (getF e 64 64)

/-- The first list with records left whose queue has space, no earlier unfinished list using that queue. -/
def feedNext (s : State) (p : Plan) : List (Nat × Nat) → List Nat → Option (Nat × Nat)
  | [], _ => none
  | (e, k) :: rest, held =>
    let x := p.lists.getD e 0
    let w := liWq x
    if liCount x ≤ k then feedNext s p rest held
    else if held.contains w ∨ wqSize s (w / 256) (w % 256) ≤ wqCount s (w / 256) (w % 256) then feedNext s p rest (w :: held)
    else some (e, k)

/-- The steward copies records of the phase's lists, and records claimed from pools, into their queues while there is space (R65, R375). -/
def feedLists : Nat → State → Nat → State
  | 0, s, _ => s
  | f + 1, s, slot =>
    match planOf s slot with
    | none => s
    | some p =>
      match p.run with
      | none => s
      | some r =>
        match feedNext s p r.lists [] with
        | some (e, k) =>
          let x := p.lists.getD e 0
          let c := liWq x / 256
          let (bs, s) := readLocal s c (locAdd (liLoc x) ((64 * k : Nat) : Int)) 64
          let s := wqPush s c (liWq x % 256) bs
          let r := { r with lists := r.lists.map (fun y => if y.1 = e then (e, k + 1) else y) }
          feedLists f (setPlan s slot (some { p with run := some r })) slot
        | none =>
          match r.held.find? (fun h => decide (wqCount s (h.1 / 256) (h.1 % 256) < wqSize s (h.1 / 256) (h.1 % 256))) with
          | some h =>
            let s := wqPush s (h.1 / 256) (h.1 % 256) h.2
            feedLists f (setPlan s slot (some { p with run := some { r with held := r.held.erase h } })) slot
          | none => s

/-- Records still to be copied bound the work of `feedLists`. -/
def feedFuel (s : State) (slot : Nat) : Nat :=
  match planOf s slot with
  | some p => (match p.run with
    | some r => r.lists.foldl (fun n l => n + (liCount (p.lists.getD l.1 0) - l.2)) r.held.length + 1
    | none => 0)
  | none => 0

/-- DESIGN CHOICE; log entry 10. -/
def feed (s : State) (slot : Nat) : State := feedLists (feedFuel s slot) s slot

/-! ### Choosing (R362) -/

/-- A tile without a task that is not isolated. (DEDUCED; log entry 25.) -/
def tileIdle (s : State) (t : Nat) : Bool := (coreOf s t).task.isNone && !s.ledger.isoTiles.contains t
def clusterTiles (c : Nat) : List Nat := (List.range 16).map (fun i => 16 * c + i)

/-- A queue's front record may run on tile `t`. (DEDUCED; log entry 25.) -/
def frontFits (s : State) (t n : Nat) : Bool :=
  let d := wqFront s (t / 16) n
  !getB d 17 || getF d 20 4 == t % 16

/-- Queues whose front record may start on tile `t`. -/
def readyFor (s : State) (t : Nat) : List Nat :=
  (wqsOf s (t / 16)).filter (fun n => wqHead s (t / 16) n != wqTail s (t / 16) n && frontFits s t n)

/-- The queue after `last` in rotation. -/
def rotate (last : Nat) (qs : List Nat) : Option Nat :=
  match qs.find? (fun n => decide (last < n)) with
  | some n => some n
  | none => qs.head?

/-- What a tile takes next. -/
inductive Pick where
  | resume (x : Suspended)
  | fresh (n : Nat)
  | nothing
  deriving DecidableEq, Repr

/-- The cluster's stagger delay has run. -/
def staggerOver (s : State) (c : Nat) : Bool := (dispOf s c).staggerUntil.isNone

/-- The task of the highest level that tile `t` can take: one suspended there goes ahead of new ones of its level. -/
def pickFor (s : State) (t : Nat) : Pick :=
  let c := t / 16
  let qs := readyFor s t
  let top := qs.foldl (fun m n => max m (wqLevel s c n + 1)) 0
  let sus := s.suspended.filter (fun x => x.tile == t)
  let stop := sus.foldl (fun m x => max m (x.task.level + 1)) 0
  if 0 < stop ∧ top ≤ stop then
    match sus.find? (fun x => x.task.level + 1 == stop) with
    | some x => .resume x
    | none => .nothing
  else if top = 0 then .nothing
  else
    match rotate (((dispOf s c).lastServed.find? (fun e => e.1 == top - 1)).map (·.2) |>.getD 255) (qs.filter (fun n => wqLevel s c n + 1 == top)) with
    | some n => .fresh n
    | none => .nothing

/-! ### Starting -/

/-- A task that fails before it starts (R359). -/
def startFail (s : State) (t wq level cause : Nat) (r : TaskRec) : State :=
  let held := csrF s (tileCsr t 0x38) 8 1 = 1
  let s := if held then s else csrPut (errOnce s (tileCsr t 0x38) 8 cause) (tileCsr t 0x40) (BitVec.ofNat 64 r.entry)
  let s := raise s (tileSrc 0 t) 0x20 CONTAIN
  trace s (t / 16) 0x08 t wq level r.taskId cause r.entry

/-- The core as a task starts on it (R265). The tile's watch stays with the task that armed it (R279). (DEDUCED; log entry 25.) -/
def freshCore (k : Task) (c : Core) : Core :=
  setR (setR { Core.init with pc := BitVec.ofNat 32 k.rcd.entry, task := some k, accs := c.accs, watchBy := c.watchBy } 1 k.rcd.args) 2 k.rcd.save

/-- The front record of queue `n` of cluster `v` starts on tile `t`. -/
def startFrom (s : State) (t v n : Nat) : State :=
  let d := wqFront s v n
  let r := taskRec d
  let level := wqLevel s v n
  let slot := csrF s (wqCfg v n) 9 4
  let s := csrSetF s (wqPtr v n) 0 32 (wqHead s v n + 1)
  let s := feed s slot
  if !recOk d then startFail s t n level 1 r
  else
    let k : Task := { rcd := r, id := s.taskCtr, level := level, wq := n, slot := slot, order := s.taskCtr, startedAt := s.now, busy := 0 }
    let s := setCore { s with taskCtr := s.taskCtr + 1 } t (freshCore k (coreOf s t))
    let s := csrAdd (csrSetF s (tileCsr t 0x30) 0 1 0) (clusterCsr (t / 16) 0x40) 1
    trace s (t / 16) 0x01 t n level r.taskId r.dstFirst r.dstCount

/-- Tile `t` is the lowest idle tile of its cluster that can take a task. -/
def lowestStart (s : State) (t : Nat) : Bool :=
  (clusterTiles (t / 16)).find? (fun u => tileIdle s u && pickFor s u != .nothing) == some t

/-- The front record pinned to an isolated tile `t`, if any. -/
def pinnedToIsolated (s : State) (t : Nat) : Option Nat :=
  if s.ledger.isoTiles.contains t then (readyFor s t).find? (fun n => getB (wqFront s (t / 16) n) 17) else none

/-- The dispatcher starts a new task on tile `t` (R362). A record pinned to an isolated tile fails as it reaches the head. -/
def execTaskStart (t : BitVec 8) (s : State) : Res :=
  let t := t.toNat
  let c := t / 16
  if s.boot ≠ 0 ∨ !staggerOver s c then absent "the cluster starts no task now"
  else match pinnedToIsolated s t with
    | some n =>
      let r := taskRec (wqFront s c n)
      let slot := csrF s (wqCfg c n) 9 4
      let s := feed (csrSetF s (wqPtr c n) 0 32 (wqHead s c n + 1)) slot
      .next (startFail s t n (wqLevel s c n) 9 r)
    | none =>
      if !tileIdle s t ∨ !lowestStart s t then absent "the tile takes no task now"
      else match pickFor s t with
        | .fresh n =>
          let d := dispOf s c
          let s := setDisp s c { d with lastServed := assocPut d.lastServed (wqLevel s c n) n }
          .next (startFrom s t c n)
        | _ => absent "no new task goes first on the tile"

/-! ### Resumption (R369) -/

/-- Give the withdrawn descriptors back to their engines. -/
def requeue (s : State) (t tag : Nat) : List (Nat × List Byte × Nat) → State
  | [] => s
  | (e, bs, addr) :: rest =>
    let caps := if e = 3 then (List.range 4).map (fun i => BitVec.ofNat 64 (ofLE ((bs.drop (64 + 8 * i)).take 8)))
      else if e = 2 then [BitVec.ofNat 64 (stagedCount s t)] else []
    let q : QDesc := { desc := bytesDesc (bs.take 64), addr := addr, tag := tag, caps := caps }
    requeue (setEngQueue s t e (engQueue s t e ++ [q])) t tag rest

/-- Entries of a save area by engine: engine, bytes, address. -/
def savedEntries (area : List Byte) (addrs : List Nat) : List (Nat × List Byte × Nat) :=
  let counts := (List.range 5).map (fun e => ((area.getD (3584 + e) 0).toNat))
  let engs := counts.zipIdx.flatMap (fun c => List.replicate (min c.1 32) c.2)
  (engs.take 104).zipIdx.map (fun e => (e.1, (area.drop (3648 + 96 * e.2)).take 96, addrs.getD e.2 0))

/-- The core as its record gives it (Table 9-5). -/
def recordCore (c : Core) (k : Task) (area : List Byte) : Core :=
  let n (lo len : Nat) : Nat := ofLE ((area.drop lo).take len)
  let c := { Core.init with pc := BitVec.ofNat 32 (n 0 8), preds := BitVec.ofNat 8 (n 8 1), task := some k, accs := c.accs, watchBy := c.watchBy }
  (List.range 31).foldl (fun c i => setR c (BitVec.ofNat 5 (i + 1)) (BitVec.ofNat 64 (n (32 + 8 * i) 8))) c

/-- Restore the streams of a save area into their contexts, or let them wait for those. (DEDUCED; log entry 23.) -/
def restoreStreams (s : State) (t tag : Nat) (area : List Byte) : List (Nat × Nat × Nat) → State
  | [] => s
  | (c, addr, elapsed) :: rest =>
    let s := match streamOf s t addr tag elapsed ((area.drop (512 + 192 * c)).take 192) with
      | (none, s) => s
      | (some (_, x), s) =>
        if (ctxOf s t c).isNone then setCtx s t c (some x)
        else setPrt s t { prtOf s t with restore := (prtOf s t).restore ++ [(c, x)] }
    restoreStreams s t tag area rest

/-- A suspended task resumes on its tile. (DEDUCED; log entry 25.) -/
def resumeTask (s : State) (t : Nat) (x : Suspended) : State :=
  let (area, s) := readLocal s (t / 16) (some x.task.rcd.save) 16384
  let k := { x.task with startedAt := s.now }
  let s := { s with suspended := s.suspended.erase x }
  let s := setCore s t (recordCore (coreOf s t) k area)
  let n (lo len : Nat) : Nat := ofLE ((area.drop lo).take len)
  let s := csrSetF s (tileCsr t 0) 0 1 (n 9 1 % 2)
  let s := csrSetF s (tileCsr t 0x18) 0 17 (n 16 8)
  let v := n 24 8
  let s := csrSetF (csrSetF s (tileCsr t 0x10) 0 17 v) (tileCsr t 0x28) 0 3 (v / 2 ^ 32)
  let s := csrSetF s (tileCsr t 0x30) 0 1 0
  let s := if x.hit then csrSetF s (tileCsr t 0x30) 1 1 1 else s
  let s := requeue s t k.id (savedEntries area x.addrs)
  let s := restoreStreams s t k.id area x.streams
  let s := csrAdd s (clusterCsr (t / 16) 0x40) 1
  trace s (t / 16) 0x06 t k.wq k.level k.rcd.taskId 0 0

def execTaskResume (t : BitVec 8) (s : State) : Res :=
  let t := t.toNat
  if s.boot ≠ 0 ∨ !staggerOver s (t / 16) ∨ !tileIdle s t ∨ !lowestStart s t then absent "the tile takes no task now"
  else match pickFor s t with
    | .resume x => .next (resumeTask s t x)
    | _ => absent "no suspended task goes first on the tile"

/-! ### Completion (R271, R363) -/

/-- A descriptor of task `id` is queued or in progress on tile `t`. -/
def tagBusy (s : State) (t id : Nat) : Bool :=
  let x := tileOf s t
  let q (l : List QDesc) : Bool := l.any (fun d => d.tag == id)
  let o (d : Option QDesc) : Bool := (d.map (fun d => d.tag == id)).getD false
  q x.fgr.queue || x.fgr.jobs.any (fun j => j.q.tag == id) || q x.cmb.queue || o x.cmb.busy || q x.mxe.queue || o x.mxe.busy ||
    q x.vec.queue || o x.vec.busy || q x.prt.queue || x.prt.ctxs.any (fun e => (e.2.map (fun y => y.q.tag == id)).getD false) ||
    x.prt.restore.any (fun e => e.2.q.tag == id)

def execTaskComplete (t : BitVec 8) (id : Nat) (s : State) : Res :=
  let t := t.toNat
  match s.ended.find? (fun e => e.1 == t && e.2.id == id) with
  | none => absent "no such task has ended"
  | some e =>
    if tagBusy s t id then absent "descriptors of the task are not complete"
    else
      let k := e.2
      .next (trace { s with ended := s.ended.erase e } (t / 16) 0x07 t k.wq k.level k.rcd.taskId k.busy 0)

/-! ### Stealing (R365) -/

/-- Dispatch is frozen (R372). -/
def dispFrozen (s : State) : Bool := s.freeze.testBit 0

/-- The queue a victim gives from: the lowest-numbered stealable one at its lowest level with records. (DEDUCED; log entry 25.) -/
def stealable (s : State) (v : Nat) : Option Nat :=
  let qs := (wqsOf s v).filter (fun n => wqHead s v n != wqTail s v n)
  let low := qs.foldl (fun m n => min m (wqLevel s v n)) 8
  qs.find? (fun n => wqLevel s v n == low && !getB (wqFront s v n) 17 && !getB (wqFront s v n) 18)

/-- A victim with an idle tile that could run the record keeps it. (DEDUCED; log entry 25.) -/
def victimIdle (s : State) (v : Nat) : Bool := (clusterTiles v).any (tileIdle s)

/-- The first victim in rotation after cluster `c`, and its queue. -/
def victimOf (s : State) (c : Nat) : Option (Nat × Nat) :=
  ((List.range 15).map (fun i => (c + 1 + i) % 16)).findSome? (fun v =>
    if slotOfCluster s v = slotOfCluster s c ∧ (slotOfCluster s c).isSome ∧ !victimIdle s v then (stealable s v).map (fun n => (v, n)) else none)

def execSteal (c : BitVec 4) (s : State) : Res :=
  let c := c.toNat
  if s.boot ≠ 0 ∨ csrF s (clusterCsr c 0) 0 1 = 0 ∨ dispFrozen s ∨ !staggerOver s c then absent "the cluster steals nothing now"
  else match (clusterTiles c).find? (fun t => tileIdle s t && pickFor s t == .nothing), victimOf s c with
    | some t, some (v, n) =>
      let r := taskRec (wqFront s v n)
      let s := trace s c 0x02 t n (wqLevel s v n) r.taskId v n
      .next (startFrom (csrAdd s (clusterCsr c 0x48) 1) t v n)
    | _, _ => absent "no idle tile or no stealable task"

/-! ### Pre-emption (R366, R367) -/

/-- Queues of a cluster whose front record finds no idle tile. -/
def starved (s : State) (c : Nat) : List Nat :=
  (wqsOf s c).filter (fun n => wqHead s c n != wqTail s c n &&
    !(clusterTiles c).any (fun t => tileIdle s t && frontFits s t n))

/-- A tile whose task a record of level `l` may displace. -/
def preemptable (s : State) (n l t : Nat) : Bool :=
  let c := coreOf s t
  frontFits s t n && c.preempt.isNone && c.suspending.isNone &&
    (match c.task with
      | some k => decide (k.level < l) && !k.rcd.nopreempt
      | none => false)

def taskKey (s : State) (t : Nat) : Nat × Nat := ((coreOf s t).task.map (fun k => (k.level, k.order))).getD (8, 0)

/-- The tile to pre-empt: lowest level, latest started. -/
def preemptPick (s : State) (ts : List Nat) : Option Nat :=
  ts.foldl (fun b t => match b with
    | none => some t
    | some u =>
      let x := taskKey s t
      let y := taskKey s u
      if x.1 < y.1 ∨ (x.1 = y.1 ∧ y.2 < x.2) then some t else b) none

/-- Requests pending in a cluster. -/
def preemptsOf (s : State) (c : Nat) : Nat := (clusterTiles c).countP (fun t => (coreOf s t).preempt.isSome)

def execPreemptRequest (c : BitVec 4) (s : State) : Res :=
  let c := c.toNat
  let qs := starved s c
  let able := qs.filter (fun n => (clusterTiles c).any (fun t => (((coreOf s t).task.map (fun k => decide (k.level < wqLevel s c n)))).getD false))
  if s.boot ≠ 0 ∨ csrF s (clusterCsr c 0) 1 1 = 0 ∨ dispFrozen s ∨ able.length ≤ preemptsOf s c then absent "no pre-emption is requested"
  else match [7, 6, 5, 4, 3, 2, 1].findSome? (fun h => qs.findSome? (fun n =>
      if wqLevel s c n = h then (preemptPick s ((clusterTiles c).filter (preemptable s n h))).map (fun t => (h, t)) else none)) with
    | none => absent "no task can be pre-empted"
    | some (top, t) =>
      let k := (coreOf s t).task
      let s := setCore s t { coreOf s t with preempt := some s.now }
      let s := csrSetF s (tileCsr t 0x30) 0 1 1
      .next (match k with
        | some k => trace s c 0x03 t k.wq k.level k.rcd.taskId top 0
        | none => s)

/-- PREEMPT_GRACE expires: the task is suspended by force (R367, R278). -/
def execPreemptGrace (t : BitVec 8) (time : Nat) (s : State) : Res :=
  let t := t.toNat
  match (coreOf s t).preempt with
  | none => absent "no request is pending"
  | some t0 =>
    if (coreOf s t).suspending.isSome ∨ time < s.now ∨ time < t0 + 1000 * csrF s (clusterCsr (t / 16) 0) 3 20 then
      absent "PREEMPT_GRACE has not expired"
    else .next (beginSuspend (atTime s time) t true)

/-- The engines of tile `t` have stopped at a descriptor boundary, whichever task's descriptors were in progress, and so have the streams of task `id`
(R141, R218, R235, R334, Table 13-3 step 4). -/
def enginesStopped (s : State) (t id : Nat) : Bool :=
  let x := tileOf s t
  x.fgr.jobs == [] && x.cmb.busy.isNone && x.mxe.busy.isNone && x.vec.busy.isNone &&
    x.prt.ctxs.all (fun e => match e.2 with
      | some y => y.q.tag != id || streamQuiet s t e.1 y
      | none => true)

/-- The core context record (Table 9-5), padded to 512 bytes. -/
def coreRecord (s : State) (t pc : Nat) : List Byte :=
  let c := coreOf s t
  leBytes 8 pc ++ leBytes 1 c.preds.toNat ++ leBytes 1 (csrF s (tileCsr t 0) 0 1) ++ leBytes 6 0 ++ leBytes 8 (csrF s (tileCsr t 0x18) 0 17) ++
    leBytes 8 (csrF s (tileCsr t 0x10) 0 17 + csrF s (tileCsr t 0x28) 0 3 * 2 ^ 32) ++
    (List.range 31).flatMap (fun i => leBytes 8 (getR c (BitVec.ofNat 5 (i + 1))).toNat) ++ leBytes 232 0

/-- A withdrawn entry of engine `e`: the descriptor and its captured scalars, which only the vector engine has (Table 13-4). -/
def savedEntry (e : Nat) (q : QDesc) : List Byte :=
  leBytes 64 q.desc.toNat ++ (List.range 4).flatMap (fun i => leBytes 8 (if e = 3 then (q.caps.getD i 0).toNat else 0))

/-- The stream of task `id` in context `c`: the one there, or one that waits for the context since an earlier suspension (R334). -/
def taskStream (s : State) (t id c : Nat) : Option Stream :=
  match (ctxOf s t c).filter (fun x => x.q.tag == id) with
  | some x => some x
  | none => ((prtOf s t).restore.find? (fun e => e.1 == c && e.2.q.tag == id)).map (·.2)

/-- The save area (Table 13-4), with the withdrawn descriptors. -/
def saveArea (s : State) (t id pc : Nat) (qs : List (List QDesc)) : List Byte :=
  let recs := (List.range 16).flatMap (fun c => match taskStream s t id c with
    | some x => streamRecord x
    | none => leBytes 192 0)
  let entries := qs.zipIdx.flatMap (fun p => p.1.map (fun q => savedEntry p.2 q))
  let body := coreRecord s t pc ++ recs ++ (qs.map (fun l => leBytes 1 l.length)).flatten ++ leBytes 59 0 ++ (entries.take 104).flatten
  body ++ List.replicate (16384 - body.length) 0

/-- Suspension completes: the record is written, the task's queued descriptors are withdrawn, the contexts become idle (Table 13-3). -/
def suspendNow (s : State) (t : Nat) (k : Task) (pc : Nat) (g : Tgt) : State :=
  let qs := (List.range 5).map (fun e => (engQueue s t e).filter (fun q => q.tag == k.id))
  let area := saveArea s t k.id pc qs
  let s := match g with
    | .dram i o => chanWrite (flushOverlap s (t / 16) (rgnBase s i + o) 16384) [agentOf t 0] i o area false 1 none true
    | _ => s
  let mine := (List.range 16).filterMap (fun c => (taskStream s t k.id c).map (fun y => (c, y.q.addr, s.now - y.lastProgress)))
  let s := setPrt s t { prtOf s t with restore := (prtOf s t).restore.filter (fun e => e.2.q.tag != k.id) }
  let s := (mine.filter (fun m => (ctxOf s t m.1).any (fun y => y.q.tag == k.id))).foldl (fun s m => ctxIdle s t m.1) s
  let s := (List.range 5).foldl (fun s e => setEngQueue s t e ((engQueue s t e).filter (fun q => q.tag != k.id))) s
  let s := csrSetF s (tileCsr t 0x30) 0 2 0
  let s := setCore s t { coreOf s t with task := none, preempt := none, suspending := none }
  let x : Suspended := { tile := t, task := { k with busy := k.busy + (s.now - k.startedAt) }, order := s.taskCtr, hit := false,
                         streams := mine, addrs := (qs.flatten.take 104).map (·.addr) }
  csrAdd { s with suspended := s.suspended ++ [x], taskCtr := s.taskCtr + 1 } (clusterCsr (t / 16) 0x50) 1

/-- DEDUCED; log entry 25. -/
def execSuspendComplete (t : BitVec 8) (s : State) : Res :=
  let t := t.toNat
  let c := coreOf s t
  match c.suspending, c.task with
  | some (_, pc), some k =>
    let s := releaseFlush s (agentOf t 0)
    if c.accs ≠ [] ∨ agentPending s (agentOf t 0) ∨ !enginesStopped s t k.id then absent "the tile has not stopped"
    else match locTgt s k.rcd.save 16384 true with
      | .ok (.dram i o) => .next (suspendNow s t k pc (.dram i o))
      | .ok _ => .next (coreFailAt s t 3 pc)
      | .error e => .next (coreFailAt s t (accCause e) pc)
  | _, _ => absent "no suspension is in progress"

/-- A write of TAIL by the core of tile `t` to queue `q` of its cluster (R360). -/
def execWqTailWrite (t : BitVec 8) (q : BitVec 8) (tail : BitVec 32) (s : State) : Res :=
  if s.boot ≠ 0 ∨ (coreOf s t.toNat).task.isNone then absent "no task on the core"
  else .next (wqAdvance s (t.toNat / 16) q.toNat tail.toNat)

/-- The stagger delay of a cluster has run (R500). -/
def execClusterStartStagger (c : BitVec 4) (time : Nat) (s : State) : Res :=
  let d := dispOf s c.toNat
  match d.staggerUntil with
  | some u =>
    if u ≤ time ∧ s.now ≤ time then .next (setDisp (atTime s time) c.toNat { dispOf s c.toNat with staggerUntil := none })
    else absent "the delay has not passed"
  | none => absent "the cluster waits for no stagger"

/-- DSP_STATUS as it reads now (Table 13-9). -/
def dspStatus (s : State) (c : Nat) : Word :=
  let bits (f : Nat → Bool) : Nat := (List.range 16).foldl (fun m i => m + bit (f (16 * c + i)) * 2 ^ i) 0
  let levels := (List.range 8).foldl (fun m l => m + bit ((wqsOf s c).any (fun n => wqLevel s c n == l && wqHead s c n != wqTail s c n &&
    (clusterTiles c).any (fun t => tileIdle s t && frontFits s t n))) * 2 ^ l) 0
  BitVec.ofNat 64 (bits (fun t => (coreOf s t).task.isNone) + bits (fun t => s.suspended.any (fun x => x.tile == t)) * 2 ^ 16 +
    bits (fun t => (coreOf s t).preempt.isSome) * 2 ^ 32 + levels * 2 ^ 48)

/-- DSP_SELF as tile `t` reads it (R364). -/
def dspSelf (t : Nat) : Word := BitVec.ofNat 64 (t + (sramBase + t * 0x800000) * 2 ^ 8)

end Sys2Proof.Machine
end

