-- ==== Sys2Proof/Machine/FgrDecode.lean ====
section
/-! DEFINITION. What a forager descriptor does, read from its bits and the structures it names: the eight operations of Table 5-1 decoded into
work items, element by element in order (R142–R179, R114–R131). -/

namespace Sys2Proof.Machine

/-- Causes of FGR_ERR for refused accesses (Table 5-17). -/
def fgrCz (x : AccErr) : Nat :=
  match x with
  | .reserved => 0x01
  | .fault => 0x0E
  | .straddle => 0x0E
  | .miss => 0x03
  | .span => 0x02
  | .readOnly => 0x08
  | .noTarget => 0x0B

def fEnv (t : Nat) (cache : List Cached) : Env := ⟨t, cache, fgrCz⟩

/-- Cause 0x0D with the comb unit's own cause (R196): the forager stops, and CMB_ERR holds `c`. -/
def combCause (c : Nat) : Nat := 0x0D + 0x100 * c

/-- What a decode yields. -/
structure Part where
  work : List Work
  c : Counts
  deriving DecidableEq, Repr

def Part.empty : Part := ⟨[], Counts.zero⟩
def addCounts (a b : Counts) : Counts :=
  ⟨a.done + b.done, a.dropped + b.dropped, a.defaulted + b.defaulted, a.hubSkipped + b.hubSkipped, a.badWeight + b.badWeight,
   a.terms + b.terms, a.result + b.result⟩
def Part.join (a b : Part) : Part := ⟨a.work ++ b.work, addCounts a.c b.c⟩

/-- What a descriptor's beginning yields: what it found out, its aggregation, and its row positions. -/
structure Start where
  b : Begun
  agg : Option Agg := none
  nPos : Nat := 0
  deriving DecidableEq, Repr

/-- Decode parts in order. -/
def dparts (f : Nat → Dec Part) : List Nat → Dec Part
  | [] => pure Part.empty
  | i :: is => do
    let p ← f i
    let rest ← dparts f is
    pure (p.join rest)

/-! ### Header fields -/

def fdOp (d : Desc) : Nat := getF d 0 8
def fdCount (d : Desc) : Nat := getF d 32 32
def fdLoc (d : Desc) (k : Nat) : Word := BitVec.ofNat 64 (getF d (64 * k) 64)
def fdHeader (d : Desc) : Bool :=
  decide (1 ≤ fdOp d ∧ fdOp d ≤ 8) && getF d 10 6 == 0 && getF d 28 4 == 0 && (!getB d 9 || decide (getF d 16 12 < 256))

/-- Locators whose own bits are as R102 and R103 ask, and those that must be 64-byte-aligned (R578), by word of the descriptor. -/
def fdBits (d : Desc) (ks : List Nat) : Bool := ks.all (fun k => locBits (fdLoc d k))
def fdAligned (d : Desc) (ks : List Nat) : Bool := ks.all (fun k => fdLoc d k == 0 || locAligned (fdLoc d k) 64)

/-- Table 5-5. -/
def gatherBody (d : Desc) : Bool :=
  let stride := getF d 452 24
  fdBits d [2, 3, 4, 5, 6] && getF d 450 2 != 3 && getF d 476 36 == 0 &&
  (if getB d 449 then stride == 0
   else fdLoc d 5 == 0 && fdLoc d 6 == 0 && stride % 8 == 0 && (fdLoc d 4 == 0 || locKind (fdLoc d 4) == 1)) &&
  fdAligned d (if getB d 449 then [3, 4] else [3])

/-- Table 5-6, R162. -/
def walkBody (d : Desc) : Bool :=
  fdBits d [2, 3, 4, 5] && !getB d 427 && getF d 484 28 == 0 &&
  (if getB d 426 then fdCount d == 1 && fdLoc d 3 == 0 && getF d 428 16 != 0 else getF d 428 16 == 0 && getF d 444 40 == 0) && fdAligned d [4, 5]

/-- Table 5-8, R164. -/
def sampleBody (d : Desc) : Bool :=
  fdBits d [2, 3, 4, 5, 6] && getF d 503 9 == 0 && getF d 488 12 != 0 && !(fdLoc d 4 == 0 && fdLoc d 6 == 0) &&
  (fdLoc d 4 == 0) == (fdLoc d 5 == 0) && fdAligned d [4, 5]

/-- Table 5-9. -/
def scatterBody (d : Desc) : Bool :=
  fdBits d [2, 3, 4, 5] && getF d 386 126 == 0 && (getB d 384 || fdLoc d 5 == 0) && fdAligned d [2, 4, 5]

/-- Table 5-10. -/
def atomicBody (d : Desc) : Bool :=
  let base := fdLoc d 2
  let aop := getF d 448 4
  fdBits d [2, 3, 4, 5] && getF d 455 57 == 0 && decide (aop ≤ 8) && (aop != 8 || getB d 452) && !(aop == 7 && fdLoc d 4 == 0) &&
  (base == 0 || ((locKind base == 2 || locKind base == 3) && locAligned base (if getB d 452 then 8 else 4)))

/-- Table 5-12. -/
def expandBody (d : Desc) : Bool := fdBits d [2, 3, 4, 5, 6] && getF d 473 39 == 0 && fdAligned d [4, 5, 6]

/-- Table 5-13. -/
def intersectBody (d : Desc) : Bool := fdBits d [2, 3, 4, 5] && getF d 386 126 == 0 && getF d 384 2 != 3

/-- Table 5-14. -/
def prefetchBody (d : Desc) : Bool := fdBits d [2, 3] && getF d 258 254 == 0 && fdAligned d [3]

/-- A descriptor's body as its bits alone show it, whatever COUNT is (R14, R578): the cause of a failure. The manual makes a null locator of a structure
that a descriptor needs no reserved encoding, so it is found when the structure is read. (DEDUCED; log entry 15.) -/
def fdBody (d : Desc) : Option Nat :=
  let (ok, graphs) := match fdOp d with
    | 1 => (gatherBody d, [])
    | 2 => (walkBody d, [2])
    | 3 => (sampleBody d, [2])
    | 4 => (scatterBody d, [])
    | 5 => (atomicBody d, [])
    | 6 => (expandBody d, [2])
    | 7 => (intersectBody d, [2, 5])
    | _ => (prefetchBody d, [])
  if !ok then some 1 else if !fdAligned d graphs then some 0x0C else none

/-- The words of a descriptor that name tables, in order. -/
def fdTables (d : Desc) : List Nat :=
  match fdOp d with
  | 1 => [3]
  | 2 => [4]
  | 3 => if fdLoc d 4 = 0 then [] else [4]
  | 4 => [4]
  | 6 => if fdLoc d 6 = 0 then [4, 5] else [4, 5, 6]
  | 8 => [3]
  | _ => []

/-- The descriptor of the table bound as number `k`. -/
def bound (bs : List Binding) (k : Nat) : Desc := ((bs[k]?).map (·.desc)).getD 0

/-- Counts of one element. -/
def one : Counts := { Counts.zero with done := 1 }

/-! ### Index streams and rows -/

/-- Index `i` of a stream (R129): its value, and whether it is out of bounds for every table. -/
def dindex (e : Env) (l : Word) (wide : Bool) (i : Nat) : Dec (Nat × Bool) := do
  let v ← dnat e l (i * (if wide then 8 else 4)) (if wide then 8 else 4)
  pure (v, wide && decide (2 ^ 40 ≤ v))

/-- An index stream's alignment and span. -/
def dindexSpan (e : Env) (l : Word) (wide : Bool) (n : Nat) : Dec Unit := do
  let w := if wide then 8 else 4
  dcheck (locAligned l w) 1
  if n = 0 then pure ()
  else do
    let _ ← dspanTgt e l (n * w) false
    pure ()

/-- The term of a resolved row, with its counts. -/
def termPart (d : Desc) (pos : Nat) (x : Option Found) (ws : List WeightVal) (psn : Bool) : Part :=
  match x with
  | none => ⟨[], { Counts.zero with dropped := 1 }⟩
  | some f => ⟨[.term pos (foundRow d f) (tdFormFmt d f.form) ws psn],
      { Counts.zero with terms := 1, defaulted := bit f.defaulted }⟩

/-- The elements of a table suit an aggregation (R90, R185, R380). -/
def aggSuits (a : Agg) (d : Desc) (wfmt : Nat) : Bool :=
  tdElems d == a.elems && (tdFmts d).all (fun f => termOk a f wfmt)

/-- R160 and R193: one destination fits in the comb store less what open contexts hold. -/
def dcombNeed (e : Env) (a : Agg) : Dec Unit := do
  let s ← dget
  dcheck (decide (creditWords a + ctxWords s e.t ≤ 262144 ∧ ctxRecs s e.t < 4096)) 0x06

/-- Owner entries are read in advance where they lie at a peer. -/
def downers (e : Env) (a : Agg) (id : Nat) : Dec Unit :=
  if a.part then do
    let _ ← downer e a id
    pure ()
  else pure ()

/-- Global address of a local or peer target. -/
def gOf (s : State) (g : Tgt) : Nat :=
  match g with
  | .peer d a => d * 2 ^ 45 + a
  | g => globalOf s (tgtAddr s g)

/-! ### GATHER_ROWS (Table 5-5, R157, R158) -/

/-- One index of a GATHER_ROWS to the comb unit as a term of destination `pos`. -/
def gatherTerm (e : Env) (d td : Desc) (pos i : Nat) : Dec Part := do
  let ix ← dindex e (fdLoc d 2) (getB d 448) i
  let x ← dresolve e td ix.1 ix.2 true 4
  let wl := fdLoc d 6
  if wl = 0 then pure (termPart td pos x [] false)
  else do
    let f := getF d 450 2
    let b := fmtBits f / 8
    let r ← dread e wl (i * b) b
    pure (termPart td pos x [⟨ofLE r.1, f, r.2⟩] false)

/-- The terms of destination `id` at row position `pos`, opened before them and closed after them. -/
def destPart (id pos : Nat) (c : Counts) (terms : Part) : Part :=
  ((⟨[.dopen id pos], c⟩ : Part).join terms).join ⟨[.dclose pos], Counts.zero⟩

def dgatherBegin (e : Env) (d : Desc) (bs : List Binding) : Dec Start := do
  let n := fdCount d
  let wl := fdLoc d 6
  let bags := fdLoc d 5
  let td := bound bs 0
  if !getB d 449 then do
    let stride := getF d 452 24
    dcheck (!tdMixed td && decide (tdRowLen td 0 ≤ stride) && locKind (fdLoc d 4) == 1) 1
    dindexSpan e (fdLoc d 2) (getB d 448) n
    let g ← dspanTgt e (fdLoc d 4) (stride * (n - 1) + tdRowLen td 0) true
    let s ← dget
    pure { b := { n := n, home := tgtAddr s g }, nPos := n }
  else do
    let wb := fmtBits (getF d 450 2) / 8
    let a ← dagg e (fdLoc d 4) n 1 (combCause 2)
    dcheck (if a.wsrc = 2 then wl != 0 else a.wsrc == 3 && wl == 0) 1
    dcheck (aggSuits a td (getF d 450 2)) 1
    dcombNeed e a
    let total ← if bags = 0 then pure n else do
      dcheck (locAligned bags 8) 1
      let _ ← dspanTgt e bags (8 * (n + 1)) false
      dnat e bags (8 * n) 8
    dindexSpan e (fdLoc d 2) (getB d 448) total
    if wl ≠ 0 ∧ total ≠ 0 then
      let _ ← dspanTgt e wl (total * wb) false
    pure { b := { n := n, total := total }, agg := some a, nPos := n }

/-- Index `i`, or bag `i`. -/
def dgatherElem (e : Env) (d : Desc) (bs : List Binding) (x : Begun) (agg : Option Agg) (i : Nat) : Dec Part := do
  let td := bound bs 0
  match agg with
  | none => do
    let ix ← dindex e (fdLoc d 2) (getB d 448) i
    let a := x.home + i * getF d 452 24
    match ← dresolve e td ix.1 ix.2 true 4 with
    | none => do
      let s ← dget
      pure ⟨[.write (globalOf s a) (List.replicate (tdRowLen td 0) 0) false], { one with dropped := 1 }⟩
    | some f => pure ⟨[.toSpad a (foundRow td f)], { one with defaulted := bit f.defaulted }⟩
  | some a => do
    let (lo, hi) ← if fdLoc d 5 = 0 then pure (i, i + 1) else do
      let lo ← dnat e (fdLoc d 5) (8 * i) 8
      let hi ← dnat e (fdLoc d 5) (8 * (i + 1)) 8
      dcheck (decide (lo ≤ hi ∧ hi ≤ x.total)) 5
      pure (lo, hi)
    downers e a i
    let p ← dparts (gatherTerm e d td i) ((List.range (hi - lo)).map (fun k => lo + k))
    pure (destPart i i one p)

/-! ### Graphs (R114–R124) -/

def gBase (g : Desc) : Nat := getF g 192 40
def gCount (g : Desc) : Nat := getF g 232 40
def gEdges (g : Desc) : Nat := getF g 272 48
def gSeg (g : Desc) : Nat := getF g 320 16
def gAttr (g : Desc) (k : Nat) : Word := BitVec.ofNat 64 (getF g (368 + 64 * k) 64)
def gAttrFmt (g : Desc) (k : Nat) : Nat := getF g (496 + 4 * k) 4
def gAttrN (g : Desc) (k : Nat) : Nat := getF g (504 + 4 * k) 4 + 1

def gLegal (g : Desc) : Bool :=
  let attr (k : Nat) : Bool := gAttr g k == 0 || (decide (gAttrFmt g k ≤ 7) && locAligned (gAttr g k) (fmtBits (gAttrFmt g k) / 8))
  getF g 0 64 != 0 && getF g 64 64 != 0 && gCount g != 0 && decide (1024 ≤ gSeg g ∧ gSeg g ≤ 16384 ∧ gSeg g ≤ getF g 336 32) &&
  attr 0 && attr 1

/-- Read and check a graph descriptor (R159); `attrs` are the streams asked for. -/
def dgraph (e : Env) (l : Word) (attrs : Nat) : Dec Desc := do
  let g ← ddesc e l 0x0C
  dcheck (gLegal g && !(attrs.testBit 0 && gAttr g 0 == 0) && !(attrs.testBit 1 && gAttr g 1 == 0)) 0x0C
  pure g

/-- A vertex as its index entry gives it. -/
structure Vertex where
  edge : Nat
  deg : Nat
  list : Nat
  hub : Bool
  deriving DecidableEq, Repr

/-- The index entry of vertex `i` of the graph (R115–R117, R121). -/
def dvertex (e : Env) (g : Desc) (i : Nat) : Dec Vertex := do
  let r ← dread e (BitVec.ofNat 64 (getF g 0 64)) (16 * i) 32
  let x := BitVec.ofNat 256 (ofLE r.1)
  let e0 := getF x 0 48
  let e1 := getF x 128 48
  let hub := getB x 96
  dcheck (getF x 97 31 == 0 && (if i + 1 = gCount g then e1 == gEdges g && getF x 176 80 == 0 else getF x 225 31 == 0) && decide (e0 ≤ e1)) 4
  dcheck (hub == decide (getF g 336 32 ≤ e1 - e0) && (e0 == e1 || getF x 48 48 % 8 == 0)) 4
  pure ⟨e0, e1 - e0, getF x 48 48, hub⟩

/-- The neighbours of a run after FIRST, by summing deltas of `w` bytes. -/
def runIds (w : Nat) : Nat → List Byte → Nat → List Nat
  | 0, _, _ => []
  | k + 1, bs, v => let v' := v + ofLE (bs.take w); v' :: runIds w k (bs.drop w) v'

/-- A chain of runs from byte offset `o` of ADJ that holds exactly `want` neighbours (R118–R121); `last` is the neighbour before. -/
def druns (e : Env) (g : Desc) : Nat → Nat → Nat → Nat → Dec (List Nat)
  | 0, _, _, _ => dfail 4
  | f + 1, o, want, last => do
    let adj := BitVec.ofNat 64 (getF g 64 64)
    let h := BitVec.ofNat 64 (← dnat e adj o 8)
    let n := getF h 40 8
    let w := [1, 2, 3, 5].getD (getF h 48 2) 1
    let len := 8 + (n - 1) * w
    dcheck (getF h 51 13 == 0 && o % 8 == 0 && decide (1 ≤ n ∧ n ≤ 249 ∧ o % 256 + len ≤ 256 ∧ n ≤ want)) 4
    let r ← dread e adj (o + 8) (roundUp len 8 - 8)
    let ids := getF h 0 40 :: runIds w (n - 1) r.1 (getF h 0 40)
    dcheck ((r.1.drop (len - 8)).all (fun b => b == 0) && decide (last ≤ getF h 0 40) && ids.all (fun v => decide (v < 2 ^ 40))) 4
    if getB h 50 then do
      dcheck (n == want) 4
      pure ids
    else do
      let rest ← druns e g f (o + roundUp len 8) (want - n) (ids.getLastD 0)
      pure (ids ++ rest)

/-- Segments `first` to `first + n − 1` of a hub (R122, R123). -/
def dsegs (e : Env) (g : Desc) (v : Vertex) : Nat → Nat → Dec (List Nat)
  | 0, _ => pure []
  | n + 1, k => do
    let x := BitVec.ofNat 64 (← dnat e (BitVec.ofNat 64 (getF g 128 64)) (v.list + 8 * k) 8)
    dcheck (getF x 48 16 == 0) 4
    let want := min (gSeg g) (v.deg - k * gSeg g)
    let ids ← druns e g (want + 1) (getF x 0 48) want 0
    let rest ← dsegs e g v n (k + 1)
    pure (ids ++ rest)

/-- Number of segments of a hub. -/
def segCount (g : Desc) (v : Vertex) : Nat := ceilDiv v.deg (gSeg g)

/-- The whole neighbour list, through the segments for a hub. -/
def dneigh (e : Env) (g : Desc) (v : Vertex) : Dec (List Nat) :=
  if v.deg = 0 then pure []
  else if v.hub then dsegs e g v (segCount g v) 0
  else druns e g (v.deg + 1) v.list v.deg 0

/-- The elements of attribute stream `k` for edge `o`, each with its own poison mark (R581). -/
def dattr (e : Env) (g : Desc) (k o : Nat) : Dec (List WeightVal) := do
  let f := gAttrFmt g k
  let b := fmtBits f / 8
  let r ← dreadMarks e (gAttr g k) (o * gAttrN g k * b) (gAttrN g k * b)
  pure ((readVals b (gAttrN g k + 1) r.1).zipIdx.map (fun v => ⟨v.1, f, ((r.2.drop (b * v.2)).take b).any (·)⟩))

/-- The attributes of an edge: the weights of the aggregation's source, and whether an attached element that is no head's weight is poisoned. A poisoned
weight poisons the elements and the denominator of its head, any other poisoned attribute the whole term (R581). (DEDUCED; log entry 19.) -/
def dedge (e : Env) (g : Desc) (attrs : Nat) (a : Agg) (o : Nat) : Dec (List WeightVal × Bool) := do
  let x ← if attrs.testBit 0 then dattr e g 0 o else pure []
  let y ← if attrs.testBit 1 then dattr e g 1 o else pure []
  let (ws, rest) := if a.wsrc = 0 then (x, y) else if a.wsrc = 1 then (y, x) else ([], x ++ y)
  pure (ws, (ws.drop a.heads ++ rest).any (·.psn))

/-- An aggregation over a graph's edges: its weight source is attached, holds an element per head, and its format is accepted. -/
def aggGraph (a : Agg) (g : Desc) (attrs : Nat) (td : Desc) : Bool :=
  a.wsrc != 2 && (a.wsrc == 3 || (attrs.testBit a.wsrc && decide (a.heads ≤ gAttrN g a.wsrc))) &&
  aggSuits a td (if a.wsrc = 3 then 0 else gAttrFmt g a.wsrc)

/-- Destination `i` of a WALK or SAMPLE: its vertex ID, `none` when its list entry is not one. -/
def ddest (e : Env) (d : Desc) (first i : Nat) : Dec (Option Nat) := do
  let dl := fdLoc d 3
  if dl = 0 then pure (some (first + i))
  else do
    let v ← dnat e dl (8 * i) 8
    pure (if 2 ^ 40 ≤ v then none else some v)

def ddestSpan (e : Env) (d : Desc) (n : Nat) : Dec Unit := do
  if fdLoc d 3 = 0 ∨ n = 0 then pure ()
  else do
    dcheck (locAligned (fdLoc d 3) 8) 1
    let _ ← dspanTgt e (fdLoc d 3) (8 * n) false
    pure ()

/-- A vertex of the graph by ID, when it lies in range. -/
def inGraph (g : Desc) (v : Nat) : Bool := decide (gBase g ≤ v ∧ v < gBase g + gCount g)

/-- The terms of listed edges: neighbour IDs with their edge ordinals. -/
def dterms (e : Env) (g td : Desc) (a : Agg) (attrs pos : Nat) (edges : List (Nat × Nat)) : Dec Part :=
  dparts (fun k => do
    let x := edges.getD k (0, 0)
    let r ← dresolve e td x.1 false true 4
    let w ← dedge e g attrs a x.2
    pure (termPart td pos r w.1 w.2)) (List.range edges.length)

/-! ### WALK (Table 5-6) -/

def dwalkBegin (e : Env) (d : Desc) (bs : List Binding) : Dec Start := do
  let n := fdCount d
  let attrs := getF d 424 2
  let g ← dgraph e (fdLoc d 2) attrs
  let a ← dagg e (fdLoc d 5) n 1 (combCause 2)
  dcheck (aggGraph a g attrs (bound bs 0)) 1
  ddestSpan e d n
  dcombNeed e a
  pure { b := { n := n, g := g }, agg := some a, nPos := n }

/-- Destination `i` (Table 5-7). -/
def dwalkElem (e : Env) (d : Desc) (bs : List Binding) (b : Begun) (a : Agg) (i : Nat) : Dec Part := do
  let seg := getB d 426
  let g := b.g
  let id ← ddest e d (getF d 384 40) i
  match id.bind (fun v => if inGraph g v then some v else none) with
  | none => pure ⟨[.dskip i], { one with dropped := 1 }⟩
  | some id => do
    let x ← dvertex e g (id - gBase g)
    if x.hub && !seg then pure ⟨[.dskip i], { one with hubSkipped := 1 }⟩
    else if seg && !x.hub then dfail 7
    else do
      let lo := if seg then getF d 444 40 else 0
      let k := getF d 428 16
      dcheck (!seg || decide (lo + k ≤ segCount g x)) 7
      let ids ← if seg then dsegs e g x k lo else dneigh e g x
      downers e a id
      let o := x.edge + (if seg then lo * gSeg g else 0)
      let p ← dterms e g (bound bs 0) a (getF d 424 2) i (ids.zipIdx.map (fun y => (y.1, o + y.2)))
      pure (destPart id i one p)

/-! ### SAMPLE (Table 5-8, R164–R168) -/

/-- Uniform choice without replacement: the set after draws `j` of `k`. -/
def sampleUniform (r : Nat → Nat) (deg k : Nat) : Nat → List Nat → List Nat
  | 0, s => s
  | f + 1, s =>
    let j := k - (f + 1)
    let m := deg - k + j
    let t := r j * (m + 1) / 2 ^ 64
    sampleUniform r deg k f (if s.contains t then m :: s else t :: s)

/-- The least position whose running weight passes `x`. -/
def pickWeight (x : Nat) : List Nat → Nat → Nat → Nat
  | [], p, _ => p
  | n :: ns, p, acc => if x < acc + n then p else pickWeight x ns (p + 1) (acc + n)

/-- A sampling weight as the integer value × 2^149; `none` when it is negative, NaN or infinite (R166). -/
def sampleWeight (w : WeightVal) : Option Nat :=
  match decodeElem w.fmt w.bits with
  | .fin s n d e => if s ∧ n ≠ 0 then none else let x := shiftFrac n d (e + 149); some (x.1 / x.2)
  | _ => none

def dsampleBegin (e : Env) (d : Desc) (bs : List Binding) : Dec Start := do
  let n := fdCount d
  let attrs := getF d 501 2
  let sout := fdLoc d 6
  let g ← dgraph e (fdLoc d 2) attrs
  dcheck (!(getB d 500 && gAttr g 0 == 0)) 1
  let a ← if fdLoc d 4 = 0 then pure none else do
    let a ← dagg e (fdLoc d 5) n 1 (combCause 2)
    dcheck (aggGraph a g attrs (bound bs 0)) 1
    dcombNeed e a
    pure (some a)
  ddestSpan e d n
  let s ← dget
  let gout ← if sout = 0 then pure none else do
    let x ← dspanTgt e sout (n * getF d 488 12 * 8) true
    pure (some (gOf s x))
  pure { b := { n := n, g := g, out := gout }, agg := a, nPos := n }

/-- The sample list of destination `i` (R168), in writes of at most 2 KiB. -/
def sampleList (d : Desc) (b : Begun) (i : Nat) (ids : List Nat) (psn : Bool) : List Work :=
  let k := getF d 488 12
  match b.out with
  | none => []
  | some g =>
    let bs := (ids ++ List.replicate (k - ids.length) (2 ^ 64 - 1)).flatMap (leBytes 8)
    let g := g + i * k * 8
    (rowPieces (bs.length / 2048 + 1) g bs.length).map (fun q => .write q.1 ((bs.drop (q.1 - g)).take q.2) psn)

/-- The positions chosen (R166): `ws` are the weights under METHOD 1, `r` the draws. -/
def samplePick (weighted : Bool) (deg k : Nat) (ws : List WeightVal) (r : Nat → Nat) : List Nat :=
  let nw := ws.map (fun w => (sampleWeight w).getD 0)
  let total := nw.foldl (· + ·) 0
  if deg ≤ k then List.range deg
  else if weighted then (if total = 0 then [] else (List.range k).map (fun j => pickWeight (r j * total / 2 ^ 64) nw 0 0))
  else (sampleUniform r deg k k []).mergeSort (· ≤ ·)

/-- Destination `i`. -/
def dsampleElem (e : Env) (d : Desc) (bs : List Binding) (b : Begun) (agg : Option Agg) (i : Nat) : Dec Part := do
  let k := getF d 488 12
  let weighted := getB d 500
  let g := b.g
  let id ← ddest e d (getF d 448 40) i
  match id.bind (fun v => if inGraph g v then some v else none) with
  | none => pure ⟨sampleList d b i [] false ++ [.dskip i], { one with dropped := 1 }⟩
  | some id => do
    let x ← dvertex e g (id - gBase g)
    let ids ← dneigh e g x
    let s ← dget
    let so := seedOrdinal s (e.t / 16)
    let dom := if weighted then 3 else 2
    let r (j : Nat) : Nat := drawWord so.1 dom id so.2 (2 * j) + 2 ^ 32 * drawWord so.1 dom id so.2 (2 * j + 1)
    let ws ← if weighted && decide (k < x.deg) then
        (List.range x.deg).mapM (fun p => do
          let w ← dattr e g 0 (x.edge + p)
          pure (w.getD 0 ⟨0, 0, false⟩))
      else pure []
    let bad := ws.any (·.psn)
    if bad then dmod (fun s => raise s (tileSrc 1 e.t) 0x15 CONTAIN)
    let pos := if bad then [] else samplePick weighted x.deg k ws r
    let cnt : Counts := { one with badWeight := ws.countP (fun w => !w.psn && (sampleWeight w).isNone) }
    let out := sampleList d b i (pos.map (fun p => ids.getD p 0)) bad
    match agg with
    | none => pure ⟨out, cnt⟩
    | some a => do
      downers e a id
      let p ← if bad then pure ⟨[.psnTerm i], { Counts.zero with terms := 1 }⟩
        else dterms e g (bound bs 0) a (getF d 501 2) i (pos.map (fun p => (ids.getD p 0, x.edge + p)))
      pure ((⟨out, Counts.zero⟩ : Part).join (destPart id i cnt p))

/-! ### SCATTER (Table 5-9, R169–R171) -/

/-- DEDUCED; log entry 19. -/
def dscatterBegin (e : Env) (d : Desc) (bs : List Binding) : Dec Start := do
  let n := fdCount d
  let src ← ddesc e (fdLoc d 2) 1
  dcheck (tLegal src && decide (n ≤ tExt src 1) && !isMX (tFmt src)) 1
  let g ← dspan e src false
  dcheck (match g with
    | .spad _ => true
    | _ => false) 2
  let td := bound bs 0
  dcheck (tdElems td == tSize src 0) 1
  dcheck (tdWritable td) 8
  dindexSpan e (fdLoc d 3) (getB d 385) n
  if !getB d 384 then do
    dcheck (!tdMixed td && tdFmt td == tFmt src) 1
    pure { b := { n := n, src := src } }
  else do
    let a ← dagg e (fdLoc d 5) 0 1 (combCause 2)
    dcheck (a.part && (a.pool == 0 || a.pool == 2 || a.pool == 3) && a.elems == tSize src 0 && termOk a (tFmt src) 0) 1
    dcombNeed e a
    pure { b := { n := n, src := src }, agg := some a }

/-- Source row `i`. -/
def dscatterElem (e : Env) (d : Desc) (bs : List Binding) (b : Begun) (agg : Option Agg) (i : Nat) : Dec Part := do
  let td := bound bs 0
  let src := b.src
  let row : Dec (List Byte × Bool) := do
    let l ← dadd e (tBase src) (i * tStride src 1)
    dread e l 0 (tRowBytes src)
  let ix ← dindex e (fdLoc d 3) (getB d 385) i
  match agg with
  | none => do
    match ← dresolve e td ix.1 ix.2 false 4 with
    | none => pure ⟨[], { one with dropped := 1 }⟩
    | some f => do
      let r ← row
      let bs := r.1 ++ List.replicate (tdStride td 0 - tdRowLen td 0) (0 : Byte)
      pure ⟨(rowPieces (bs.length / 2048 + 1) f.g bs.length).map (fun q => .write q.1 ((bs.drop (q.1 - f.g)).take q.2) r.2),
        { one with terms := 1 }⟩
  | some a =>
    if ix.2 || decide (tdRows td ≤ ix.1) then pure ⟨[], { one with dropped := 1 }⟩
    else do
      downers e a ix.1
      let r ← row
      pure ⟨[.dopen ix.1 ix.1, .sterm ix.1 r.1 r.2 (tFmt src)], { one with terms := 1 }⟩

/-! ### ATOMIC (Table 5-10, R172–R174) -/

/-- Where BASE lies: the global address of element 0 and, for a local BASE, the bytes from it to its region's end. -/
def atomicBegin (e : Env) (d : Desc) : Dec Start := do
  let n := fdCount d
  let base := fdLoc d 2
  let tas := getF d 448 4 == 8
  let w := if getB d 452 then 8 else 4
  dcheck (base != 0) 1
  let s ← dget
  let (home, reach) ← if locKind base = 3 ∧ locDev base ≠ ownId s then do
      dcheck (peerUsable s (locDev base)) 0x0B
      pure (locDev base * 2 ^ 45 + locLocal base, (none : Option Nat))
    else match locTgt s base 1 true with
      | .ok (.dram i o) => pure (globalOf s (rgnBase s i + o), some (rgnSize s i - o))
      | .ok _ => dfail 0x0E
      | .error x => dfail (fgrCz x)
  if fdLoc d 3 = 0 then pure () else dindexSpan e (fdLoc d 3) (getB d 454) n
  let gres ← if fdLoc d 5 = 0 then pure none else do
    let x ← dspanTgt e (fdLoc d 5) (n * (if tas then 1 else w)) true
    pure (some (gOf s x))
  if fdLoc d 4 ≠ 0 ∧ !tas then
    dcheck (locAligned (fdLoc d 4) w) 1
    let _ ← dspanTgt e (fdLoc d 4) (n * w) false
  pure { b := { n := n, home := home, reach := reach, out := gres } }

/-- Operation `i`. One at a peer whose word would pass the end of a local address is dropped like one beyond BASE's region.
(DESIGN CHOICE; log entry 17.) -/
def datomic (e : Env) (d : Desc) (b : Begun) (i : Nat) : Dec Part := do
  let tas := getF d 448 4 == 8
  let w64 := getB d 452
  let w := if w64 then 8 else 4
  let rb := if tas then 1 else w
  let ix ← if fdLoc d 3 = 0 then pure (i, false) else dindex e (fdLoc d 3) (getB d 454) i
  let off := if tas then ix.1 / 64 * 8 else ix.1 * w
  let beyond := match b.reach with
    | some len => decide (len < off + w)
    | none => decide (2 ^ 45 < b.home % 2 ^ 45 + off + w)
  if ix.2 || beyond then pure ⟨[], { one with dropped := 1 }⟩
  else do
    let imm := getF d 384 64
    let opnd ← if fdLoc d 4 = 0 ∨ tas then pure imm else dnat e (fdLoc d 4) (i * w) w
    pure ⟨[.atom (b.home + off) (getF d 448 4) w64 (getB d 453) opnd imm (b.out.map (fun r => (r + i * rb, rb))) (ix.1 % 64)], one⟩

/-! ### EXPAND (Table 5-12, R175, R176) -/

/-- A table of 8-byte rows. -/
def bitTable (td : Desc) : Bool := !tdMixed td && tdRowLen td 0 == 8

/-- DEDUCED; log entry 17. -/
def dexpandBegin (e : Env) (d : Desc) (bs : List Binding) : Dec Start := do
  let n := fdCount d
  let g ← dgraph e (fdLoc d 2) 0
  dcheck ((List.range bs.length).all (fun k => bitTable (bound bs k))) 1
  dcheck (locAligned (fdLoc d 3) (if getB d 448 then 8 else 64)) 1
  let _ ← dspanTgt e (fdLoc d 3) (if getB d 448 then ceilDiv n 64 * 8 else 64 + 8 * n) false
  pure { b := { n := n, g := g } }

/-- The edges of one frontier vertex: the visited bit, and the parent word whatever it was (R175). -/
def expandEdges (d : Desc) (u : Nat) (ids : List Nat) : List Work :=
  ids.flatMap (fun w => .edge w :: (if fdLoc d 6 = 0 then [] else [.parent w (getF d 449 24 * 2 ^ 40 + u)]))

/-- Frontier entry `i`: a list entry, or a vertex that the bitmap covers. -/
def dexpandElem (e : Env) (d : Desc) (b : Begun) (i : Nat) : Dec Part := do
  let g := b.g
  let u ← if getB d 448 then do
      let w ← dnat e (fdLoc d 3) (8 * (i / 64)) 8
      pure (if w.testBit (i % 64) then some (some (gBase g + i)) else none)
    else do
      let v ← dnat e (fdLoc d 3) (64 + 8 * i) 8
      pure (some (if inGraph g v then some v else none))
  match u with
  | none => pure Part.empty
  | some none => pure ⟨[], { one with dropped := 1 }⟩
  | some (some u) =>
    if !inGraph g u then pure ⟨[], { one with dropped := 1 }⟩
    else do
      let x ← dvertex e g (u - gBase g)
      let ids ← dneigh e g x
      pure ⟨expandEdges d u ids, one⟩

/-- The row of a bitmap or parent table for one step of an edge: what to do at it, or a dropped neighbour (Table 5-4). -/
def dexpandStep (e : Env) (td : Desc) (row : Nat) (f : Nat → Work) (c : Counts) : Dec Part := do
  match ← dresolve e td row false false 4 with
  | some x => pure ⟨[f x.g], c⟩
  | none => pure ⟨[], { Counts.zero with dropped := 1 }⟩

/-! ### INTERSECT_COUNT (Table 5-13, R177, R178) -/

/-- A neighbour ID is below the one before it; within a hub segment the decode has stopped there (R121). (DEDUCED; log entry 57.) -/
def falls : List Nat → Bool
  | x :: y :: xs => decide (y < x) || falls (y :: xs)
  | _ => false

/-- A free value in the course of a decode. (DEDUCED; log entry 57.) -/
def dfree : Dec Nat := dstep (fun s => let (w, s) := freshFree s; (w.toNat, s))

/-- Matches of two non-decreasing lists above `m`, each common value counted with the lesser multiplicity. -/
def mergeCount (ok : Nat → Bool) : Nat → List Nat → List Nat → Nat
  | 0, _, _ => 0
  | _, [], _ => 0
  | _, _, [] => 0
  | f + 1, x :: xs, y :: ys =>
    if x < y then mergeCount ok f xs (y :: ys)
    else if y < x then mergeCount ok f (x :: xs) ys
    else (if ok x then 1 else 0) + mergeCount ok f xs ys

def dintersectBegin (e : Env) (d : Desc) : Dec Start := do
  let n := fdCount d
  let g ← dgraph e (fdLoc d 2) 0
  let g2 ← if fdLoc d 5 = 0 then pure g else dgraph e (fdLoc d 5) 0
  dcheck (locAligned (fdLoc d 3) 8) 1
  let _ ← dspanTgt e (fdLoc d 3) (16 * n) false
  let s ← dget
  let gout ← if fdLoc d 4 = 0 then pure none else do
    let x ← dspanTgt e (fdLoc d 4) (8 * n) true
    pure (some (gOf s x))
  pure { b := { n := n, g := g, g2 := g2, out := gout } }

/-- Pair `i`. A dropped pair is an element processed too. (DEDUCED; log entry 17.) -/
def dintersect (e : Env) (d : Desc) (b : Begun) (i : Nat) : Dec Part := do
  let out (c : Nat) : List Work := match b.out with
    | some a => [.write (a + 8 * i) (leBytes 8 c) false]
    | none => []
  let x := BitVec.ofNat 128 (ofLE (← dread e (fdLoc d 3) (16 * i) 16).1)
  let u := getF x 0 40
  let v := getF x 64 40
  if getF x 40 24 ≠ 0 ∨ getF x 104 24 ≠ 0 ∨ !inGraph b.g u ∨ !inGraph b.g2 v then pure ⟨out 0, { one with dropped := 1 }⟩
  else do
    let va ← dvertex e b.g (u - gBase b.g)
    let la ← dneigh e b.g va
    let vb ← dvertex e b.g2 (v - gBase b.g2)
    let lb ← dneigh e b.g2 vb
    let above := getF d 384 2
    let ok (w : Nat) : Bool := above == 0 || (above == 1 && decide (v < w)) || (above == 2 && decide (max u v < w))
    let c ← if falls la || falls lb then dfree else pure (mergeCount ok (la.length + lb.length + 1) la lb)
    pure ⟨out c, { one with result := c }⟩

/-! ### PREFETCH (Table 5-14, R179) -/

def dprefetchBegin (e : Env) (d : Desc) (bs : List Binding) : Dec Start := do
  let n := fdCount d
  dindexSpan e (fdLoc d 2) (getB d 256) n
  let s ← dget
  pure { b := { n := n, idle := !cacheable s (e.t / 16) (tdClass (bound bs 0)) } }

/-- Index `i`. -/
def dprefetchElem (e : Env) (d : Desc) (bs : List Binding) (b : Begun) (i : Nat) : Dec Part := do
  let td := bound bs 0
  let ix ← dindex e (fdLoc d 2) (getB d 256) i
  match ← dresolve e td ix.1 ix.2 false 4 with
  | none => pure ⟨[], { one with dropped := 1 }⟩
  | some f => pure (if b.idle then Part.empty else ⟨[.fill (foundRow td f) (getB d 257)], one⟩)

/-! ### Any descriptor -/

/-- A descriptor's own bits and its counts record, for any COUNT (R14, R140, R143, R578). -/
def dcheckDesc (e : Env) (d : Desc) : Dec Unit := do
  dcheck (fdHeader d) 1
  match fdBody d with
  | some c => dfail c
  | none => dstats e (fdLoc d 1) 1

/-- What a descriptor reads when it begins, its tables being bound. -/
def dbegin (e : Env) (d : Desc) (bs : List Binding) : Dec Start :=
  match fdOp d with
  | 1 => dgatherBegin e d bs
  | 2 => dwalkBegin e d bs
  | 3 => dsampleBegin e d bs
  | 4 => dscatterBegin e d bs
  | 5 => atomicBegin e d
  | 6 => dexpandBegin e d bs
  | 7 => dintersectBegin e d
  | _ => dprefetchBegin e d bs

/-- Element `i` of a descriptor. -/
def delem (e : Env) (d : Desc) (bs : List Binding) (b : Begun) (agg : Option Agg) (i : Nat) : Dec Part :=
  match fdOp d, agg with
  | 1, _ => dgatherElem e d bs b agg i
  | 2, some a => dwalkElem e d bs b a i
  | 3, _ => dsampleElem e d bs b agg i
  | 4, _ => dscatterElem e d bs b agg i
  | 5, _ => datomic e d b i
  | 6, _ => dexpandElem e d b i
  | 7, _ => dintersect e d b i
  | 8, _ => dprefetchElem e d bs b i
  | _, _ => pure Part.empty

end Sys2Proof.Machine
end

