-- ==== Sys2Proof/Machine/Forager.lean ====
section
/-! DEFINITION. The forager at work (chapter 5): beginning descriptors, request slots, coalescing, flow control, landing of rows, near-memory
atomics, completion and failure. -/

namespace Sys2Proof.Machine

/-! ### Jobs and slots -/

def jobOf (s : State) (t n : Nat) : Option Job := (fgrOf s t).jobs.find? (fun j => j.num == n)
def setJob (s : State) (t : Nat) (j : Job) : State :=
  setFgr s t { fgrOf s t with jobs := (fgrOf s t).jobs.map (fun x => if x.num = j.num then j else x) }
def slotOf (s : State) (t i : Nat) : Option Slot := tabGet (fun _ => none) (fgrOf s t).slots i
def setSlot (s : State) (t i : Nat) (x : Option Slot) : State :=
  setFgr s t { fgrOf s t with slots := tabSet (fun _ => none) (fgrOf s t).slots i x }

/-- A request slot of `[lo, hi)` that is free. -/
def freeSlot (s : State) (t lo hi : Nat) : Option Nat :=
  ((List.range (hi - lo)).find? (fun k => (slotOf s t (lo + k)).isNone)).map (fun k => lo + k)

def slotsBusy (s : State) (t : Nat) : Nat := (fgrOf s t).slots.length
def remoteBusy (s : State) (t : Nat) : Nat := (fgrOf s t).slots.countP (fun e => (e.2.map (·.remote)).getD false)
/-- Another request to a peer is allowed (R153). -/
def remoteRoom (s : State) (t : Nat) : Bool := decide (remoteBusy s t < csrF s (tileCsr t 0x2000) 0 13)
/-- Chain blocks of 64 waiters in use beyond the 64 inline (R150). -/
def chainBlocks (s : State) (t : Nat) : Nat :=
  (fgrOf s t).slots.foldl (fun n e => n + ceilDiv ((e.2.map (fun x => x.waiters.length)).getD 0 - 64) 64) 0

def fgrCnt (t k : Nat) : Nat := tileCsr t (0x2040 + 8 * k)

/-- Release a bound version; a slot freed by it is reported (R385, Table 14-4). -/
def releaseBound (s : State) (vs : List Nat) : State :=
  vs.foldl (fun s v => match verRelease s v with
    | (some id, s) => evqPost s 0x04 0 0 id 0
    | (none, s) => s) s

/-- The job that a request belongs to. -/
def contJob (t : Nat) : Cont → Option Nat
  | .fgrWrite t' _ n => if t' = t then some n else none
  | .fgrAtom t' _ n _ _ _ => if t' = t then some n else none
  | .combWrite t' n _ _ => if t' = t then some n else none
  | _ => none

/-- The request slot of a request. -/
def contSlot (t : Nat) : Cont → Option Nat
  | .fetch t' i => if t' = t then some i else none
  | .fgrWrite t' i _ => if t' = t then some i else none
  | .fgrAtom t' i _ _ _ _ => if t' = t then some i else none
  | _ => none

/-- Requests of a job that are held back go no more, and give up their slots (R181). -/
def dropHeld (s : State) (t n : Nat) : State :=
  let gone (r : Req) : Bool := r.held && (contJob t r.cont == some n ||
    (match contSlot t r.cont with
      | some i => ((slotOf s t i).map (fun x => x.kind == 0 && x.waiters == [])).getD false
      | none => false))
  let slots := (s.reqs.filter gone).filterMap (fun r => contSlot t r.cont)
  slots.foldl (fun s i => setSlot s t i none) { s with reqs := s.reqs.filter (fun r => !gone r) }

/-- Everything a job holds is let go: its destinations, credit requests, waiters and bindings, and requests not sent yet. Slots whose answers are
still to come stay until they come (R181). -/
def dropJob (s : State) (t : Nat) (j : Job) : State :=
  let f := fgrOf s t
  let s := setFgr s t { f with
    jobs := f.jobs.filter (fun x => x.num != j.num)
    slots := f.slots.map (fun e => (e.1, e.2.map (fun x => { x with waiters := x.waiters.filter (fun w => w.job != j.num) }))) }
  let s := cmbRelease s t (fun d => d.owner == j.num) (fun r => r.owner == j.num)
  releaseBound (dropHeld s t j.num) (j.binds.map (·.slot))

/-- The descriptor stops with CONTAIN of a kind (R181). A cause above 0x100 is the comb unit's, beside 0x0D of the forager (R196).
(DESIGN CHOICE; log entry 16.) -/
def jobFailAs (s : State) (t : Nat) (j : Job) (cause kind : Nat) : State :=
  let s := if 0x100 ≤ cause then engRecord s t 0x3010 12 (cause / 0x100) j.q.addr else s
  let s := engFail s t 1 0x2010 16 (fdOp j.q.desc + cause % 0x100 * 2 ^ 8) j.q.addr j.q.tag kind
  let s := dropJob s t j
  setFgr s t { fgrOf s t with stopped := true }

/-- The same with the kind that Table 20-3 gives the cause. -/
def jobFail (s : State) (t : Nat) (j : Job) (cause : Nat) : State :=
  jobFailAs s t j cause (if cause = 9 then 0x15 else if cause = 0x0A ∨ cause = 0x0B then 0x24 else 0x20)

/-! ### Destinations of a job -/

/-- OUT_SEM signals due for completed blocks of positions (R195). -/
def jobSignals (s : State) (t : Nat) (j : Job) (final : Bool) : State :=
  match j.agg with
  | none => s
  | some a =>
    if !a.sigEn then s
    else
      let due := signalsDue j.donePos j.nPos a.block final
      combSettle (combSig (setJob s t { j with signalled := max j.signalled due }) t a.outSem (due - j.signalled)) t

/-- A position is written or dropped. -/
def jobDone (s : State) (t n pos : Nat) : State :=
  match jobOf s t n with
  | none => s
  | some j =>
    let j := { j with donePos := pos :: j.donePos }
    jobSignals (setJob s t j) t j false

/-- How a job's rows are written. -/
def jobBy (j : Job) : RowBy := ⟨j.num, j.q.addr, j.q.tag, getB j.q.desc 8⟩

/-- Finish a destination of a job: finalise and write it, or send its partial; `parts` is its PARTS bit. -/
def jobFinish (s : State) (t n : Nat) (d : Dest) (parts : Nat) : State :=
  match jobOf s t n with
  | none => s
  | some j =>
    match j.agg with
    | none => s
    | some a =>
      match combFinish s t (jobBy j) a d parts j.cache j.wrote with
      | .error c => jobFail s t j (combCause c)
      | .ok s =>
        let s := match jobOf s t n with
          | some j => setJob s t { j with
              outstanding := j.outstanding + (if a.part then 1 else 0)
              wrote := if !a.part && rowsMeet a then d.pos :: j.wrote else j.wrote }
          | none => s
        jobDone s t n d.pos

/-- Finish a destination once every term it will take has arrived. -/
def jobFinishIfDone (s : State) (t n pos : Nat) : State :=
  match destOf s t n pos with
  | some d => if d.allKnown ∧ d.left = 0 then jobFinish s t n d 1 else s
  | none => s

/-- A term arrives at its destination. -/
def jobTerm (s : State) (t n pos : Nat) (xs : List Num) (ws : List WeightVal) (psn : Bool) : State :=
  match jobOf s t n with
  | none => s
  | some j =>
    match j.agg with
    | none => s
    | some a =>
      match combTerm s t n pos a xs ws psn with
      | (true, s) => jobFail s t j (combCause 7)
      | (false, s) =>
        match destOf s t n pos with
        | some d => jobFinishIfDone (setDest s t { d with left := d.left - 1 }) t n pos
        | none => s

/-- One more term is on its way to a destination. -/
def destExpect (s : State) (t n pos : Nat) : State :=
  match destOf s t n pos with
  | some d => setDest s t { d with left := d.left + 1 }
  | none => s

/-! ### Rows landing -/

/-- The whole row of a buffer, and its poison. -/
def bufRow (b : TermBuf) : List Byte × Bool :=
  ((List.range b.need).flatMap (fun k => ((b.got.find? (fun g => g.1 == k)).map (·.2.1)).getD []), b.got.any (·.2.2))

/-- Elements of a row in a format. -/
def rowVals (fmt n : Nat) (row : List Byte) : List Num := (List.range n).map (rowElem fmt row)

/-- A buffer's row is whole: it lands. -/
def landRow (s : State) (t n : Nat) (b : TermBuf) : State :=
  let r := bufRow b
  match b.work with
  | .term pos _ fmt ws psn =>
    let elems := (((jobOf s t n).bind (·.agg)).map (·.elems)).getD 0
    jobTerm s t n pos (rowVals fmt elems r.1) ws (psn || r.2)
  | .toSpad addr _ => engineWrite s addr r.1 r.2
  | _ => s

/-- A piece of a row arrives for a waiter. -/
def landPiece (s : State) (t n buf k : Nat) (bs : List Byte) (psn : Bool) : State :=
  match jobOf s t n with
  | none => s
  | some j =>
    match j.bufs.find? (fun b => b.id == buf) with
    | none => s
    | some b =>
      let b := { b with got := b.got ++ [(k, bs, psn)] }
      if b.got.length < b.need then setJob s t { j with bufs := j.bufs.map (fun x => if x.id = buf then b else x) }
      else landRow (setJob s t { j with bufs := j.bufs.filter (fun x => x.id != buf) }) t n b

/-! ### Near-memory atomics (Table 5-11, R172, R174) -/

/-- New value of a word. `bitIx` is the bit of TAS. -/
def atomNew (aop : Nat) (w64 signed : Bool) (old opnd cmp bitIx : Nat) : Nat :=
  let w := if w64 then 64 else 32
  let o := opnd % 2 ^ w
  let less (a b : Nat) : Bool := if signed then decide (toSigned w a < toSigned w b) else decide (a < b)
  match aop with
  | 0 => (old + o) % 2 ^ w
  | 1 => if less o old then o else old
  | 2 => if less old o then o else old
  | 3 => old &&& o
  | 4 => old ||| o
  | 5 => old ^^^ o
  | 6 => o
  | 7 => if old = cmp % 2 ^ w then o else old
  | _ => old ||| 2 ^ bitIx

/-- Perform an atomic on a local DRAM word: the old value and whether its sector was poisoned, in which case nothing is updated. -/
def atomLocal (s : State) (t owner : Nat) (i o aop : Nat) (w64 signed : Bool) (opnd cmp bitIx : Nat) (lc : Bool := false) : Nat × Bool × State :=
  let n := if w64 then 8 else 4
  let a := rgnBase s i + o
  let (bad, s) := tgtScan (flushOverlap s (t / 16) a n) (.dram i o) n .clean
  let old := memNat s a n
  if bad != [] || psnAt s a then (old, true, s)
  else
    let v := atomNew aop w64 signed old opnd cmp bitIx
    (old, false, chanWrite s [owner] i o (leBytes n v) false 1 none lc)

/-- Write bytes at a global address on behalf of the forager: at home, or as a request; `none` when the address is refused. -/
def fgrWrite (s : State) (t n g : Nat) (bs : List Byte) (psn lc : Bool) (slot : Nat) : Except AccErr State :=
  let d := g / 2 ^ 45
  let a := g % 2 ^ 45
  if d = ownId s then
    match localTgt s a bs.length true with
    | .ok x => .ok (agentWrite s t (agentOf t 1) x bs psn lc)
    | .error x => .error x
  else if !peerUsable s d then .error .noTarget
  else
    match sendReq s kWRITE d a bs.length bs psn lc (.fgrWrite t slot n) with
    | none => .error .noTarget
    | some s =>
      let s := setSlot s t slot (some ⟨1, g, bs.length, 0, true, false, [], false, false⟩)
      .ok (csrAdd (match jobOf s t n with
        | some j => setJob s t { j with outstanding := j.outstanding + 1 }
        | none => s) (fgrCnt t 3) 1)

/-- A new item stands in front of a job's work. -/
def pushWork (s : State) (t n : Nat) (w : Work) : State :=
  match jobOf s t n with
  | some j => setJob s t { j with work := w :: j.work }
  | none => s

/-- The head item leaves a job's work. -/
def popWork (s : State) (t n : Nat) : State :=
  match jobOf s t n with
  | some j => setJob s t { j with work := j.work.drop 1 }
  | none => s

/-- The bytes of an old value as RESULT receives them: 0 or 1 in one byte for TAS. -/
def oldBytes (len : Nat) (tas : Bool) (bitIx old : Nat) : List Byte := leBytes len (if tas then old / 2 ^ bitIx % 2 else old)

/-- The old value of an atomic goes where the descriptor asks, as the job's next write. -/
def atomResult (s : State) (t n : Nat) (res : Option (Nat × Nat)) (tas : Bool) (bitIx old : Nat) : State :=
  match res with
  | none => s
  | some (g, len) => pushWork s t n (.write g (oldBytes len tas bitIx old) false)

/-- The old value of a refused atomic, with its poison mark (R174). -/
def poisonResult (s : State) (t : Nat) (lc : Bool) (res : Option (Nat × Nat)) (tas : Bool) (bitIx old : Nat) : State :=
  match res with
  | none => s
  | some (g, len) =>
    let bs := oldBytes len tas bitIx old
    if g / 2 ^ 45 = ownId s then
      match localTgt s (g % 2 ^ 45) len true with
      | .ok x => agentWrite s t (agentOf t 1) x bs true lc
      | .error _ => s
    else (sendReq s kWRITE (g / 2 ^ 45) (g % 2 ^ 45) len bs true lc .none_).getD s

/-- Data of an ATOMIC packet: AOP, width and SIGNED, operand, compare value; the operand of TAS is its bit. The manual gives no layout.
(DESIGN CHOICE; log entry 31.) -/
def atomData (aop : Nat) (w64 signed want : Bool) (bitIx opnd cmp : Nat) : List Byte :=
  leBytes 1 aop ++ leBytes 1 (bit w64 + 2 * bit signed + 4 * bit want) ++ leBytes 6 0 ++ leBytes 8 (if aop = 8 then bitIx else opnd) ++
    leBytes 8 cmp

/-! ### Issuing -/

/-- How an item fared. -/
inductive Fared where
  /-- issued: the state after it -/
  | done (s : State)
  /-- waits for a slot, a waiter place or a credit -/
  | wait
  /-- waits for REMOTE_MAX only -/
  | park
  /-- needs `n` bytes at address `a` of device `d` -/
  | ask (d a n : Nat)
  /-- the descriptor fails -/
  | fail (s : State) (cause : Nat)

/-- Issue one piece of a row (R145, R149–R154). The fetch that took a slot counts among the slot's 64 waiters inline. A PREFETCH with LOCK that joins a
slot, or that the pantry serves, locks nothing. (DESIGN CHOICE; log entry 17.) -/
def issuePiece (s : State) (t : Nat) (j : Job) (buf k g len cls : Nat) (lock : Bool) : Fared :=
  let c := t / 16
  let w : FWait := ⟨j.num, buf, k⟩
  let co := csrF s (tileCsr t 0x2000) 16 1 == 1
  let joined := if co then ((fgrOf s t).slots.find? (fun e => match e.2 with
      | some x => x.coalesced && x.g == g && x.len == len
      | none => false)) else none
  match joined with
  | some (i, some x) =>
    if 512 ≤ chainBlocks s t then .wait
    else .done (csrAdd (setSlot s t i (some { x with waiters := x.waiters ++ [w] })) (fgrCnt t 1) 1)
  | _ =>
    match freeSlot s t 0 3840 with
    | none => .wait
    | some i =>
      let d := g / 2 ^ 45
      let a := g % 2 ^ 45
      let remote := d != ownId s
      match panLookup s c g len cls with
      | (some bs, s) => .done (landPiece (csrAdd (csrAdd s (fgrCnt t 0) 1) (fgrCnt t 2) 1) t j.num buf k bs false)
      | (none, s') =>
        if remote && !peerUsable s d then .fail s' 0x0B
        else if remote && !remoteRoom s t then .park
        else
          let full := co && decide (4 ≤ (fgrOf s t).slots.countP (fun e => match e.2 with
            | some x => x.coalesced && Config.coalesceHash x.g % 2048 == Config.coalesceHash g % 2048
            | none => false))
          let s := if full then csrAdd s' (fgrCnt t 5) 1 else s'
          let can := panEn s c && cacheable s c cls
          let s := if can then panNextLine s c g len else s
          let slot : Slot := ⟨0, g, len, cls, remote, co && !full, [w], can, lock⟩
          let s := csrAdd (setSlot s t i (some slot)) (fgrCnt t 0) 1
          if remote then
            let a0 := if can then a / 64 * 64 else a
            let n0 := if can then roundUp (a + len) 64 - a0 else len
            match sendReq s kREAD d a0 n0 [] false (getB j.q.desc 8) (.fetch t i) with
            | some s => .done (csrAdd s (fgrCnt t 3) 1)
            | none => .fail (setSlot s t i none) 0x0B
          else match localTgt s a len false with
            | .ok _ => .done s
            | .error x => .fail (setSlot s t i none) (fgrCz (if x = .span then .miss else x))

/-- A row enters the job's buffers, and its pieces stand in front of the work. -/
def expandRow (j : Job) (w : Work) (row : Row) (lock : Bool) : Job :=
  { j with
    bufs := j.bufs ++ [⟨j.nextBuf, w, row.pieces.length, []⟩]
    nextBuf := j.nextBuf + 1
    work := row.pieces.zipIdx.map (fun p => .piece j.nextBuf p.2 p.1.1 p.1.2 row.cls lock) ++ j.work.drop 1 }

/-- The bytes of a scatter-sum row as terms. -/
def scatterTerm (s : State) (t : Nat) (j : Job) (id : Nat) (bs : List Byte) (psn : Bool) (fmt : Nat) : State :=
  jobTerm (destExpect s t j.num id) t j.num id (rowVals fmt ((j.agg.map (·.elems)).getD 0) bs) [] psn

/-- Open a destination, or queue for its credit. A SCATTER with no credit for a new target first sends its oldest open target early (R198). -/
def issueOpen (s : State) (t : Nat) (j : Job) (id pos : Nat) : Fared :=
  match j.agg with
  | none => .done s
  | some a =>
    let scatter := fdOp j.q.desc == 4
    if (destOf s t j.num pos).isSome then .done s
    else if j.waitCredit then .wait
    else if scatter && (creditNow s t a).isNone &&
        (cmbOf s t).dests.any (fun d => d.owner == j.num) then
      match (cmbOf s t).dests.find? (fun d => d.owner == j.num) with
      | some d => .done (jobFinish s t j.num d 0)
      | none => .wait
    else
      match claimCredit s t j.num id pos a with
      | (true, s) => .done s
      | (false, s) => .done (setJob s t { j with waitCredit := true })

/-- A near-memory atomic, here or at a peer; `fin` continues with the old value of a local one. `visit` is the neighbour of an EXPAND's TAS. -/
def issueAtom (s : State) (t : Nat) (j : Job) (g aop : Nat) (w64 signed : Bool) (opnd cmp bitIx : Nat) (res : Option (Nat × Nat))
    (visit : Option Nat) (fin : State → Nat → State) : Fared :=
  let n := if w64 then 8 else 4
  let d := g / 2 ^ 45
  let a := g % 2 ^ 45
  let lc := getB j.q.desc 8
  match freeSlot s t 0 3840 with
  | none => .wait
  | some i =>
    if d = ownId s then
      match localTgt s a n true with
      | .error x => .fail s (fgrCz x)
      | .ok (.dram r o) =>
        let (old, bad, s) := atomLocal s t (agentOf t 1) r o aop w64 signed opnd cmp bitIx lc
        if bad then .fail (poisonResult s t lc res (aop == 8) bitIx old) 9
        else .done (fin (popWork s t j.num) old)
      | .ok _ => .fail s 0x0E
    else if !peerUsable s d then .fail s 0x0B
    else if !remoteRoom s t then .park
    else
      let want := res.isSome || aop == 8
      match sendReq s kATOMIC d a n (atomData aop w64 signed want bitIx opnd cmp) false lc (.fgrAtom t i j.num bitIx res visit) with
      | none => .fail s 0x0B
      | some s =>
        let s := popWork (setSlot s t i (some ⟨2, g, n, 0, true, false, [], false, false⟩)) t j.num
        .done (csrAdd (match jobOf s t j.num with
          | some j => setJob s t { j with outstanding := j.outstanding + 1 }
          | none => s) (fgrCnt t 3) 1)

/-- The TAS of neighbour `w` returned `old`: with its bit clear the bit goes into the next frontier (R175 step 2). -/
def visited (s : State) (t n w old : Nat) : State := if old.testBit (w % 64) then s else pushWork s t n (.next w)

/-! ### Decoding (R144, R159, R161) -/

/-- The work of a decoded part takes the head item's place, and its counts are added. -/
def tookPart (s : State) (t n : Nat) (p : Part) : State :=
  match jobOf s t n with
  | some j => setJob s t { j with work := p.work ++ j.work.drop 1, counts := addCounts j.counts p.c }
  | none => s

/-- Run a decode for a job's head item; it takes a structure slot while it reads (R149). (DEDUCED; log entry 15.) -/
def decode {α : Type} (s : State) (t : Nat) (j : Job) (x : Env → Dec α) (fin : State → α → Fared) : Fared :=
  if j.wantSlot.isSome ∨ (freeSlot s t 3840 4096).isNone then .wait
  else match drun (x (fEnv t j.cache)) s with
    | (.ok a, s) => fin s a
    | (.error (.fail c), s) => .fail s c
    | (.error (.need d a n), _) => .ask d a n

/-- The descriptor's bits and its counts record are in order. With COUNT 0 nothing else is read (R140). -/
def issueCheck (s : State) (t : Nat) (j : Job) : Fared :=
  match drun (dcheckDesc (fEnv t j.cache) j.q.desc) s with
  | (.error (.fail c), s) => .fail s c
  | (_, s) =>
    let work := if fdCount j.q.desc = 0 then [] else (List.range (fdTables j.q.desc).length).map .bindTable ++ [.begin_]
    .done (setJob s t { j with work := work })

/-- One turn of R385's loop for table number `k`: bound, read again, or the same slot found again. A descriptor at a peer is read anew. -/
def issueBind (s : State) (t : Nat) (j : Job) (k : Nat) : Fared :=
  let l := fdLoc j.q.desc ((fdTables j.q.desc).getD k 0)
  decode s t j (fun e => dtable e l 1) (fun s d =>
    match bindVer s d with
    | some s => .done (popWork (setJob s t { j with binds := j.binds ++ [⟨d, tdVslot d⟩], lastSlot := none }) t j.num)
    | none =>
      if j.lastSlot = some (tdVslot d) then .fail s 1
      else .done (csrAdd (setJob s t { j with
        lastSlot := some (tdVslot d)
        cache := j.cache.filter (fun x => x.g != locDev l * 2 ^ 45 + locLocal l) }) (tblCnt 1) 1))

def issueBegin (s : State) (t : Nat) (j : Job) : Fared :=
  decode s t j (fun e => dbegin e j.q.desc j.binds) (fun s x =>
    .done (setJob s t { j with begun := x.b, agg := x.agg, nPos := x.nPos, work := [.elems 0] }))

/-- Element `i` is too far ahead of the oldest open destination (R161). -/
def farAhead (s : State) (t : Nat) (j : Job) (i : Nat) : Bool :=
  (fdOp j.q.desc == 2 || fdOp j.q.desc == 3) && (cmbOf s t).dests.any (fun d => d.owner == j.num && decide (d.pos + 64 < i))

def issueElem (s : State) (t : Nat) (j : Job) (i : Nat) : Fared :=
  if farAhead s t j i then .wait
  else
    let rest := if i + 1 < j.begun.n then [Work.elems (i + 1)] else []
    decode s t j (fun e => delem e j.q.desc j.binds j.begun j.agg i) (fun s p => .done (tookPart s t j.num { p with work := p.work ++ rest }))

/-- Issue an item of a job's work; when it is done it has left the list. (DEDUCED; log entry 15.) -/
def issueWork (s : State) (t : Nat) (j : Job) (w : Work) : Fared :=
  let n := j.num
  match w with
  | .check => issueCheck s t j
  | .bindTable k => issueBind s t j k
  | .begin_ => issueBegin s t j
  | .elems i => issueElem s t j i
  | .dopen id pos =>
    match issueOpen s t j id pos with
    -- the item leaves once its destination is open; sending an older target early only makes room
    | .done s => .done (if (destOf s t n pos).isSome then popWork s t n else s)
    | x => x
  | .term pos row _ _ _ => .done (setJob (destExpect s t n pos) t (expandRow j w row false))
  | .psnTerm pos =>
    let heads := (j.agg.map (·.heads)).getD 0
    .done (jobTerm (destExpect (popWork s t n) t n pos) t n pos [] (List.replicate heads ⟨0, 0, true⟩) true)
  | .dclose pos =>
    match destOf s t n pos with
    | some d => .done (jobFinishIfDone (setDest (popWork s t n) t { d with allKnown := true }) t n pos)
    | none => .done (popWork s t n)
  | .dskip pos => .done (jobDone (popWork s t n) t n pos)
  | .toSpad _ row => .done (setJob s t (expandRow j w row false))
  | .fill row lock => .done (setJob s t (expandRow j w row lock))
  | .piece buf k g len cls lock =>
    match issuePiece s t j buf k g len cls lock with
    | .done s => .done (popWork s t n)
    | x => x
  | .write g bs psn =>
    if g / 2 ^ 45 ≠ ownId s ∧ !remoteRoom s t then .park
    else match freeSlot s t 0 3840 with
      | none => .wait
      | some i =>
        match fgrWrite s t n g bs psn (getB j.q.desc 8) i with
        | .ok s => .done (popWork s t n)
        | .error x => .fail s (fgrCz x)
  | .atom g aop w64 signed opnd cmp res b =>
    issueAtom s t j g aop w64 signed opnd cmp b res none (fun s old => atomResult s t n res (aop == 8) b old)
  | .edge w => decode s t j (fun e => dexpandStep e (bound j.binds 0) (w / 64) (fun g => .visit g w) Counts.zero) (fun s p => .done (tookPart s t n p))
  | .visit g w => issueAtom s t j g 8 true false 0 0 (w % 64) none (some w) (fun s old => visited s t n w old)
  | .next w =>
    decode s t j (fun e => dexpandStep e (bound j.binds 1) (w / 64) (fun g => .atom g 4 true false (2 ^ (w % 64)) 0 none 0) { Counts.zero with result := 1 })
      (fun s p => .done (tookPart s t n p))
  | .parent w v =>
    decode s t j (fun e => dexpandStep e (bound j.binds 2) w (fun g => .atom g 1 true false v 0 none 0) Counts.zero) (fun s p => .done (tookPart s t n p))
  | .sterm id bs psn fmt => .done (scatterTerm (popWork s t n) t j id bs psn fmt)
  | .fail c => .fail s c

/-! ### The pump: every job issues what it can -/

/-- Ask a peer for bytes of a structure, in a structure slot (R149). -/
def askBytes (s : State) (t : Nat) (j : Job) (d a n : Nat) : State :=
  if !remoteRoom s t then s
  else match freeSlot s t 3840 4096 with
    | none => s
    | some i =>
      match sendReq s kREAD d a n [] false (getB j.q.desc 8) (.fetch t i) with
      | none => jobFail s t j 0x0B
      | some s =>
        setJob (csrAdd (setSlot s t i (some ⟨3, d * 2 ^ 45 + a, n, 0, true, false, [], false, false⟩)) (fgrCnt t 3) 1) t
          { j with wantSlot := some i }

/-- The counts record's additions, as items (R143, Table 5-3). -/
def statsWork (s : State) (j : Job) : List Work :=
  let l := fdLoc j.q.desc 1
  let c := j.counts
  if l = 0 then []
  else match locTgt s l 64 true with
    | .ok g => [c.done, c.dropped, c.defaulted, c.hubSkipped, c.badWeight, c.terms, c.result].zipIdx.map (fun v =>
        .atom (gOf s g + 8 * v.2) 0 true false v.1 0 none 0)
    | .error x => [.fail (fgrCz x)]

/-- Nothing of the job is on its way. -/
def jobIdle (s : State) (t : Nat) (j : Job) : Bool :=
  j.work == [] && j.parked == [] && j.bufs == [] && j.outstanding == 0 && !(cmbOf s t).dests.any (fun d => d.owner == j.num)

/-- Issue a job's work until it waits. -/
def jobRun : Nat → State → Nat → Nat → State
  | 0, s, _, _ => s
  | f + 1, s, t, n =>
    match jobOf s t n with
    | none => s
    | some j =>
      match (if remoteRoom s t then j.parked else []) with
      | p :: ps => jobRun f (setJob s t { j with parked := ps, work := p :: j.work }) t n
      | [] =>
        match j.work with
        | w :: ws =>
          match issueWork s t j w with
          | .done s => jobRun f s t n
          | .wait => s
          | .park => jobRun f (setJob s t { j with parked := j.parked ++ [w], work := ws }) t n
          | .ask d a k => askBytes s t j d a k
          | .fail s c => jobFail s t ((jobOf s t n).getD j) c
        | [] =>
          match (if fdOp j.q.desc = 4 then (cmbOf s t).dests.find? (fun d => d.owner == n) else none) with
          | some d => jobRun f (jobFinish s t n d 0) t n
          | none =>
            if jobIdle s t j && !j.statsSent then jobRun f (setJob s t { j with statsSent := true, work := statsWork s j }) t n
            else s

/-- Steps enough for any descriptor's items. -/
def jobFuel : Nat := 2 ^ 64

def jobPump (s : State) (t n : Nat) : State := jobRun jobFuel s t n

/-- Every job in progress, oldest first, issues what it can. -/
def fgrPump (s : State) (t : Nat) : State := ((fgrOf s t).jobs.map (·.num)).foldl (fun s n => jobPump s t n) s

/-! ### Beginning (R138, R140, R141) -/

/-- A descriptor as it begins. -/
def jobNew (n : Nat) (q : QDesc) : Job :=
  { num := n, q := q, begun := { n := 0 }, cache := [], wantSlot := none, binds := [], lastSlot := none, work := [.check], parked := [], bufs := [],
    nextBuf := 0, agg := none, waitCredit := false, counts := Counts.zero, donePos := [], signalled := 0, nPos := 0, wrote := [], outstanding := 0,
    statsSent := false }

/-- The descriptor at the head of the queue begins, when its operation is `op`; a reserved operation fails under any of them.
(DEDUCED; log entry 15.) -/
def fgrBegin (t op : Nat) (s : State) : Res :=
  let f := fgrOf s t
  match f.queue with
  | [] => absent "the forager's queue is empty"
  | q :: rest =>
    let code := fdOp q.desc
    if s.boot ≠ 0 ∨ f.stopped ∨ (coreOf s t).suspending.isSome ∨ csrF s (tileCsr t 0x2000) 17 3 + 1 ≤ f.jobs.length then
      absent "the forager begins no descriptor now"
    else if code = op ∨ code = 0 ∨ 8 < code then
      .next (fgrPump (setFgr s t { f with queue := rest, jobs := f.jobs ++ [jobNew f.nextJob q], nextJob := f.nextJob + 1 }) t)
    else absent "another operation is at the head of the queue"

def execGatherRows (t : BitVec 8) (s : State) : Res := fgrBegin t.toNat 1 s
def execWalk (t : BitVec 8) (s : State) : Res := fgrBegin t.toNat 2 s
def execSample (t : BitVec 8) (s : State) : Res := fgrBegin t.toNat 3 s
def execScatter (t : BitVec 8) (s : State) : Res := fgrBegin t.toNat 4 s
def execAtomic (t : BitVec 8) (s : State) : Res := fgrBegin t.toNat 5 s
def execExpand (t : BitVec 8) (s : State) : Res := fgrBegin t.toNat 6 s
def execIntersectCount (t : BitVec 8) (s : State) : Res := fgrBegin t.toNat 7 s
def execPrefetch (t : BitVec 8) (s : State) : Res := fgrBegin t.toNat 8 s

/-! ### Answers -/

/-- A fetch's data has come: `base` is the global address of the first byte. The slot is freed, the pantry is filled, the waiters are served.
(DEDUCED; log entry 15.) -/
def fetchDone (s : State) (t i base : Nat) (data : List Byte) (psn : Bool) : State :=
  match slotOf s t i with
  | none => s
  | some x =>
    let s := setSlot s t i none
    if x.kind = 3 then
      match (fgrOf s t).jobs.find? (fun j => j.wantSlot == some i) with
      | some j => fgrPump (setJob s t { j with wantSlot := none, cache := j.cache ++ [⟨x.g, x.len, data, psn⟩] }) t
      | none => s
    else
      let whole := base % 64 == 0 && data.length % 64 == 0
      let s := if x.install && !psn && whole then panInstall s (t / 16) x.g x.len x.cls data x.lock else s
      let bs := (data.drop (x.g - base)).take x.len
      fgrPump (x.waiters.foldl (fun s w => landPiece s t w.job w.buf w.piece bs psn) s) t

/-- The data of a local fetch arrives, with what the memory's check found. -/
def execFetchResponse (t : BitVec 8) (slot : BitVec 12) (ecc : Ecc) (s : State) : Res :=
  let t := t.toNat
  match slotOf s t slot.toNat with
  | none => absent "the slot is free"
  | some x =>
    if x.remote ∨ x.kind ≠ 0 then absent "the slot waits for a peer"
    else
      let a := x.g % 2 ^ 45
      let a0 := if x.install then a / 64 * 64 else a
      let n0 := if x.install then roundUp (a + x.len) 64 - a0 else x.len
      match localTgt s a0 n0 false with
      | .ok g =>
        let (bs, psn, s) := agentReadEcc s t g n0 ecc
        .next (fetchDone s t slot.toNat (globalOf s a0) bs psn)
      | .error _ => .next (fetchDone s t slot.toNat (globalOf s a0) (List.replicate n0 0) true)

/-- A write or atomic of a job is answered: its slot is free and one less is outstanding. -/
def fgrAnswered (s : State) (t i n : Nat) : State :=
  let s := setSlot s t i none
  match jobOf s t n with
  | some j => setJob s t { j with outstanding := j.outstanding - 1 }
  | none => s

/-- A peer acknowledges a write or an atomic without result. -/
def fgrAck (s : State) (t i n : Nat) : State := fgrPump (fgrAnswered s t i n) t

/-- A peer's atomic returns its old value. (DEDUCED; log entry 57.) -/
def fgrOld (s : State) (t i n b : Nat) (res : Option (Nat × Nat)) (visit : Option Nat) (old : Nat) : State :=
  let s := fgrAnswered s t i n
  let s := match visit with
    | some w => visited s t n w old
    | none => atomResult s t n res ((res.map (·.2)) == some 1) b old
  fgrPump s t

/-- A request of a slot failed at a peer: the jobs that wait for it stop (R182). -/
def fgrReqFail (s : State) (t i : Nat) (n : Option Nat) (cause : Nat) : State :=
  match slotOf s t i with
  | none => s
  | some x =>
    let s := setSlot s t i none
    let jobs := (fgrOf s t).jobs.filter (fun j => n == some j.num || j.wantSlot == some i || x.waiters.any (fun w => w.job == j.num))
    fgrPump (jobs.foldl (fun s j => jobFail s t ((jobOf s t j.num).getD j) cause) s) t

/-- The owner of a partial answers: accepted, or refused with a cause (R200, R201). -/
def partialDone (s : State) (t owner desc tag : Nat) (ok : Bool) (cause : Nat) : State :=
  if 1000000 ≤ owner then (if ok then s else combFail s t 9 (owner - 1000000) desc tag)
  else match jobOf s t owner with
    | none => s
    | some j =>
      if ok then fgrPump (setJob s t { j with outstanding := j.outstanding - 1 }) t else jobFail s t j cause

/-- A partial row on the network-on-chip reaches its owner on tile `t`. -/
def execPartialRow (t : BitVec 8) (s : State) : Res :=
  match s.partials.find? (fun p => p.dst == t.toNat) with
  | none => absent "no partial row is on its way to the tile"
  | some p =>
    let s := { s with partials := s.partials.erase p }
    let (ok, s) := combMerge s t.toNat p.row false
    .next (partialDone s p.src p.owner p.desc p.tag ok 0x0A)

/-- A request is granted the words at `base` (R192). -/
def grantCredit (s : State) (t base : Nat) (r : CreditReq) : State :=
  let c := cmbOf s t
  let oldest := c.credits.head? == some r
  let c := { c with credits := c.credits.erase r, moving := false }
  let s := setCmb s t (if oldest then { c with resWords := 0, resRecs := 0 } else c)
  if 1000000 ≤ r.owner then
    match cctxOf s t (r.owner - 1000000) with
    | none => s
    | some x => ctxOpenMore (x.opening.length + 1) (setCctx (openDest s t r.owner r.id r.pos base x.agg) t { x with opening := x.opening.drop 1 }) t x.num
  else match jobOf s t r.owner with
    | none => s
    | some j =>
      match j.agg with
      | none => s
      | some a => fgrPump (setJob (openDest s t r.owner r.id r.pos base a) t { j with waitCredit := false }) t

/-- The oldest waiting request that the free space serves: the oldest of all from any space, a younger one from what is not reserved. -/
def creditPick (s : State) (t : Nat) : Option CreditReq :=
  let l := (cmbOf s t).credits
  l.find? (fun r => cmbFits s t r.words (l.head? == some r))

/-- The comb unit grants a waiting request (R192). Where its words are free and not contiguous, one step begins a relocation, and the next ends it with
the grant. (DESIGN CHOICE; log entry 18.) -/
def execCombCreditGrant (t : BitVec 8) (s : State) : Res :=
  let t := t.toNat
  match (cmbOf s t).credits with
  | [] => absent "no credit request waits"
  | _ :: _ =>
    match creditPick s t with
    | none => absent "the space is not free yet"
    | some r =>
      match cmbPlace s t r.words with
      | some b => .next (grantCredit s t b r)
      | none =>
        let c := cmbOf s t
        if !c.moving then .next (setCmb s t { c with moving := true })
        else
          let s := setCmb s t { c with dests := cmbPack 0 c.dests }
          .next (grantCredit s t (cmbWords s t) r)

/-! ### Completion (R139) -/

/-- Every effect of the job is delivered: the writes of the forager and of the comb unit are performed, copies at the twin included (R139, R308). -/
def jobComplete (s : State) (t : Nat) (j : Job) : Bool :=
  jobIdle s t j && j.statsSent && !agentPending s (agentOf t 1) && !agentPending s (agentOf t 2)

/-- The job ends: its last signals, and its versions let go. -/
def jobEnd (s : State) (t : Nat) (j : Job) : State :=
  let s := jobSignals s t j true
  let s := dropJob s t j
  if getB j.q.desc 9 then signalOrErr s t (getF j.q.desc 16 12) 1 else s

def execForagerComplete (t : BitVec 8) (job : Nat) (s : State) : Res :=
  let t := t.toNat
  let s := releaseFlush (releaseFlush s (agentOf t 1)) (agentOf t 2)
  match jobOf s t job with
  | none => absent "no such descriptor in progress"
  | some j => if jobComplete s t j then .next (fgrPump (jobEnd s t j) t) else absent "the descriptor's effects are not all delivered"

/-- FGR_STATUS as it reads now (Table 5-20). -/
def fgrStatus (s : State) (t : Nat) : Word :=
  let f := fgrOf s t
  BitVec.ofNat 64 (slotsBusy s t + remoteBusy s t * 2 ^ 13 + f.queue.length % 64 * 2 ^ 26 + f.jobs.length % 16 * 2 ^ 32 +
    bit (f.jobs.any (·.waitCredit)) * 2 ^ 36)

end Sys2Proof.Machine
end

