-- ==== Sys2Proof/Machine/Matrix.lean ====
section
/-! DEFINITION. The matrix engine (chapter 7): descriptors, weight sets, products in their fixed order, output blocks and the finished-block
queue. -/

namespace Sys2Proof.Machine

/-! ### Operands in the issuing tile's scratchpad (R217) -/

/-- A KIND 1 locator without reserved bits that names an address inside a tile SRAM window (R103, R217). -/
def spadLoc (l : Word) : Bool :=
  locKind l == 1 && locRsv l == 0 && getF l 45 11 == 0 && decide (sramBase ≤ locLocal l ∧ locLocal l < sramTop)

/-- `n` bytes from a local address lie in tile `t`'s scratchpad. -/
def inSpad (t a n : Nat) : Bool :=
  decide (sramBase ≤ a ∧ a < sramTop ∧ (a - sramBase) / 0x800000 = t ∧ (a - sramBase) % 0x800000 + max n 1 ≤ 0x180000)

/-- The local address of `n` bytes at a locator that must be KIND 1 in tile `t`'s scratchpad: causes 1 and 2. -/
def dspad (t : Nat) (l : Word) (n : Nat) : Dec Nat := do
  dcheck (spadLoc l) 1
  dcheck (inSpad t (locLocal l) n) 2
  pure (locLocal l)

/-- A 64-byte structure in the scratchpad, 64-byte-aligned (R578). -/
def dspadDesc (t : Nat) (l : Word) : Dec Desc := do
  dcheck (locKind l == 1 && locAligned l 64) 1
  let a ← dspad t l 64
  let bs ← dstep (fun s => let r := agentReadEcc s t (.spad a) 64 .clean; (r.1, r.2.2))
  pure (BitVec.ofNat 512 (ofLE bs))

/-- A tensor wholly in the scratchpad. -/
def dspadTensor (t : Nat) (d : Desc) : Dec Unit := do
  dcheck (tLegal d && spadLoc (tBase d)) 1
  let sp := tSpan d
  match locAdd (tBase d) sp.1 with
  | none => dfail 2
  | some l => do
    dcheck (inSpad t (locLocal l) sp.2) 2
    if isMX (tFmt d) then
      let _ ← dspad t (tScale d) (tBlocks d)
      pure ()
    else pure ()

/-- Store element codes with their poison marks from a scratchpad address on; `note` where the writer counts for R230. -/
def putElems (s : State) (a b : Nat) (xs : List (Nat × Bool)) (note : Bool := false) : State :=
  let s := if note then stageNote s a (xs.length * b) else s
  let s := writeHome s a (xs.flatMap (fun x => leBytes b x.1)) false
  xs.zipIdx.foldl (fun s x => if x.1.2 then writeHome s (a + x.2 * b) (leBytes b x.1.1) true else s) s

/-! ### Descriptors (Tables 7-1 to 7-3) -/

def mdTrans (d : Desc) : Bool := getB d 8
def mdOutq (d : Desc) : Bool := getB d 10
def mdConv (d : Desc) : Nat := getF d 32 16
def mdLoc (d : Desc) (k : Nat) : Word := BitVec.ofNat 64 (getF d (64 * k) 64)
def mdSlots (d : Desc) : Nat := getF d 320 8 + 1
def mdKb (d : Desc) : Nat × Nat := (getF d 360 12, getF d 372 12)
def mdNb (d : Desc) : Nat × Nat := (getF d 384 12, getF d 396 12)
/-- Reduction blocks and output blocks (R216): first and count. -/
def mdRed (d : Desc) : Nat × Nat := if mdTrans d then mdNb d else mdKb d
def mdOut (d : Desc) : Nat × Nat := if mdTrans d then mdKb d else mdNb d

def mdLegal (d : Desc) : Bool :=
  getF d 0 8 == 1 && getF d 11 5 == 0 && getF d 28 4 == 0 && getF d 48 16 == 0 && getF d 408 104 == 0 &&
  (!getB d 9 || decide (getF d 16 12 < 256)) && cwLegal (mdConv d) && [0, 1, 2, 3, 4, 7].contains (cwFmt (mdConv d)) &&
  (if mdOutq d then decide (getF d 328 8 < mdSlots d ∧ getF d 336 12 < 256 ∧ getF d 348 12 < 256) && cwRnd (mdConv d) != 2
   else getF d 320 16 == 0) &&
  (mdKb d).2 != 0 && (mdNb d).2 != 0

/-- Operand pairs (Table 7-1). -/
def pairOk (a w : Nat) : Bool :=
  let half (f : Nat) : Bool := f == 1 || f == 2
  let fp8 (f : Nat) : Bool := f == 3 || f == 4
  (half a && (half w || fp8 w || isMX w)) || (fp8 a && fp8 w) || (a == 5 && w == 5) || (isMX a && isMX w) || (a == 0 && w == 0)

def wsFmt (w : Desc) : Nat := getF w 128 4
def wsForm (w : Desc) : Nat := getF w 132 2
def wsKb (w : Desc) : Nat := getF w 136 12
def wsNb (w : Desc) : Nat := getF w 148 12
def wsBase (w : Desc) : Word := BitVec.ofNat 64 (getF w 0 64)
def wsOff (w : Desc) : Word := BitVec.ofNat 64 (getF w 64 64)
/-- Element bytes of the set's format; 1 for MX, whose blocks have their own length. -/
def wsB (w : Desc) : Nat := fmtBits (wsFmt w) / 8
/-- Length of a FORM 0 block (R221). -/
def wsLen (w : Desc) : Nat := if isMX (wsFmt w) then 32 * mxBytes (wsFmt w) + 32 else 1024 * wsB w

def wsLegal (w : Desc) : Bool :=
  getF w 134 2 == 0 && getF w 160 352 == 0 && wsKb w != 0 && wsNb w != 0 && locAligned (wsBase w) 64 &&
  (if wsForm w = 0 then wsOff w == 0 else wsForm w == 1 && !isMX (wsFmt w) && locKind (wsOff w) == 1)

/-- What a MATMUL names, read and checked before it starts (R209, R216, R217, R222). -/
structure MatOps where
  a : Desc
  w : Desc
  c : Option Desc
  out : Desc
  deriving DecidableEq, Repr

def dmatmul (t : Nat) (d : Desc) : Dec MatOps := do
  dcheck (mdLegal d) 1
  let a ← dspadDesc t (mdLoc d 1)
  let w ← dspadDesc t (mdLoc d 2)
  let c ← if mdLoc d 3 = 0 then pure none else do
    let c ← dspadDesc t (mdLoc d 3)
    pure (some c)
  let f := cwFmt (mdConv d)
  let int8 := tFmt a == 5
  dcheck (wsLegal w && pairOk (tFmt a) (wsFmt w) && (f != 7 || int8)) 1
  let r := (mdRed d).2
  let q := (mdOut d).2
  let m := tSize a 1
  dcheck (tDims a == 2 && tSize a 0 == 32 * r && decide ((mdKb d).1 + (mdKb d).2 ≤ wsKb w ∧ (mdNb d).1 + (mdNb d).2 ≤ wsNb w)) 1
  dspadTensor t a
  match c with
  | none => pure ()
  | some c => do
    dcheck (tDims c == 2 && tSize c 0 == 32 * q && tSize c 1 == m && tFmt c == (if int8 then 7 else 0)) 1
    dspadTensor t c
  if wsForm w = 0 then
    let _ ← dspad t (wsBase w) (wsKb w * wsNb w * wsLen w)
    pure ()
  else do
    let _ ← dspad t (wsBase w) 1
    let _ ← dspad t (wsOff w) (4 * wsKb w * wsNb w)
    pure ()
  if mdOutq d then do
    let _ ← dspad t (mdLoc d 4) (mdSlots d * 1024 * (fmtBits f / 8))
    pure ⟨a, w, c, 0⟩
  else do
    let o ← dspadDesc t (mdLoc d 4)
    dcheck (tDims o == 2 && tSize o 0 == 32 * q && tSize o 1 == m && tFmt o == f) 1
    dspadTensor t o
    pure ⟨a, w, c, o⟩

/-! ### Weight blocks (R220–R227) -/

/-- A weight block as read: its 1,024 elements in column order, whether any byte of it is poisoned, whether its metadata breaks R227, whether it
is processed in sparse form and whether it is longer than dense, when it is processed as a dense one (R225). -/
structure WBlock where
  elems : List Num
  psn : Bool
  bad : Bool
  sparse : Bool
  exceeds : Bool
  deriving DecidableEq, Repr

/-- The local address of weight block `i`. -/
def wblockAddr (s : State) (w : Desc) (i : Nat) : Nat :=
  if wsForm w = 0 then locLocal (wsBase w) + i * wsLen w
  else locLocal (wsBase w) + 64 * memNat s (locLocal (wsOff w) + 4 * i) 4

/-- Dense elements from an address. -/
def denseElems (s : State) (w : Desc) (a : Nat) : List Num :=
  let bs := memBytes s a (1024 * wsB w)
  (readVals (wsB w) 1025 bs).map (decodeElem (wsFmt w))

/-- MX elements: 32 packed blocks, then 32 scales. -/
def mxElems (s : State) (w : Desc) (a : Nat) : List Num :=
  let m := mxBytes (wsFmt w)
  (List.range 1024).map (fun i =>
    let n := i / 32
    decodeMX (wsFmt w) (mxCode (wsFmt w) (memBytes s (a + n * m) m) (i % 32)) (memNat s (a + 32 * m + n) 1))

/-- Place the values of sparse groups; positions and values in order. -/
def placeSparse : List (Nat × Num) → List Num → List Num
  | [], e => e
  | (i, v) :: r, e => placeSparse r (e.set i v)

/-- The entries of a sparse block: for each group its count's worth of value numbers and positions. `k` counts values so far. -/
def sparseEntries (code : Nat → Nat) (val : Nat → Num) : List (Nat × Nat) → Nat → List (Nat × Nat × Num)
  | [], _ => []
  | (g, c) :: rest, k =>
    ((List.range c).map (fun j => (g, (g / 2) * 32 + 16 * (g % 2) + code (k + j), val (k + j)))) ++ sparseEntries code val rest (k + c)

/-- Positions within a group strictly ascend. (DEDUCED; log entry 20.) -/
def ascending : List (Nat × Nat × Num) → Bool
  | [] => true
  | [_] => true
  | x :: y :: r => (x.1 != y.1 || decide (x.2.1 < y.2.1)) && ascending (y :: r)

/-- Every row and column of every 16 × 16 square has at most `k` non-zeros (R226). -/
def kmaxHolds (e : List Num) (k : Nat) : Bool :=
  [0, 16].all (fun kr => [0, 16].all (fun nr => (List.range 16).all (fun x =>
    let nz (i : Nat) : Bool := !(e.getD i (ofInt 0)).isZero
    decide (((List.range 16).countP (fun y => nz ((nr + y) * 32 + kr + x))) ≤ k) &&
    decide (((List.range 16).countP (fun y => nz ((nr + x) * 32 + kr + y))) ≤ k))))

/-- Read weight block `i` of a set on tile `t`; an error is a cause of Table 7-6. -/
def wblock (s : State) (t : Nat) (w : Desc) (trans : Bool) (i : Nat) : Except Nat WBlock :=
  let a := wblockAddr s w i
  if wsForm w = 0 then
    .ok ⟨if isMX (wsFmt w) then mxElems s w a else denseElems s w a, psnIn s a (wsLen w), false, false, false⟩
  else
    let top := sramBase + t * 0x800000 + 0x180000
    if top < a + 16 then .error 4
    else
      let h := BitVec.ofNat 128 (memNat s a 16)
      let form := getF h 0 4
      let nnz := getF h 16 11
      let len := getF h 32 16 * 64
      let b := wsB w
      if getF h 4 4 ≠ 0 ∨ getF h 13 3 ≠ 0 ∨ getF h 27 5 ≠ 0 ∨ getF h 48 80 ≠ 0 ∨ 16 < getF h 8 5 ∨ 1024 < nnz ∨ len = 0 ∨
          !(form == 1 || (form == 2 && nnz == 0 && decide (64 + 1024 * b ≤ len))) then .error 3
      else if top < a + len then .error 4
      else
        let exceeds := decide (1024 * b < len)
        if form = 2 then .ok ⟨denseElems s w (a + 64), psnIn s a len, false, false, exceeds⟩
        else
          let counts := (List.range 64).map (fun g => memNat s (a + 16 + g) 1)
          let sum := counts.foldl (· + ·) 0
          let meta_ := counts.all (fun c => decide (c ≤ 16)) && sum == nnz && len == roundUp (80 + nnz * b + (nnz + 1) / 2) 64
          if !meta_ then .ok ⟨List.replicate 1024 (ofInt 0), psnIn s a len, true, !exceeds, exceeds⟩
          else
            let code (k : Nat) : Nat := memNat s (a + 80 + nnz * b + k / 2) 1 / 16 ^ (k % 2) % 16
            let val (k : Nat) : Num := decodeElem (wsFmt w) (memNat s (a + 80 + k * b) b)
            let es := sparseEntries code val (counts.zipIdx.map (fun c => (c.2, c.1))) 0
            let elems := placeSparse (es.map (·.2)) (List.replicate 1024 (ofInt 0))
            .ok ⟨elems, psnIn s a len, !ascending es || (trans && !kmaxHolds elems (getF h 8 5)), !exceeds, exceeds⟩

/-- Number of the weight block for reduction block `r` and output block `q`. -/
def wnumber (d w : Desc) (r q : Nat) : Nat :=
  let kb := (mdKb d).1 + (if mdTrans d then q else r)
  let nb := (mdNb d).1 + (if mdTrans d then r else q)
  nb * wsKb w + kb

/-- Weight for reduction position `k` and output column `n` of a block. -/
def wval (trans : Bool) (x : WBlock) (k n : Nat) : Num := x.elems.getD (if trans then k * 32 + n else n * 32 + k) (ofInt 0)

/-- The weight blocks of one output block, in reduction order; the first that fails gives its cause. -/
def wblocks (s : State) (t : Nat) (d w : Desc) (q : Nat) : Except Nat (List WBlock) :=
  (List.range (mdRed d).2).mapM (fun r => wblock s t w (mdTrans d) (wnumber d w r q))

/-! ### Products in their order (R210–R214) -/

/-- One reduction block of one output: its FP32 code. -/
def blockSum (ps : List Num) : Nat :=
  match ps with
  | [] => 0
  | p :: rest =>
    if ps.any (·.isNan) then nan32
    else
      let infs := ps.filter (fun x => !x.isFin)
      if infs.any (·.sign) && infs.any (fun x => !x.sign) then nan32
      else match infs with
        | i :: _ => to32 i
        | [] => to32 (rest.foldl Num.add p)

/-- Products of non-zero weights for output (m, n) in one block. -/
def blockProducts (trans : Bool) (x : WBlock) (act : List Num) (n : Nat) : List Num :=
  (act.zipIdx).filterMap (fun p =>
    let w := wval trans x p.2 n
    if w.isZero then none else some (p.1.mul w))

/-- The accumulated value of one output before conversion. -/
def matElem (int8 trans : Bool) (xs : List WBlock) (acts : List (List Num)) (c : Option Num) (n : Nat) : Num :=
  let per := (xs.zip acts).map (fun p => blockProducts trans p.1 p.2 n)
  if int8 then per.flatten.foldl Num.add (c.getD (ofInt 0))
  else of32 (per.foldl (fun acc ps => addFloat fp32 acc (blockSum ps)) ((c.map to32).getD 0))

/-- Row `m` of A, in blocks of 32, and whether any element of it is poisoned. -/
def actRow (s : State) (a : Desc) (r m : Nat) : List (List Num) × Bool :=
  let vs := (List.range (32 * r)).map (fun k => tElem s a [k, m, 0, 0, 0])
  ((List.range r).map (fun i => ((vs.drop (32 * i)).take 32).map (·.1)), vs.any (·.2))

/-- What the scratchpad's checks found as an output block's operands were read: rows of A, any weight block, and the columns of C by row. -/
structure MatFound where
  rows : List Nat
  weights : Bool
  cols : List (Nat × Nat)

/-- Local spans that row `m` of a two-dimensional tensor takes: its elements, and the scales of an MX one. -/
def rowSpans (s : State) (d : Desc) (m : Nat) : List (Nat × Nat) :=
  (match tRowAt s d [0, m, 0, 0, 0] with
    | some (a, _) => [(a, tRowBytes d)]
    | none => []) ++
  (if isMX (tFmt d) then match locAdd (tScale d) ((m * (tSize d 0 / 32) : Nat) : Int) with
    | some l => [(locLocal l, tSize d 0 / 32)]
    | none => []
   else [])

/-- Where weight block `i` lies: address and stored length. -/
def wblockSpan (s : State) (w : Desc) (i : Nat) : Nat × Nat :=
  let a := wblockAddr s w i
  (a, if wsForm w = 0 then wsLen w else max 16 (64 * memNat s (a + 4) 2))

/-- The checks made on spans of the scratchpad one after the other: whether one found an uncorrectable error. -/
def spansScan (s : State) (us : List (Nat × Nat)) : Bool × State :=
  us.foldl (fun x u => let r := tgtScan x.2 (.spad u.1) u.2 .clean; (x.1 || r.1 != [], r.2)) (false, s)

/-- The checks made as the operands of output block `q` are read, for rows `ms` (R231, R282). (DEDUCED; log entry 58.) -/
def matScan (s : State) (t : Nat) (d : Desc) (o : MatOps) (q : Nat) (ms : List Nat) : MatFound × State :=
  if !armed s (tileSrc 6 t) (tileSrc 6 t + 1) then (⟨[], false, []⟩, s)
  else
    let (rows, s) := ms.foldl (fun (x : List Nat × State) m =>
      let (b, s) := spansScan x.2 (rowSpans x.2 o.a m)
      (if b then m :: x.1 else x.1, s)) ([], s)
    let (w, s) := spansScan s ((List.range (mdRed d).2).map (fun r => wblockSpan s o.w (wnumber d o.w r q)))
    match o.c with
    | none => (⟨rows, w, []⟩, s)
    | some c =>
      let b := fmtBits (tFmt c) / 8
      let (cols, s) := ms.foldl (fun (x : List (Nat × Nat) × State) m =>
        match tRowAt x.2 c [0, m, 0, 0, 0] with
        | none => x
        | some (a, _) =>
          let (bad, s) := tgtScan x.2 (.spad (a + 32 * q * b)) (32 * b) .clean
          (x.1 ++ ((List.range 32).filter (fun n => bad.contains (psnKey (a + (32 * q + n) * b)))).map (fun n => (m, n)), s)) ([], s)
      (⟨rows, w, cols⟩, s)

/-- Poison marks of row `m`, output block `q`: of A's row, of the block's weights, and of C's element (R231). -/
def matMarks (s : State) (t : Nat) (d : Desc) (o : MatOps) (xs : List WBlock) (f : MatFound) (q m : Nat) : List Bool :=
  let wide := (actRow s o.a (mdRed d).2 m).2 || f.rows.contains m || xs.any (·.psn) || f.weights || (mxeOf s t).wbad.contains q
  (List.range 32).map (fun n => wide || f.cols.contains (m, n) ||
    (o.c.map (fun c => (tElem s c [32 * q + n, m, 0, 0, 0]).2)).getD false)

/-- Codes and poison marks of row `m`, output block `q`. -/
def matRow (s : State) (t : Nat) (d : Desc) (o : MatOps) (xs : List WBlock) (f : MatFound) (q m : Nat) : List (Nat × Bool) :=
  let int8 := tFmt o.a == 5
  let row := actRow s o.a (mdRed d).2 m
  let so := seedOrdinal s (t / 16)
  let cw := mdConv d
  (matMarks s t d o xs f q m).zipIdx.map (fun p =>
    let n := p.2
    let c := o.c.map (fun c => (tElem s c [32 * q + n, m, 0, 0, 0]).1)
    let v := if p.1 then .nan else matElem int8 (mdTrans d) xs row.1 c n
    let word := if cwRnd cw = 2 then drawWord so.1 0 (tId o.out) so.2 (32 * q + n + tSize o.out 0 * m) else 0
    ((convert cw word v).code, p.1))

/-! ### Running -/

/-- The descriptors a MATMUL in progress was begun with. (DEDUCED; log entry 20.) -/
def heldOps (e : Mxe) : MatOps := ⟨e.held.getD 0 0, e.held.getD 1 0, e.held[3]?, e.held.getD 2 0⟩

/-- Spans of the scratchpad that a MATMUL reads: what it names, its tensors, its block offset table and its weight blocks. (DEDUCED; log entry 20.) -/
def matReads (s : State) (d : Desc) (o : MatOps) : List (Nat × Nat) :=
  let desc (i : Nat) : List (Nat × Nat) := let a := locLocal (mdLoc d i); [(a, a + 64)]
  let tensor (x : Desc) : List (Nat × Nat) :=
    (match locAdd (tBase x) (tSpan x).1 with
      | some l => [(locLocal l, locLocal l + (tSpan x).2)]
      | none => []) ++ (if isMX (tFmt x) then [(locLocal (tScale x), locLocal (tScale x) + tBlocks x)] else [])
  let n := wsKb o.w * wsNb o.w
  let weights : List (Nat × Nat) :=
    if wsForm o.w = 0 then [(locLocal (wsBase o.w), locLocal (wsBase o.w) + n * wsLen o.w)]
    else (locLocal (wsOff o.w), locLocal (wsOff o.w) + 4 * n) ::
      (List.range (mdOut d).2).flatMap (fun q => (List.range (mdRed d).2).map (fun r =>
        let u := wblockSpan s o.w (wnumber d o.w r q)
        (u.1, u.1 + u.2)))
  desc 1 ++ desc 2 ++ (if o.c.isSome then desc 3 else []) ++ (if mdOutq d then [] else desc 4) ++ tensor o.a ++
    (match o.c with
      | some c => tensor c
      | none => []) ++ weights

/-- An engine or porter has written what the descriptor in progress reads since it was queued (R230). (DEDUCED; log entry 20.) -/
def matSpoilt (s : State) (t : Nat) (q : QDesc) (o : MatOps) : Bool :=
  let ws := (s.staged.filter (fun e => e.1 == t)).drop ((q.caps.getD 0 0).toNat)
  let rs := matReads s q.desc o
  ws.any (fun w => rs.any (fun r => decide (w.2.1 < r.2 ∧ r.1 < w.2.2)))

/-- The matrix engine stops on a failed descriptor (R233). (DESIGN CHOICE; log entry 16.) -/
def mxeFail (s : State) (t cause : Nat) (q : QDesc) : State :=
  let s := engFail s t 3 0x4010 8 cause q.addr q.tag 0x20
  setMxe s t { mxeOf s t with busy := none, waiting := false, granted := false, stopped := true }

/-- Whether any weight block that the descriptor reads and the engine can reach breaks R227. (DEDUCED; log entry 20.) -/
def matUndef (s : State) (t : Nat) (d w : Desc) : Bool :=
  (List.range (mdOut d).2).any (fun q => (List.range (mdRed d).2).any (fun r =>
    match wblock s t w (mdTrans d) (wnumber d w r q) with
    | .ok x => x.bad
    | .error _ => false))

def execMatmul (t : BitVec 8) (s : State) : Res :=
  let t := t.toNat
  let e := mxeOf s t
  match e.queue with
  | [] => absent "the matrix engine's queue is empty"
  | q :: rest =>
    if s.boot ≠ 0 ∨ e.stopped ∨ e.busy.isSome ∨ (coreOf s t).suspending.isSome then absent "the matrix engine begins no descriptor now"
    else
      let s := setMxe s t { e with queue := rest }
      .next (match drun (dmatmul t q.desc) s with
        | (.error (.fail c), s) => mxeFail s t c q
        | (.error (.need _ _ _), s) => mxeFail s t 1 q
        | (.ok o, s) => setMxe s t { mxeOf s t with busy := some q, block := 0, waiting := false, granted := false,
                                                    undef := matUndef s t q.desc o.w, psnSent := false,
                                                    held := [o.a, o.w, o.out] ++ o.c.toList, wbad := [] })

/-- `n` fresh free codes of `w` bytes. (DEDUCED; log entry 20.) -/
def freeCodes : Nat → Nat → State → List (Nat × Bool) × State
  | 0, _, s => ([], s)
  | n + 1, w, s =>
    let (v, s) := freshFree s
    let (r, s) := freeCodes n w s
    ((v.toNat % 2 ^ (8 * w), false) :: r, s)

/-- Rows of an output block: real rows computed, or free under R227 and R230. -/
def matRows (s : State) (t : Nat) (d : Desc) (o : MatOps) (xs : List WBlock) (f : MatFound) (q : Nat) (ms : List Nat) :
    List (List (Nat × Bool)) × State :=
  if (mxeOf s t).undef then
    ms.foldl (fun acc _ =>
      let (r, s) := freeCodes 32 (fmtBits (cwFmt (mdConv d)) / 8) acc.2
      (acc.1 ++ [r], s)) ([], s)
  else (ms.map (matRow s t d o xs f q), s)

/-- Rows of the output tensor map to overlapping bytes. -/
def outOverlaps (o : Desc) : Bool := decide (1 < tSize o 1 ∧ (tStride o 1).natAbs < tRowBytes o)

/-- Store part of an output row (R137: where rows overlap, the whole output is stored in linear order with the last block).
(DEDUCED; log entry 20.) -/
def storeRow (s : State) (o : Desc) (q m b : Nat) (xs : List (Nat × Bool)) : State :=
  match locAdd (tBase o) (m * tStride o 1 + (32 * q * b : Nat)) with
  | some l => putElems s (locLocal l) b xs
  | none => s

/-- Rows of M-block `b` of a descriptor. -/
def matBlockRows (o : MatOps) (b : Nat) : List Nat :=
  (List.range 32).filterMap (fun i => if 32 * b + i < tSize o.a 1 then some (32 * b + i) else none)

/-- Write output block number `k` of a descriptor. A poisoned operand is reported once, whatever the outputs hold (R231). -/
def matWrite (s : State) (t : Nat) (d : Desc) (o : MatOps) (xs : List WBlock) (k : Nat) : State :=
  let nq := (mdOut d).2
  let q := k % nq
  let m := tSize o.a 1
  let ms := matBlockRows o (k / nq)
  let b := fmtBits (cwFmt (mdConv d)) / 8
  let (f, s) := matScan s t d o q ms
  let s := if f.weights then setMxe s t { mxeOf s t with wbad := q :: (mxeOf s t).wbad } else s
  let hit := ms.any (fun m => (matMarks s t d o xs f q m).any (·))
  let (rows, s) := matRows s t d o xs f q ms
  let s :=
    if mdOutq d then
      let slot := (getF d 328 8 + k) % mdSlots d
      let a := locLocal (mdLoc d 4) + slot * 1024 * b
      let rows := rows ++ List.replicate (32 - rows.length) (List.replicate 32 (0, false))
      putElems s a b rows.flatten
    else if outOverlaps o.out then
      (if k + 1 = nq * ceilDiv m 32 ∧ !(mxeOf s t).undef then
        (List.range m).foldl (fun s m => (List.range nq).foldl (fun s' q =>
          match wblocks s t d o.w q with
          | .ok xs => storeRow s' o.out q m b (matRow s t d o xs f q m)
          | .error _ => s') s) s
       else (ms.zip rows).foldl (fun s p => storeRow s o.out q p.1 b p.2) s)
    else (ms.zip rows).foldl (fun s p => storeRow s o.out q p.1 b p.2) s
  if hit && !(mxeOf s t).psnSent then
    raise (setMxe s t { mxeOf s t with psnSent := true }) (tileSrc 3 t) 0x15 CONTAIN
  else s

/-- The counters of an output block (Table 7-10). -/
def matCount (s : State) (t : Nat) (xs : List WBlock) : State :=
  let c (s : State) (k n : Nat) : State := csrAdd s (tileCsr t (0x4040 + 8 * k)) n
  c (c (c (c s 0 1) 1 xs.length) 2 (xs.countP (·.sparse))) 3 (xs.countP (·.exceeds))

/-- Every row of the output is undefined (R230). (DEDUCED; log entry 20.) -/
def matLose (s : State) (o : MatOps) : State :=
  (List.range (tSize o.a 1)).foldl (fun s m => match locAdd (tBase o.out) ((m : Nat) * tStride o.out 1) with
    | some l => undefSpan s (locLocal l) (locLocal l + tRowBytes o.out)
    | none => s) s

/-- The slots of the finished-block ring that the descriptor's first `k` blocks were written to are undefined (R230). (DEDUCED; log entry 20.) -/
def ringLose (s : State) (d : Desc) (k : Nat) : State :=
  let n := 1024 * (fmtBits (cwFmt (mdConv d)) / 8)
  (List.range (min k (mdSlots d))).foldl (fun s i =>
    let a := locLocal (mdLoc d 4) + (getF d 328 8 + (k - 1 - i)) % mdSlots d * n
    undefSpan s a (a + n)) s

/-- The next output block is computed and written; under OUTQ a ring slot is claimed first (R228, R229). (DEDUCED; log entry 20.) -/
def execMatmulOutputBlock (t : BitVec 8) (s : State) : Res :=
  let t := t.toNat
  let e := mxeOf s t
  match e.busy with
  | none => absent "no MATMUL in progress"
  | some q =>
    let d := q.desc
    if e.waiting then absent "the engine waits for FREE_SEM"
    else
        let o := heldOps e
        let spoilt := matSpoilt s t q o
        let s := if spoilt then setMxe s t { e with undef := true } else s
        let s := if spoilt && mdOutq d then ringLose s d e.block else s
        match wblocks s t d o.w (e.block % (mdOut d).2) with
        | .error c => .next (mxeFail s t c q)
        | .ok xs =>
          let (go, s) := if mdOutq d && !e.granted then semWait s t (getF d 336 12) 1 3 else (true, s)
          if !go then .next (setMxe s t { mxeOf s t with waiting := true })
          else
            let s := matCount (matWrite s t d o xs e.block) t xs
            let s := if mdOutq d then signalOrErr s t (getF d 348 12) 1 else s
            let k := e.block + 1
            if k = (mdOut d).2 * ceilDiv (tSize o.a 1) 32 then
              let s := if spoilt && !mdOutq d then matLose s o else s
              let s := setMxe s t { mxeOf s t with busy := none, granted := false }
              let s := if (mxeOf s t).queue = [] then stageClear s t else s
              .next (if getB d 9 then signalOrErr s t (getF d 16 12) 1 else s)
            else .next (setMxe s t { mxeOf s t with block := k, granted := false })

/-- MXE_STATUS as it reads now (Table 7-8). -/
def mxeStatus (s : State) (t : Nat) : Word :=
  let e := mxeOf s t
  BitVec.ofNat 64 (e.queue.length % 32 + 2 ^ 5 * bit e.busy.isSome + 2 ^ 6 * bit e.waiting)

end Sys2Proof.Machine
end

