-- ==== Sys2Proof/Machine/Vector.lean ====
section
/-! DEFINITION. The vector engine (chapter 8): descriptors, chain programs, rows, masks, reductions, compress and expand, the finished-block
queue, softmax, poison and the counts record. -/

namespace Sys2Proof.Machine

/-! ### Descriptors (Tables 8-1 to 8-3) -/

/-- DEDUCED; log entry 21. -/
def vdSoft (d : Desc) : Bool := getF d 0 8 == 2
def vdZero (d : Desc) : Bool := getB d 10
def vdExpand (d : Desc) : Bool := getB d 11
def vdMode (d : Desc) : Nat := getF d 12 2
def vdRing (d : Desc) : Bool := getB d 14
def vdStages (d : Desc) : Nat := getF d 28 3 + 1
def vdConv (d : Desc) : Nat := getF d 32 16
def vdMsel (d : Desc) : Nat := getF d 48 3
def vdFree (d : Desc) : Nat := getF d 84 12
def vdFull (d : Desc) : Nat := getF d 96 12
def vdSlots (d : Desc) : Nat := getF d 108 8 + 1
def vdStart (d : Desc) : Nat := getF d 116 8
def vdLoc (d : Desc) (k : Nat) : Word := BitVec.ofNat 64 (getF d (64 * k) 64)
def vdIterN (d : Desc) : Nat := getF d 320 40
def vdIdxBase (d : Desc) : Nat := getF d 360 40

/-- A vector descriptor's own bits (Table 8-1, R72, R244, R258, R579). (DEDUCED; log entry 21.) -/
def vdLegal (d : Desc) : Bool :=
  let op := getF d 0 8
  (op == 1 || op == 2) && !getB d 15 && !getB d 31 && getF d 51 13 == 0 && getF d 124 4 == 0 && getF d 400 112 == 0 &&
  (!getB d 9 || decide (getF d 16 12 < 256)) && cwLegal (vdConv d) && decide (cwFmt (vdConv d) < 0xD) && vdMode d != 3 &&
  (if vdRing d then decide (vdStart d < vdSlots d ∧ vdFree d < 256 ∧ vdFull d < 256) else getF d 108 16 == 0) &&
  (vdMode d == 2 || vdIdxBase d == 0) && (decide (1 ≤ vdMode d) || vdIterN d == 0) &&
  !(vdRing d && vdExpand d) &&
  (if vdLoc d 2 = 0 then getF d 28 3 == 0 else !vdSoft d && vdMode d != 2) &&
  (!vdSoft d || (!vdZero d && !vdExpand d && vdMode d == 0 && vdMsel d == 0))

/-- Types a stage operation takes (0 F32, 1 I32, 2 F16, 3 I16) and the operands it uses (Table 8-5). -/
def sopInfo (sop : Nat) : Option (List Nat × Nat) :=
  if [1, 2, 3, 6, 7].contains sop then some ([0, 1, 2, 3], 2)
  else if sop = 4 then some ([0, 2], 3)
  else if sop = 5 then some ([0], 2)
  else if [8, 9, 10].contains sop then some ([0, 1, 2, 3], 1)
  else if 0x10 ≤ sop ∧ sop ≤ 0x16 then some ([0], 1)
  else if [0x20, 0x21, 0x22, 0x24, 0x25].contains sop then some ([1, 3], 2)
  else if sop = 0x23 then some ([1, 3], 1)
  else if 0x30 ≤ sop ∧ sop ≤ 0x33 then some ([0, 1, 2, 3], 2)
  else if sop = 0x34 then some ([0, 1, 2, 3], 3)
  else if sop = 0x38 then some ([0, 1], 2)
  else if sop = 0x39 then some ([0], 2)
  else if 0x40 ≤ sop ∧ sop ≤ 0x42 then some ([0, 1], 1)
  else none

def sgOp (w : Nat) : Nat := w % 256
def sgSel (w k : Nat) : Nat := w / 2 ^ (8 + 5 * k) % 32
def sgType (w : Nat) : Nat := w / 2 ^ 23 % 4
def sgSat (w : Nat) : Bool := w / 2 ^ 25 % 2 == 1
def sgUns (w : Nat) : Bool := w / 2 ^ 26 % 2 == 1
def sgImm (w : Nat) : Nat := w / 2 ^ 32
def isRed (w : Nat) : Bool := decide (0x40 ≤ sgOp w ∧ sgOp w ≤ 0x42)

/-- What a vector descriptor names, read and checked. -/
structure VecOps where
  d : Desc
  stages : List Nat
  srcs : List (Option Desc)
  out : Desc
  /-- locators of OUT's place (COMPRESS_INDEX), MIN, MOUT and COUNT_OUT; null when unused -/
  outLoc : Word
  minLoc : Word
  moutLoc : Word
  cntLoc : Word
  /-- SIZE of the iteration space in dimensions 0 to 4 -/
  ext : List Nat
  strict : Bool
  caps : List Word
  /-- scratchpad words that the streams of this run were delivered with an uncorrectable error -/
  bad : List Nat
  deriving DecidableEq, Repr

def VecOps.red (o : VecOps) : Bool := (o.stages.getLast?.map isRed).getD false
def VecOps.src (o : VecOps) (k : Nat) : Option Desc := o.srcs.getD k none
/-- Row length, and number of rows and positions of the iteration space. -/
def VecOps.n (o : VecOps) : Nat := o.ext.getD 0 0
def VecOps.rows (o : VecOps) : Nat := o.ext.getD 1 1 * o.ext.getD 2 1 * o.ext.getD 3 1 * o.ext.getD 4 1
def VecOps.count (o : VecOps) : Nat := o.n * o.rows

def tExts (d : Desc) : List Nat := (List.range 5).map (tExt d)

/-- Whether a selector may be used by stage `k` (R244, Table 8-4). -/
def selOk (srcs : List (Option Desc)) (k sel : Nat) : Bool :=
  if sel ≤ 3 then (srcs.getD sel none).isSome
  else if sel ≤ 0x0B then decide (sel - 4 < k)
  else decide (sel ≤ 0x11)

/-- Stage word `k` of `n` is legal (Tables 8-3 to 8-5, R249). -/
def stageOk (d : Desc) (srcs : List (Option Desc)) (ext0 n k w : Nat) : Bool :=
  match sopInfo (sgOp w) with
  | none => false
  | some (types, ops) =>
    w / 2 ^ 27 % 32 == 0 && types.contains (sgType w) &&
    [0, 1, 2].all (fun i => if i < ops then sgSel w i != 0x1F && selOk srcs k (sgSel w i) else sgSel w i == 0x1F) &&
    (!isRed w || (k + 1 == n && vdMode d == 0)) &&
    (sgOp w != 0x38 || (decide (sgSel w 0 ≤ 3 ∧ ext0 ≤ 4096) && (sgSel w 0 != 0 || !(vdExpand d || vdRing d))))

/-- A tensor named by the operand block; null is none. -/
def dvecTensor (t : Nat) (l : Word) : Dec (Option Desc) :=
  if l = 0 then pure none
  else do
    let d ← dspadDesc t l
    dspadTensor t d
    pure (some d)

/-- S0 under RING describes one slot; the ring's span is checked for all of them (R257). -/
def dvecRing (t : Nat) (d : Desc) (l : Word) : Dec (Option Desc) := do
  let s0 ← dspadDesc t l
  let b := fmtBits (tFmt s0) / 8
  dcheck (tLegal s0 && !isMX (tFmt s0) && !isRowCode (tFmt s0) && tDims s0 == 2 && tSize s0 0 == 32 && tSize s0 1 == 32 &&
    tStride s0 1 == ((32 * b : Nat) : Int)) 1
  let _ ← dspad t (tBase s0) (vdSlots d * 1024 * b)
  pure (some s0)

/-- Read and check all that a vector descriptor names (R236–R239, R244, R249, R255–R258). -/
def dvector (t : Nat) (d : Desc) (caps : List Word) : Dec VecOps := do
  dcheck (vdLegal d) 1
  let ob ← dspadDesc t (vdLoc d 3)
  let loc (k : Nat) : Word := BitVec.ofNat 64 (getF ob (64 * k) 64)
  dcheck (vdLoc d 4 == 0 || ((locKind (vdLoc d 4) == 2 || locKind (vdLoc d 4) == 3) && locRsv (vdLoc d 4) == 0 && locAligned (vdLoc d 4) 64)) 1
  let s0 ← if vdRing d then dvecRing t d (loc 0) else dvecTensor t (loc 0)
  let s1 ← dvecTensor t (loc 1)
  let s2 ← dvecTensor t (loc 2)
  let s3 ← dvecTensor t (loc 3)
  let srcs := [s0, s1, s2, s3]
  let ns := vdStages d
  let s ← dget
  dcheck (vdLoc d 2 == 0 || locAligned (vdLoc d 2) 64) 1
  let stages ← if vdLoc d 2 = 0 then pure [] else do
    let a ← dspad t (vdLoc d 2) (8 * ns)
    let bs ← dstep (fun s => let r := agentReadEcc s t (.spad a) (8 * ns) .clean; (r.1, r.2.2))
    pure (readVals 8 (ns + 1) bs)
  let red := (stages.getLast?.map isRed).getD false
  let mode := vdMode d
  -- the output
  let out ← if mode = 2 then do
      let _ ← dspad t (loc 4) 1
      pure (0 : Desc)
    else do
      match ← dvecTensor t (loc 4) with
      | some o => do
        dcheck (tFmt o == cwFmt (vdConv d) && !isRowCode (tFmt o)) 1
        pure o
      | none => dfail 1
  -- the iteration space
  let ext ← match s0 with
    | some x => pure (if mode ≠ 0 ∨ red then tExts x else tExts out)
    | none =>
      if mode ≠ 0 then pure [vdIterN d, 1, 1, 1, 1]
      else if red then dfail 1
      else pure (tExts out)
  dcheck (s0.isNone || vdIterN d == 0) 1
  dcheck (if vdSoft d then s0.isSome && s1.isNone && s2.isNone && s3.isNone else stages != [] || s0.isSome || mode == 2) 1
  dcheck ([s1, s2, s3].all (fun x => match x with
    | some x => tExts x == ext
    | none => true)) 1
  dcheck (match s0 with
    | some x =>
      if vdRing d then ext.getD 0 0 == 32 && ext.getD 1 0 == 32
      else if vdExpand d then tDims x == 1
      else tExts x == ext
    | none => !vdExpand d) 1
  dcheck (mode == 2 || (if mode = 1 then tDims out == 1
    else tExts out == (if red then 1 :: ext.drop 1 else ext))) 1
  dcheck (stages.zipIdx.all (fun w => stageOk d srcs (ext.getD 0 0) ns w.2 w.1)) 1
  -- masks and the count word
  let n := ext.foldl (· * ·) 1
  let bits := if vdSoft d then n / ext.getD 0 1 else n
  dcheck (loc 5 == 0 || locAligned (loc 5) 8) 1
  let _ ← if loc 5 = 0 then pure 0 else dspad t (loc 5) (ceilDiv n 8)
  dcheck (if loc 6 = 0 then vdMsel d == 0 else locAligned (loc 6) 8 && (vdSoft d || (stages != [] && decide (vdMsel d < ns)))) 1
  let _ ← if loc 6 = 0 then pure 0 else dspad t (loc 6) (ceilDiv bits 8)
  dcheck (mode != 0 || loc 7 == 0) 1
  let _ ← if mode = 0 then pure 0 else dspad t (loc 7) 8
  pure { d := d, stages := stages, srcs := srcs, out := out, outLoc := loc 4, minLoc := loc 5, moutLoc := loc 6, cntLoc := loc 7,
         ext := ext, strict := getB d 8 || csrF s (tileCsr t 0x5000) 1 1 == 1, caps := caps, bad := [] }

/-! ### Values in a chain -/

/-- A stage's value: a floating-point value of type F32 (0) or F16 (2), or the bit pattern of an I32 (1) or I16 (3) value, with the UNS bit
of the stage that made it. -/
inductive SVal where
  | fl (ty : Nat) (v : Num)
  | int (ty pat : Nat) (uns : Bool)
  deriving DecidableEq, Repr

def tyBits (ty : Nat) : Nat := if ty = 1 then 32 else 16
def tyFmt (ty : Nat) : FFmt := if ty = 0 then fp32 else fp16
def isFl (ty : Nat) : Bool := ty == 0 || ty == 2

/-- The integer a pattern stands for. -/
def patInt (w pat : Nat) (uns : Bool) : Int := if uns then (pat % 2 ^ w : Nat) else toSigned w pat

/-- The exact value of a stage's value. -/
def SVal.num : SVal → Num
  | .fl _ v => v
  | .int ty pat uns => ofInt (patInt (tyBits ty) pat uns)

/-- Non-zero, as SELECT and MOUT test it. -/
def SVal.nonZero : SVal → Bool
  | .fl _ v => !v.isZero
  | .int _ pat _ => pat != 0

/-- What the evaluation of one position has found so far. -/
structure PosInfo where
  psn : Bool
  nanIn : Bool
  sat : Bool
  oor : Nat
  drop : Nat
  /-- DROPOUT stages that kept the position -/
  kept : List Nat
  deriving DecidableEq, Repr

def PosInfo.init : PosInfo := ⟨false, false, false, 0, 0, []⟩

/-- The evaluation of a position: it notes what it reads, and may stop the descriptor with a cause of Table 8-10. -/
abbrev Pos (α : Type) := StateT PosInfo (Except Nat) α

def pfail {α : Type} (cause : Nat) : Pos α := fun _ => .error cause
def pnote (f : PosInfo → PosInfo) : Pos Unit := fun i => .ok ((), f i)
/-- An out-of-range condition: counted, or a stop under STRICT. -/
def poor (o : VecOps) (cause : Nat) : Pos Unit :=
  if o.strict then pfail cause else pnote (fun i => { i with oor := i.oor + 1 })

/-- Where a position stands: its linear index, the block of a ring, its place among the active positions. -/
structure At where
  lin : Nat
  block : Nat
  k : Nat
  deriving DecidableEq, Repr

/-- Index list of a linear index within the iteration space. -/
def extIndex (e : List Nat) (n : Nat) : List Nat :=
  let a := e.getD 0 1
  let b := e.getD 1 1
  let c := e.getD 2 1
  let d := e.getD 3 1
  [n % a, n / a % b, n / (a * b) % c, n / (a * b * c) % d, n / (a * b * c * d)]

/-- S0's descriptor moved to the slot of a block (R257). -/
def ringDesc (o : VecOps) (d : Desc) (block : Nat) : Desc :=
  let slot := (vdStart o.d + block) % vdSlots o.d
  let b := fmtBits (tFmt d) / 8
  match locAdd (tBase d) ((slot * 1024 * b : Nat) : Int) with
  | some l => setF d 0 64 l.toNat
  | none => d

/-- Local spans that element `ix` of a tensor is read from: its bytes, and its block's scale or its row's header. -/
def elemSpans (s : State) (d : Desc) (ix : List Nat) : List (Nat × Nat) :=
  match tRowAt s d ix with
  | none => []
  | some (a, _) =>
    let f := tFmt d
    let i0 := ix.getD 0 0
    if isMX f then
      let lin := i0 / 32 + tExt d 0 / 32 * (ix.getD 1 0 + tExt d 1 * (ix.getD 2 0 + tExt d 2 * (ix.getD 3 0 + tExt d 3 * ix.getD 4 0)))
      (a + i0 / 32 * mxBytes f, mxBytes f) :: (match locAdd (tScale d) (lin : Int) with
        | some l => [(locLocal l, 1)]
        | none => [])
    else if isRowCode f then [(a, 4), (a + 4 + (if f = 0xD then i0 else i0 / 2), 1)]
    else [(a + i0 * (fmtBits f / 8), fmtBits f / 8)]

/-- An element as the engine forms it, with its poison: a row code's value is rounded to FP32 once (R81); an element any of whose words was found
uncorrectable is poisoned (R259, R282). -/
def vecElem (s : State) (o : VecOps) (d : Desc) (ix : List Nat) : Num × Bool :=
  let r := tElem s d ix
  (if isRowCode (tFmt d) then of32 (to32 r.1) else r.1,
   r.2 || (o.bad != [] && (elemSpans s d ix).any (fun u => (psnKeys u.1 u.2).any o.bad.contains)))

/-- The element of stream `k` at linear index `lin` of the iteration space, and its poison mark, without noting it. -/
def srcElem (s : State) (o : VecOps) (p : At) (k lin : Nat) : Num × Bool :=
  match o.src k with
  | none => (ofInt 0, false)
  | some d =>
    if k = 0 ∧ vdRing o.d = true then vecElem s o (ringDesc o d p.block) (extIndex [32, 32, 1, 1, 1] (lin % 1024))
    else if k = 0 ∧ vdExpand o.d = true then
      if tSize d 0 ≤ p.k then (ofInt 0, false) else vecElem s o d [p.k, 0, 0, 0, 0]
    else vecElem s o d (extIndex o.ext lin)

/-- Read an element of a stream for a position. -/
def psrc (s : State) (o : VecOps) (p : At) (k lin : Nat) : Pos Num := do
  let e := srcElem s o p k lin
  pnote (fun i => { i with psn := i.psn || e.2, nanIn := i.nanIn || e.1.isNan })
  pure e.1

def srcFmt (o : VecOps) (k : Nat) : Nat := ((o.src k).map tFmt).getD 0

/-- An exact value enters a stage of type `ty` (R245). -/
def enterNum (ty : Nat) (uns : Bool) (v : Num) : Pos SVal :=
  if isFl ty then pure (.fl ty (decodeFloat (tyFmt ty) (toFloat (tyFmt ty) .rne false v).code))
  else do
    let c := toInt (tyBits ty) uns .rne v
    pnote (fun i => { i with sat := i.sat || c.sat })
    pure (.int ty c.code uns)

/-- An element of stream `k` enters: an INT32 or INT16 element keeps its pattern in a stage of its own format. -/
def enterElem (o : VecOps) (k ty : Nat) (uns : Bool) (v : Num) : Pos SVal :=
  match v with
  | .fin sg n _ _ =>
    if !isFl ty && srcFmt o k == (if ty = 1 then 7 else 6) then pure (.int ty (ofSigned (tyBits ty) (signedNum sg n)) uns)
    else enterNum ty uns v
  | _ => enterNum ty uns v

/-- The bits of a scalar or an immediate read in a type (R243, Table 8-3). -/
def enterBits (ty : Nat) (uns : Bool) (x : Nat) : Pos SVal :=
  if isFl ty then do
    let v := decodeFloat (tyFmt ty) (x % 2 ^ (if ty = 0 then 32 else 16))
    pnote (fun i => { i with nanIn := i.nanIn || v.isNan })
    pure (.fl ty v)
  else pure (.int ty (x % 2 ^ tyBits ty) uns)

/-- A stage's value enters a later stage. -/
def enterVal (ty : Nat) (uns : Bool) (v : SVal) : Pos SVal :=
  match v with
  | .fl t x => if t = ty then pure v else enterNum ty uns x
  | .int t pat u => if t = ty then pure (.int t pat uns) else enterNum ty uns (SVal.int t pat u).num

/-- Operand `sel` of stage word `w`, converted to its type. -/
def operand (s : State) (o : VecOps) (p : At) (res : List SVal) (w sel : Nat) : Pos SVal := do
  let ty := sgType w
  let uns := sgUns w
  if sel ≤ 3 then
    let v ← psrc s o p sel p.lin
    enterElem o sel ty uns v
  else if sel ≤ 0x0B then enterVal ty uns (res.getD (sel - 4) (.int 1 0 false))
  else if sel ≤ 0x0F then enterBits ty uns (o.caps.getD (sel - 0x0C) 0).toNat
  else if sel = 0x10 then enterBits ty uns (sgImm w)
  else enterNum ty uns (ofInt (p.lin % 2 ^ 32 : Nat))

/-! ### Stage operations (Table 8-5, R246, R247) -/

/-- An integer result wraps or saturates. (DEDUCED; log entry 21.) -/
def intResult (w : Nat) (x : Int) : Pos SVal :=
  let ty := sgType w
  let b := tyBits ty
  if sgSat w then do
    let lo : Int := if sgUns w then 0 else -(2 ^ (b - 1) : Nat)
    let hi : Int := if sgUns w then ((2 ^ b : Nat) : Int) - 1 else ((2 ^ (b - 1) : Nat) : Int) - 1
    pnote (fun i => { i with sat := i.sat || decide (x < lo ∨ hi < x) })
    pure (.int ty (ofSigned b (max lo (min hi x))) (sgUns w))
  else pure (.int ty (ofSigned b x) (sgUns w))

/-- An integer stage operation over patterns. -/
def intStage (w a b : Nat) : Pos SVal :=
  let ty := sgType w
  let n := tyBits ty
  let uns := sgUns w
  let x := patInt n a uns
  let y := patInt n b uns
  let pat (v : Nat) : Pos SVal := pure (.int ty (v % 2 ^ n) uns)
  match sgOp w with
  | 1 => intResult w (x + y)
  | 2 => intResult w (x - y)
  | 3 => intResult w (x * y)
  | 6 => pat (if x ≤ y then a else b)
  | 7 => pat (if x ≤ y then b else a)
  | 8 => intResult w (if uns then x else x.natAbs)
  | 9 => intResult w (-x)
  | 0x20 => pat (a &&& b)
  | 0x21 => pat (a ||| b)
  | 0x22 => pat (a ^^^ b)
  | 0x23 => pat (2 ^ n - 1 - a)
  | 0x24 => pat (a * 2 ^ (b % n))
  | 0x25 => pat (if uns then a / 2 ^ (b % n) else ofSigned n (toSigned n a / ((2 ^ (b % n) : Nat) : Int)))
  | _ => pat a

/-- Round a floating-point result of type `ty` once. -/
def flResult (ty : Nat) (v : Num) : Pos SVal := pure (.fl ty (decodeFloat (tyFmt ty) (toFloat (tyFmt ty) .rne false v).code))

/-- MIN and MAX of floating-point values (R246). -/
def minMaxNum (isMax : Bool) (a b : Num) : Num :=
  if a.isNan || b.isNan then .nan
  else
    let aLess := a.lt b || (a.eq b && a.sign && !b.sign)
    if aLess then (if isMax then b else a) else if isMax then a else b

/-- A floating-point stage operation. -/
def flStage (w : Nat) (a b c : Num) : Pos SVal :=
  let ty := sgType w
  let fn (f : Num → Nat) : Pos SVal := pure (.fl 0 (of32 (f a)))
  match sgOp w with
  | 1 => flResult ty (a.add b)
  | 2 => flResult ty (a.sub b)
  | 3 => flResult ty (a.mul b)
  | 4 => flResult ty ((a.mul b).add c)
  | 5 => flResult ty (a.div b)
  | 6 => pure (.fl ty (minMaxNum false a b))
  | 7 => pure (.fl ty (minMaxNum true a b))
  | 8 => pure (.fl ty a.abs)
  | 9 => pure (.fl ty a.neg)
  | 0x10 => fn exp32
  | 0x11 => fn log32
  | 0x12 => fn rcp32
  | 0x13 => fn rsqrt32
  | 0x14 => fn tanh32
  | 0x15 => fn sigmoid32
  | 0x16 => fn erf32
  | _ => pure (.fl ty a)

/-- A compare: 0 EQ, 1 NE, 2 LT, 3 LE. -/
def cmpStage (k : Nat) (a b : Num) : Bool :=
  match k with
  | 0 => a.eq b
  | 1 => !a.eq b
  | 2 => a.lt b
  | _ => a.lt b || a.eq b

/-- PERM's index (R249): `none` when it is out of range as a number. -/
def permIndex (s : State) (o : VecOps) (p : At) (res : List SVal) (w : Nat) : Pos (Option Nat) := do
  let sel := sgSel w 1
  let ofNum (v : Num) : Option Nat :=
    match v with
    | .fin sg n d e =>
      let (x, y) := shiftFrac n d e
      let m := roundQ .rne x y
      if (sg && m != 0) || decide (2 ^ 32 ≤ m) then none else some m
    | _ => none
  if sel ≤ 3 then
    let v ← psrc s o p sel p.lin
    if isIntFmt (srcFmt o sel) then
      pure (match v with
        | .fin sg n _ _ => some (ofSigned 32 (signedNum sg n))
        | _ => none)
    else pure (ofNum v)
  else if sel ≤ 0x0B then
    pure (match res.getD (sel - 4) (.int 1 0 false) with
      | .fl _ v => ofNum v
      | .int _ pat _ => some pat)
  else if sel ≤ 0x0F then pure (some ((o.caps.getD (sel - 0x0C) 0).toNat % 2 ^ 32))
  else if sel = 0x10 then pure (some (sgImm w))
  else pure (some (p.lin % 2 ^ 32))

/-- TENSOR_ID that keys DROPOUT (R251). -/
def dropId (o : VecOps) : Nat := if vdMode o.d = 2 then ((o.src 0).map tId).getD 0 else tId o.out

/-- One stage at one position. A reduction passes its operand on. -/
def stageVal (s : State) (o : VecOps) (so : Word × Nat) (p : At) (res : List SVal) (j w : Nat) : Pos SVal := do
  let ty := sgType w
  if sgOp w = 0x38 then
    match ← permIndex s o p res w with
    | some b =>
      if b < o.n then
        let v ← psrc s o p (sgSel w 0) (p.lin / o.n * o.n + b)
        enterElem o (sgSel w 0) ty (sgUns w) v
      else do
        poor o 3
        pure (if isFl ty then .fl ty (ofInt 0) else .int ty 0 (sgUns w))
    | none => do
      poor o 3
      pure (if isFl ty then .fl ty (ofInt 0) else .int ty 0 (sgUns w))
  else do
    let a ← operand s o p res w (sgSel w 0)
    let b ← if sgSel w 1 = 0x1F then pure a else operand s o p res w (sgSel w 1)
    let c ← if sgSel w 2 = 0x1F then pure a else operand s o p res w (sgSel w 2)
    if 0x30 ≤ sgOp w ∧ sgOp w ≤ 0x33 then pure (.int 1 (bit (cmpStage (sgOp w - 0x30) a.num b.num)) false)
    else if sgOp w = 0x34 then pure (if c.nonZero then a else b)
    else if sgOp w = 0x39 then do
      if drawWord so.1 1 (dropId o) so.2 p.lin < sgImm w then do
        pnote (fun i => { i with drop := i.drop + 1 })
        pure (.fl 0 (ofInt 0))
      else do
        pnote (fun i => { i with kept := j :: i.kept })
        flResult 0 (a.num.mul b.num)
    else if isRed w ∨ sgOp w = 0x0A then pure a
    else match a, b, c with
      | .int _ x _, .int _ y _, _ => intStage w x y
      | _, _, _ => flStage w a.num b.num c.num

/-- The stages of a chain at one position, in order. -/
def stagesFrom (s : State) (o : VecOps) (so : Word × Nat) (p : At) : List Nat → List SVal → Pos (List SVal)
  | [], res => pure res
  | w :: ws, res => do
    let v ← stageVal s o so p res res.length w
    stagesFrom s o so p ws (res ++ [v])

/-- The results of a position: every stage's value, or S0's element where there is no stage. (DEDUCED; log entry 21.) -/
def position (s : State) (o : VecOps) (so : Word × Nat) (p : At) : Pos (List SVal × Num) := do
  if vdExpand o.d && decide (((o.src 0).map (fun d => tSize d 0)).getD 0 ≤ p.k) then poor o 4 else pure ()
  if vdMode o.d = 2 then pure ([], ofInt 0)
  else match o.stages with
    | [] => do
      let v ← psrc s o p 0 p.lin
      pure ([], v)
    | ws => do
      let res ← stagesFrom s o so p ws []
      pure (res, (res.getLast?.map SVal.num).getD (ofInt 0))

/-! ### Reductions (R252) -/

/-- Lane `l`'s running value. -/
def laneFold {α : Type} (op : α → α → α) (l : Nat) : List (Nat × α) → Option α → Option α
  | [], acc => acc
  | (i, v) :: r, acc =>
    laneFold op l r (if i % 32 = l then some (match acc with
      | none => v
      | some a => op a v) else acc)

def treePair {α : Type} (op : α → α → α) : List (Option α) → List (Option α)
  | a :: b :: r => (match a, b with
      | none, y => y
      | x, none => x
      | some x, some y => some (op x y)) :: treePair op r
  | l => l

/-- Lanes, then the fixed tree. (DEDUCED; log entry 21.) -/
def reduceRow {α : Type} (op : α → α → α) (vs : List (Nat × α)) : Option α :=
  let lanes := (List.range 32).map (fun l => laneFold op l vs none)
  ((treePair op (treePair op (treePair op (treePair op (treePair op lanes))))).head?).join

/-- Result of a reduction stage over the active positions of a row, and whether an addition saturated. -/
def reduceStage (w : Nat) (vs : List (Nat × SVal)) : SVal × Bool :=
  let k := sgOp w - 0x40
  if sgType w = 0 then
    let op (a b : Num) : Num := if k = 0 then of32 (to32 (a.add b)) else minMaxNum (k == 1) a b
    let r := reduceRow op (vs.map (fun v => (v.1, v.2.num)))
    (.fl 0 (r.getD (if k = 0 then ofInt 0 else .inf (k == 1))), false)
  else
    let uns := sgUns w
    let lo : Int := if uns then 0 else -(2 ^ 31 : Nat)
    let hi : Int := if uns then (2 ^ 32 : Nat) - 1 else (2 ^ 31 : Nat) - 1
    let op (a b : Int × Bool) : Int × Bool :=
      if k = 0 then
        let x := a.1 + b.1
        if sgSat w then (max lo (min hi x), a.2 || b.2 || decide (x < lo ∨ hi < x))
        else (if uns then (ofSigned 32 x : Nat) else toSigned 32 (ofSigned 32 x), false)
      else if (k == 1) == decide (a.1 < b.1) then b else a
    let pats := vs.map (fun v => (v.1, (match v.2 with
      | .int _ pat _ => patInt 32 pat uns
      | .fl _ _ => 0, false)))
    let r := (reduceRow op pats).getD (if k = 0 then 0 else if k = 1 then lo else hi, false)
    (.int 1 (ofSigned 32 r.1) uns, r.2)

/-! ### Rows -/

/-- One element of the output: its linear index, its value (`none`: left unwritten), its poison mark, whether it belongs to an active position,
and whether a stage saturated for it. -/
structure OutEl where
  lin : Nat
  v : Option Num
  psn : Bool
  active : Bool
  sat : Bool
  deriving DecidableEq, Repr

/-- Counts of a descriptor (Table 8-7) and what its rows hand on: active positions so far, elements selected, bits of the mask output. -/
structure VRun where
  elems : Nat
  active : Nat
  oor : Nat
  nanMade : Nat
  sat : Nat
  drop : Nat
  empty : Nat
  k : Nat
  sel : List OutEl
  mask : List Bool
  psn : Bool
  cause : Option Nat
  /-- positions processed, active or not -/
  seen : Nat
  deriving DecidableEq, Repr

def VRun.init : VRun := ⟨0, 0, 0, 0, 0, 0, 0, 0, [], [], false, none, 0⟩

/-- Whether position `lin` is active (R241). -/
def vecActive (s : State) (o : VecOps) (lin : Nat) : Bool :=
  o.minLoc == 0 || (memByte s (locLocal o.minLoc + lin / 8)).getLsbD (lin % 8)

/-- What a row gathers: its output elements and its inputs to a reduction. -/
structure RowAcc where
  run : VRun
  outs : List OutEl
  ins : List (Nat × SVal)
  psn : Bool
  nanIn : Bool
  deriving DecidableEq, Repr

/-- The bit of the mask output (R251, R253). -/
def maskBit (o : VecOps) (i : PosInfo) (res : List SVal) : Bool :=
  let m := vdMsel o.d
  if sgOp (o.stages.getD m 0) = 0x39 then i.kept.contains m else ((res[m]?).map SVal.nonZero).getD false

/-- One position of a row. -/
def rowPos (s : State) (o : VecOps) (so : Word × Nat) (block lin : Nat) (x : RowAcc) : RowAcc :=
  let r := x.run
  if r.cause.isSome then x
  else if !vecActive s o lin then
    { x with outs := x.outs ++ [⟨lin, if vdZero o.d then some (ofInt 0) else none, false, false, false⟩],
             run := { r with mask := r.mask ++ [false], seen := r.seen + 1 } }
  else match (position s o so ⟨lin, block, r.k⟩).run PosInfo.init with
    | .error c => { x with run := { r with cause := some c } }
    | .ok ((res, v), i) =>
      let r := { r with active := r.active + 1, k := r.k + 1, oor := r.oor + i.oor, drop := r.drop + i.drop, psn := r.psn || i.psn, seen := r.seen + 1,
                        mask := r.mask ++ [maskBit o i res] }
      if o.red then
        { x with run := { r with sat := r.sat + bit i.sat }, ins := x.ins ++ [(lin % o.n, res.getLast?.getD (.int 1 0 false))],
                 psn := x.psn || i.psn, nanIn := x.nanIn || i.nanIn }
      else
        let nan := !i.psn && v.isNan && !i.nanIn
        { x with run := { r with nanMade := r.nanMade + bit nan },
                 outs := x.outs ++ [⟨lin, some (if i.psn then .nan else v), i.psn, true, i.sat⟩] }

/-- One row of a chain: its output elements, and the run after it. (DEDUCED; log entry 21.) -/
def chainRow (s : State) (o : VecOps) (so : Word × Nat) (block row : Nat) (r : VRun) : List OutEl × VRun :=
  let x := (List.range o.n).foldl (fun x i => rowPos s o so block (row * o.n + i) x) ⟨r, [], [], false, false⟩
  if o.red then
    if x.run.cause.isSome then ([], x.run)
    else
      let (v, sat) := reduceStage (o.stages.getLast?.getD 0) x.ins
      let nan := !x.psn && v.num.isNan && !x.nanIn
      let m := vdMsel o.d
      let fix := m + 1 == o.stages.length
      let mask := if fix then x.run.mask.zipIdx.map (fun b =>
          if row * o.n ≤ b.2 then vecActive s o b.2 && v.nonZero else b.1) else x.run.mask
      ([⟨row, some (if x.psn then .nan else v.num), x.psn, true, sat⟩],
        { x.run with nanMade := x.run.nanMade + bit nan, mask := mask })
  else (x.outs, x.run)

/-! ### Softmax (R258, R259) -/

/-- One row of a softmax. -/
def softRow (s : State) (o : VecOps) (block row : Nat) (r : VRun) : List OutEl × VRun :=
  let pos := (List.range o.n).map (fun i =>
    let lin := row * o.n + i
    let e := srcElem s o ⟨lin, block, 0⟩ 0 lin
    (i, vecActive s o lin, of32 (to32 e.1), e.2))
  let act := pos.filter (fun p => p.2.1)
  let el (f : Nat → Bool → Num → Num) (psn : Bool) : List OutEl :=
    pos.map (fun p => ⟨row * o.n + p.1, some (f p.1 p.2.1 p.2.2.1), psn, p.2.1, false⟩)
  let r := { r with active := r.active + act.length, seen := r.seen + o.n }
  let infs := act.filter (fun p => p.2.2.1 == .inf false)
  let quiet (r : VRun) (b : Bool) : VRun := { r with mask := r.mask ++ [b] }
  if act.any (fun p => p.2.2.2) then (el (fun _ _ _ => .nan) true, quiet { r with psn := true } false)
  else if act.any (fun p => p.2.2.1.isNan) then (el (fun _ _ _ => .nan) false, quiet r false)
  else if infs ≠ [] then
    let q := of32 (to32 ((ofInt 1).div (ofInt infs.length)))
    (el (fun _ a v => if a && v == .inf false then q else ofInt 0) false, quiet r false)
  else if act.all (fun p => p.2.2.1 == .inf true) then (el (fun _ _ _ => ofInt 0) false, quiet { r with empty := r.empty + 1 } true)
  else
    let m := act.foldl (fun m p => minMaxNum true m p.2.2.1) (.inf true)
    let ex (v : Num) : Num := of32 (exp32 (of32 (to32 (v.sub m))))
    let sum := (reduceRow (fun a b => of32 (to32 (a.add b))) (act.map (fun p => (p.1, ex p.2.2.1)))).getD (ofInt 1)
    (el (fun _ a v => if a then of32 (to32 ((ex v).div sum)) else ofInt 0) false, quiet r false)

/-! ### Writing (R240, R241, R253, R259) -/

/-- Draw word of an output element. -/
def vecDraw (o : VecOps) (so : Word × Nat) (lin : Nat) : Nat :=
  if cwRnd (vdConv o.d) = 2 then drawWord so.1 0 (tId o.out) so.2 lin else 0

/-- Codes packed into bytes. -/
def packBits (w : Nat) : List Nat → Nat
  | [] => 0
  | c :: cs => c % 2 ^ w + 2 ^ w * packBits w cs

/-- Store one element of a format without a shared scale; answers whether the conversion saturated. -/
def putEl (s : State) (o : VecOps) (so : Word × Nat) (e : OutEl) : Bool × State :=
  match e.v with
  | none => (false, s)
  | some v =>
    let c := convert (vdConv o.d) (vecDraw o so e.lin) v
    let b := fmtBits (tFmt o.out) / 8
    let ix := tIndex o.out e.lin
    match locAdd (tBase o.out) (tRowOff o.out ix + (ix.getD 0 0 * b : Nat)) with
    | some l => (c.sat, putElems s (locLocal l) b [(if e.psn && isIntFmt (tFmt o.out) then 0 else c.code, e.psn)] true)
    | none => (false, s)

/-- Store one MX block; answers the elements that saturated. -/
def putBlock (s : State) (o : VecOps) (so : Word × Nat) (es : List OutEl) : List Bool × State :=
  match es with
  | [] => ([], s)
  | e :: _ =>
    if es.all (fun e => e.v.isNone) then (es.map (fun _ => false), s)
    else
      let f := tFmt o.out
      let m := convertMX (vdConv o.d) (es.map (fun e => e.v.getD (ofInt 0))) (es.map (fun e => vecDraw o so e.lin))
      let ix := tIndex o.out e.lin
      let psn := es.any (·.psn)
      let s := match locAdd (tBase o.out) (tRowOff o.out ix + (ix.getD 0 0 / 32 * mxBytes f : Nat)) with
        | some l => engineWrite s (locLocal l) (leBytes (mxBytes f) (packBits (fmtBits f) (m.elems.map (·.code)))) psn
        | none => s
      let s := match locAdd (tScale o.out) ((e.lin / 32 : Nat) : Int) with
        | some l => engineWrite s (locLocal l) (leBytes 1 m.scale) psn
        | none => s
      (m.elems.map (·.sat), s)

def chunk32 : Nat → List OutEl → List (List OutEl)
  | 0, _ => []
  | f + 1, l => if l = [] then [] else l.take 32 :: chunk32 f (l.drop 32)

/-- Write output elements in ascending order and count them. With a partial last MX block (a stop), only whole blocks are written. -/
def putRow (s : State) (o : VecOps) (so : Word × Nat) (es : List OutEl) (r : VRun) : VRun × State :=
  if isMX (tFmt o.out) then
    (chunk32 (es.length + 1) es).foldl (fun x blk =>
      if blk.length < 32 then x
      else
        let (sats, s) := putBlock x.2 o so blk
        let n := (blk.zip sats).countP (fun p => p.1.active && (p.1.sat || p.2))
        ({ x.1 with elems := x.1.elems + blk.countP (fun e => e.active && e.v.isSome), sat := x.1.sat + n }, s)) (r, s)
  else
    es.foldl (fun x e =>
      let (sat, s) := putEl x.2 o so e
      if e.active then ({ x.1 with elems := x.1.elems + 1, sat := x.1.sat + bit (e.sat || sat) }, s) else (x.1, s)) (r, s)

/-- A row processed and written; a stop inside a row leaves what came before it written, but for a ring's block (R257: outputs follow the
reads). (DEDUCED; log entry 21.) -/
def vecRow (t : Nat) (o : VecOps) (so : Word × Nat) (block row : Nat) (x : VRun × State) : VRun × State :=
  let (r, s) := x
  if r.cause.isSome then x
  else
    let (es, r) := if vdSoft o.d then softRow s o block row r else chainRow s o so block row r
    match vdMode o.d with
    | 0 => if vdRing o.d then ({ r with sel := r.sel ++ es }, s) else putRow s o so es r
    | 1 => ({ r with sel := r.sel ++ es.filter (·.active) }, s)
    | _ =>
      -- COMPRESS_INDEX: entries are written as they come
      es.zipIdx.foldl (fun x e =>
        let (r, s) := x
        let (e, i) := e
        let stop (c : Nat) : VRun := { r with cause := some c, seen := r.seen - (es.length - i) }
        if !e.active || r.cause.isSome then x
        else
          let sum := vdIdxBase o.d + e.lin
          let big := decide (2 ^ 40 ≤ sum)
          if big && o.strict then (stop 4, s)
          else
            match drun (dspad t o.outLoc (8 * r.elems + 8)) s with
            | (.error _, s) => (stop 2, s)
            | (.ok a, s) =>
              ({ r with elems := r.elems + 1, oor := r.oor + bit big },
                engineWrite s (a + 8 * r.elems) (leBytes 8 (if big then 0 else sum)) false)) (r, s)

/-- COMPRESS writes what was selected to consecutive elements (R254). (DEDUCED; log entry 21.) -/
def compressWrite (o : VecOps) (so : Word × Nat) (x : VRun × State) : VRun × State :=
  let (r, s) := x
  let room := tSize o.out 0
  let es := (r.sel.zipIdx.map (fun e => { e.1 with lin := e.2 })).take room
  let pad := if isMX (tFmt o.out) then (List.range ((32 - es.length % 32) % 32)).map (fun i => (⟨es.length + i, some (ofInt 0), false, false, false⟩ : OutEl))
    else []
  let exceeds := r.sel.length - room
  let (r, s) := putRow s o so (es ++ pad) r
  -- a stage that saturated counts for an active position that finds no room, too (Table 8-7)
  let r := { r with sat := r.sat + (r.sel.drop room).countP (fun (e : OutEl) => e.sat) }
  if 0 < exceeds ∧ o.strict = true ∧ r.cause.isNone then ({ r with cause := some 4 }, s) else ({ r with oor := r.oor + exceeds }, s)

/-- Bytes of a bitmap. -/
def bitBytes (bs : List Bool) : List Byte :=
  (List.range (ceilDiv bs.length 8)).map (fun i => BitVec.ofNat 8 (packBits 1 ((List.range 8).map (fun j => bit (bs.getD (8 * i + j) false)))))

/-- The mask output from bit `start` on (R241, R253). -/
def maskWrite (o : VecOps) (start : Nat) (x : VRun × State) : VRun × State :=
  if o.moutLoc = 0 ∨ x.1.cause.isSome then x
  else (x.1, engineWrite x.2 (locLocal o.moutLoc + start / 8) (bitBytes x.1.mask) false)

/-- COUNT_OUT (R254, R255). -/
def countWrite (o : VecOps) (x : VRun × State) : VRun × State :=
  if vdMode o.d = 0 ∨ x.1.cause.isSome then x
  else
    let n := if vdMode o.d = 1 then x.1.active else x.1.elems
    (x.1, engineWrite x.2 (locLocal o.cntLoc) (leBytes 8 n) false)

/-- Rows `[lo, hi)` run and everything they write. -/
def vecRows (t : Nat) (o : VecOps) (block lo hi : Nat) (s : State) : VRun × State :=
  let so := seedOrdinal s (t / 16)
  let x := (List.range (hi - lo)).foldl (fun x i => vecRow t o so block (lo + i) x) (VRun.init, s)
  let x := if vdMode o.d = 1 then compressWrite o so x
    else if vdRing o.d ∧ vdMode o.d = 0 then
      (if x.1.cause.isSome then x
       else
        let (r, s) := putRow x.2 o so x.1.sel { x.1 with sel := [] }
        (r, s))
    else x
  let bit0 := if vdSoft o.d then lo else lo * o.n
  countWrite o (maskWrite o bit0 x)

/-! ### Running -/

/-- The vector engine stops on a failed descriptor (R262). (DESIGN CHOICE; log entry 16.) -/
def vecFail (s : State) (t cause : Nat) (q : QDesc) : State :=
  let s := engFail s t 4 0x5010 8 cause q.addr q.tag 0x20
  setVec s t { vecOf s t with busy := none, waiting := false, granted := false, ready := false, stopped := true }

/-- The counts record's additions, at home or at a peer (R260); refused: cause 5. -/
def vecStats (s : State) (t : Nat) (q : QDesc) : State :=
  let l := vdLoc q.desc 4
  if l = 0 then s
  else match locTgt s l 64 true with
    | .ok (.dram i o) =>
      (vecOf s t).counts.zipIdx.foldl (fun s c =>
        let (_, bad, s) := atomLocal s t (agentOf t 4) i (o + 8 * c.2) 0 true false c.1 0 0
        if bad && !(vecOf s t).psnSent then
          raise (setVec s t { vecOf s t with psnSent := true }) (tileSrc 4 t) 0x15 CONTAIN else s) s
    | .ok (.peer d a) =>
      (vecOf s t).counts.zipIdx.foldl (fun s c =>
        if !(vecOf s t).ready then s
        else match sendReq s kATOMIC d (a + 8 * c.2) 8 (atomData 0 true false false 0 c.1 0) false false (.vecStat t) with
          | some s => s
          | none => vecFail s t 5 q) s
    | _ => vecFail s t 5 q

/-- Part of a descriptor is done: counts, the poison message, the failure or what comes next. -/
def vecAfter (s : State) (t : Nat) (q : QDesc) (r : VRun) (last : Bool) : State :=
  let s := csrAdd s (tileCsr t 0x5040) r.seen
  let s := if r.psn && !(vecOf s t).psnSent then
      raise (setVec s t { vecOf s t with psnSent := true }) (tileSrc 4 t) 0x15 CONTAIN else s
  match r.cause with
  | some c => vecFail s t c q
  | none =>
    let add := [r.elems, r.active, r.oor, r.nanMade, r.sat, r.drop, r.empty]
    let e := vecOf s t
    let s := setVec s t { e with counts := (List.range 7).map (fun k => e.counts.getD k 0 + add.getD k 0), block := e.block + 1,
                                 granted := false, ready := last }
    if last then vecStats s t q else s

/-- Local spans of the streams and the mask input that rows `[lo, hi)` read. -/
def vecSpans (s : State) (o : VecOps) (block lo hi : Nat) : List (Nat × Nat) :=
  let rowsOf (k : Nat) (d : Desc) : List (Nat × Nat) :=
    if k = 0 ∧ vdRing o.d = true then
      (List.range 32).flatMap (fun i => match tRowAt s (ringDesc o d block) [0, i, 0, 0, 0] with
        | some (a, _) => [(a, tRowBytes d)]
        | none => [])
    else
      let rs := if k = 0 ∧ vdExpand o.d = true then [[0, 0, 0, 0, 0]] else (List.range (hi - lo)).map (fun i => extIndex o.ext ((lo + i) * o.n))
      rs.flatMap (fun ix =>
        (match tRowAt s d ix with
          | some (a, _) => [(a, tRowBytes d)]
          | none => []) ++
        (if isMX (tFmt d) then ((elemSpans s d ix).drop 1).map (fun u => (u.1, tExt d 0 / 32)) else []))
  (List.range 4).flatMap (fun k => match o.src k with
    | some d => rowsOf k d
    | none => []) ++ (if o.minLoc = 0 then [] else [(locLocal o.minLoc + lo * o.n / 8, ceilDiv ((hi - lo) * o.n) 8)])

/-- The checks made as rows `[lo, hi)` read their streams (R259, R282). (DEDUCED; log entry 58.) -/
def vecEcc (t : Nat) (o : VecOps) (block lo hi : Nat) (s : State) : VecOps × State :=
  if !armed s (tileSrc 6 t) (tileSrc 6 t + 1) then (o, s)
  else
    let (bad, s) := (vecSpans s o block lo hi).foldl (fun (x : List Nat × State) u =>
      let r := tgtScan x.2 (.spad u.1) u.2 .clean
      (x.1 ++ r.1, r.2)) ([], s)
    ({ o with bad := bad }, s)

/-- The head of the queue begins under operation code `op`; a reserved code begins under either and fails. (DEDUCED; log entry 21.) -/
def vecBegin (t op : Nat) (s : State) : Res :=
  let e := vecOf s t
  match e.queue with
  | [] => absent "the vector engine's queue is empty"
  | q :: rest =>
    let code := getF q.desc 0 8
    if s.boot ≠ 0 ∨ e.stopped ∨ e.busy.isSome ∨ (coreOf s t).suspending.isSome then absent "the vector engine begins no descriptor now"
    else if code ≠ op ∧ (code = 1 ∨ code = 2) then absent "another operation is at the head of the queue"
    else
      let s := setVec s t { e with queue := rest }
      .next (match drun (dvector t q.desc q.caps) s with
        | (.error (.fail c), s) => vecFail s t c q
        | (.error (.need _ _ _), s) => vecFail s t 1 q
        | (.ok o, s) =>
          let s := setVec s t { vecOf s t with busy := some q, block := 0, waiting := false, granted := false, ready := false,
                                               counts := List.replicate 7 0, psnSent := false }
          if vdRing q.desc then s
          else
            let (o, s) := vecEcc t o 0 0 o.rows s
            let (r, s) := vecRows t o 0 0 o.rows s
            vecAfter s t q r true)

def execChain (t : BitVec 8) (s : State) : Res := vecBegin t.toNat 1 s
def execSoftmax (t : BitVec 8) (s : State) : Res := vecBegin t.toNat 2 s

/-- The next ring block: FULL_SEM taken, the slot read, FREE_SEM signalled, the outputs written (R257). (DEDUCED; log entry 21.) -/
def execVectorRingBlock (t : BitVec 8) (s : State) : Res :=
  let t := t.toNat
  let e := vecOf s t
  match e.busy with
  | none => absent "no vector descriptor in progress"
  | some q =>
    if e.waiting || e.ready || !vdRing q.desc then absent "no ring block is due"
    else match drun (dvector t q.desc q.caps) s with
      | (.error (.fail c), s) => .next (vecFail s t c q)
      | (.error (.need _ _ _), s) => .next (vecFail s t 1 q)
      | (.ok o, s) =>
        let (go, s) := if e.granted then (true, s) else semWait s t (vdFull q.desc) 1 4
        if !go then .next (setVec s t { vecOf s t with waiting := true })
        else
          let lo := 32 * e.block
          let hi := min (lo + 32) o.rows
          let (o, s) := vecEcc t o e.block lo hi s
          -- the slot has been read once the rows are computed; with a failure among them no slot is freed (R262)
          let (r, s') := vecRows t o e.block lo hi s
          let s' := if r.cause.isSome then s' else signalOrErr s' t (vdFree q.desc) 1
          .next (vecAfter s' t q r (decide (o.rows ≤ hi)))

/-- Every output and count is written and performed, the copies at the twin included: the descriptor completes and signals DONE_SEM (R235, R308). -/
def execVectorComplete (t : BitVec 8) (s : State) : Res :=
  let t := t.toNat
  let e := vecOf s t
  match e.busy with
  | none => absent "no vector descriptor in progress"
  | some q =>
    let s := releaseFlush s (agentOf t 4)
    if !e.ready || agentPending s (agentOf t 4) then absent "the descriptor is not done"
    else
      let s := setVec s t { e with busy := none, ready := false }
      let s := csrAdd s (tileCsr t 0x5048) 1
      .next (if getB q.desc 9 then signalOrErr s t (getF q.desc 16 12) 1 else s)

/-- A peer refused the counts record's update. -/
def vecStatFail (s : State) (t : Nat) : State :=
  match (vecOf s t).busy with
  | some q => vecFail s t 5 q
  | none => s

/-- VEC_STATUS as it reads now (Table 8-12). -/
def vecStatus (s : State) (t : Nat) : Word :=
  let e := vecOf s t
  BitVec.ofNat 64 (e.queue.length % 32 + 2 ^ 5 * bit e.busy.isSome + 2 ^ 6 * bit e.waiting)

end Sys2Proof.Machine
end

