-- ==== Sys2Proof/Machine/PlanRun.lean ====
section
/-! DEFINITION. The run of a plan: setting up its queues and objects, the phase program, the end of a phase with its balance check, the
phase barrier, and the ways a run ends (chapter 2, R288, R299, R336, R351, R375). -/

namespace Sys2Proof.Machine

/-! ### Runs -/

def runOf (s : State) (slot : Nat) : Option (Plan × Run) :=
  match planOf s slot with
  | some p => p.run.map (fun r => (p, r))
  | none => none

/-- The run of an active plan. -/
def activeRun (s : State) (slot : Nat) : Option (Plan × Run) := (runOf s slot).bind (fun x => if runActive x.2 then some x else none)

def setRun (s : State) (slot : Nat) (r : Run) : State :=
  match planOf s slot with
  | some p => setPlan s slot (some { p with run := some r })
  | none => s

/-- The first tile of a plan. -/
def planTile (p : Plan) : Nat := (maskTiles p.clusterMask).head?.getD 0
def planClusters (p : Plan) : List Nat := (List.range 16).filter (fun c => p.clusterMask.testBit c)

/-- A steward record to the twin on VC4 (Table 17-2). The manual gives steward records no layout: this model sends them to addresses outside
DRAM, the record type in the first byte. -/
def stewardMirror (s : State) (bs : List Byte) : State :=
  if mirroring s then
    let tag := s.nextTag
    let r : Req := { tag := tag, dst := csrF s (twnCsr 0x10) 3 11, kind := kMIRROR, addr := 0x1C0000000000, len := bs.length, data := bs,
                     poison := false, sentAt := s.now, cont := .mirror [] none, discard := false, held := false }
    sendTwin { s with reqs := s.reqs ++ [r], nextTag := (tag + 1) % 2 ^ 24 } kMIRROR 0x1C0000000000 (bs.length - 1) tag bs false
  else s

/-! ### Ending -/

/-- Doorbell pages bound to a slot become unbound (R300). -/
def dbBind (d : Nat) : Nat := hstCsr (0x10010 + 0x40 * d)
def unbindDoorbells (s : State) (slot : Nat) : State :=
  (List.range 256).foldl (fun s d =>
    let v := csrGet s (dbBind d)
    if getF v 0 2 ≠ 0 ∧ getF v 22 4 = slot then csrPut s (dbBind d) 0 else s) s

/-- Requests of the agents of these tiles: their answers are discarded on arrival. (DEDUCED; log entry 62.) -/
def discardReqs (s : State) (ts : List Nat) : State :=
  { s with reqs := s.reqs.map (fun r => match contAgent r.cont with
      | some a => if ts.contains (a / 32) then { r with discard := true, cont := .none_ } else r
      | none => r) }

/-- Everything of a tile ends without draining: its task, engines and stream contexts, and its places in the queues of objects.
(DEDUCED; log entry 62.) -/
def clearTile (s : State) (t : Nat) : State :=
  let s := (fgrOf s t).jobs.foldl (fun s j => releaseBound s (j.binds.map (·.slot))) s
  let s := (prtOf s t).ctxs.foldl (fun s e => match e.2 with
    | some x => putDeliv s t e.1 x
    | none => s) s
  let s := stageClear (setTile s t Tile.init) t
  { s with semQ := tabDrop (fun k => k / 256 == t) s.semQ, tallyQ := tabDrop (fun k => k / 128 == t) s.tallyQ }

/-- The tasks and engines of these tiles are gone, suspended and ended tasks and messages on their way included. (DEDUCED; log entry 62.) -/
def clearTiles (s : State) (ts : List Nat) : State :=
  let s := ts.foldl clearTile (discardReqs s ts)
  { s with suspended := s.suspended.filter (fun x => !ts.contains x.tile), ended := s.ended.filter (fun e => !ts.contains e.1),
           partials := s.partials.filter (fun p => !ts.contains p.src && !ts.contains p.owner),
           barArr := s.barArr.filter (fun b => !ts.contains b.2) }

/-- Records queued for a slot are discarded. -/
def emptyQueues (s : State) (slot : Nat) : State :=
  (List.range 4096).foldl (fun s q =>
    let c := q / 256
    let n := q % 256
    if csrF s (wqCfg c n) 8 1 = 1 ∧ csrF s (wqCfg c n) 9 4 = slot then csrSetF s (wqPtr c n) 0 32 (wqTail s c n) else s) s

/-- A claim of a pool still on its way for a slot is dropped. -/
def dropClaims (s : State) (slot : Nat) : State :=
  { s with reqs := s.reqs.map (fun r => match r.cont with
      | .hubClaim i .. => if i = slot then { r with discard := true, cont := .none_ } else r
      | _ => r) }

/-- Exchange two entries of the region table. (DESIGN CHOICE; log entry 35.) -/
def swapRegions (s : State) (i j : Nat) : State :=
  if i = j then s
  else
    let (a, b, c, d) := (csrGet s (rgnAddr i), csrGet s (rgnAttr i), csrGet s (rgnAddr j), csrGet s (rgnAttr j))
    csrPut (csrPut (csrPut (csrPut s (rgnAddr i) c) (rgnAttr i) d) (rgnAddr j) a) (rgnAttr j) b

/-- The twin's locators mean its own region indices: its shadows take their places while its share runs. -/
def swapServing (s : State) : State :=
  s.twin.shadows.foldl (fun s x => match x.inst with
    | some j => swapRegions s x.idx j
    | none => s) s

/-- Exchange the plan in the slot with the one that is out, carrying the run over, and the region entries with it. -/
def swapSlot (s : State) (slot share : Nat) : State :=
  match planOf s slot, s.twin.swapped with
  | some p, some q =>
    let s := setPlan s slot (some { q with run := p.run.map (fun r => { r with share := share }) })
    swapServing { s with twin := { s.twin with swapped := some { p with run := none } } }
  | _, _ => s

/-- The collective contexts end without draining. -/
def collsEnd (s : State) : State :=
  (List.range 16).foldl (fun s c => csrSetF (csrSetF s (collStateAddr c) 0 1 0) (collStateAddr c) 9 23 0) { s with colls := [], collHeld := [] }

/-- The slot's phase barrier is past, or its run has ended: replica space waits for it no more (R390). -/
def freedPast (s : State) (slot : Nat) : State :=
  { s with freed := (s.freed.map (fun f => (f.1, f.2.filter (fun i => i != slot)))).filter (fun f => f.2 != []) }

/-- The run of a slot ends in a QUERY_RUN state: tasks and engines of its clusters end, doorbells are unbound. (DEDUCED; log entry 62.) -/
def runStop (s : State) (slot state : Nat) : State :=
  match activeRun s slot with
  | none => s
  | some (p, r) =>
    let s := clearTiles s (maskTiles p.clusterMask)
    let s := if p.fabric then collsEnd s else s
    let s := dropClaims (emptyQueues s slot) slot
    let s := (planClusters p).foldl (fun s c => setDisp s c { dispOf s c with staggerUntil := none }) s
    let s := if r.share = 2 ∨ r.share = 4 then swapSlot s slot 1 else s
    let s := if r.share ≠ 0 then csrSetF s (twnCsr 0x10) 14 1 0 else s
    let s := if r.share ≠ 0 then { s with twin := { s.twin with swapped := none } } else s
    unbindDoorbells (setRun (freedPast s slot) slot { r with state := state, lists := [], held := [], preloads := [], pools := [], share := 0 }) slot

/-- The end of a run is reported. (DESIGN CHOICE; log entry 27.) -/
def runEndEvent (s : State) (slot : Nat) : State :=
  match runOf s slot with
  | some (_, r) => evqPost s 0x01 0 0 slot r.state
  | none => s

/-- The steward stops a plan for a fault (R42, R336): FAILED, with the source, the ledger kind and the address that QUERY_RUN reports.
(DESIGN CHOICE, DEDUCED; log entries 10, 62.) -/
def planStop (s : State) (slot source kind addr : Nat) : State :=
  match activeRun s slot with
  | none => s
  | some (_, r) =>
    let s := setRun s slot { r with faultSource := source, faultCause := kind, faultAddr := addr }
    runEndEvent (runStop s slot 5) slot

/-- Every line of every pantry of the plan's clusters is invalidated (R354). -/
def invalPlan (s : State) (p : Plan) : State := (planClusters p).foldl (fun s c => panInvalNow s c 0xFFFF) s

/-- A run ends by END or STOP: doorbells unbound, pantries invalidated, RUN_END. (DESIGN CHOICE; log entry 27.) -/
def runFinish (s : State) (slot : Nat) (state : Nat) : State :=
  match activeRun s slot with
  | none => s
  | some (p, _) => runEndEvent (invalPlan (runStop s slot state) p) slot

/-! ### Synchronisation objects and queues (R65, R288) -/

def syKind (e : BitVec 128) : Nat := getF e 0 2
def syTile (e : BitVec 128) : Nat := getF e 2 8
def syNum (e : BitVec 128) : Nat := getF e 10 12
def syVal (e : BitVec 128) : Nat := getF e 64 32
def syDepth (e : BitVec 128) : Nat := getF e 96 31

/-- One tile's objects at their INIT values. Of two entries that name one object of a tile the later counts; the manual is silent.
(DESIGN CHOICE; log entry 27.) -/
def syncTile (p : Plan) (s : State) (t : Nat) : State :=
  let s := csrDrop s (tileCsr t 0x8800) (tileCsr t 0x9600)
  p.sync.foldl (fun s e =>
    if syTile e ≠ t then s
    else if syKind e = 0 then csrPut s (semAddr t (syNum e)) (BitVec.ofNat 64 (syVal e + syVal e * 2 ^ 32))
    else if syKind e = 1 then
      csrPut (csrPut s (tallyAddr t (syNum e)) (BitVec.ofNat 64 (syVal e + syVal e * 2 ^ 32)))
        (tallyCfgAddr t (syNum e)) (BitVec.ofNat 64 (syVal e + syDepth e * 2 ^ 32))
    else s) s

/-- EXPECT of a context of kind `kind`, in the 16 bits the register has: 1 for context 0, whose arrivals the steward makes. Of two entries that name
one context the earlier counts; the manual is silent. (DESIGN CHOICE; log entry 27.) -/
def expectOf (p : Plan) (kind k : Nat) : Nat :=
  if k = 0 then 1 else ((p.sync.find? (fun e => syKind e == kind && syNum e == k)).map syVal).getD 0 % 2 ^ 16

/-- INIT, DEPTH and EXPECT are written, and every object set to its initial state (R288). A plan without FABRIC writes the fabric contexts that its
entries name. -/
def syncInit (s : State) (p : Plan) : State :=
  let s := (maskTiles p.clusterMask).foldl (syncTile p) s
  let s := (List.range 32).foldl (fun s k =>
    if p.clusterMask.testBit (k / 2) then
      setRel (csrPut (csrPut s (dieState k) 0) (dieCfg k) (BitVec.ofNat 64 (expectOf p 2 k))) k []
    else s) s
  ((List.range 32).filter (fun k => p.fabric || p.sync.any (fun e => syKind e == 3 && syNum e == k))).foldl (fun s k =>
    let s := csrPut (csrPut s (fabState k) 0) (fabCfg k) (BitVec.ofNat 64 (expectOf p 3 k))
    let s := { s with groupWait := s.groupWait.filter (fun g => g.1 != k) }
    setRel (setFabBar s k FabBar.init) (32 + k) []) s

/-- The instruction stores of the plan's tiles hold its code (R281). (DESIGN CHOICE; log entry 7.) -/
def loadCode (s : State) (p : Plan) : State :=
  p.code.foldl (fun s e => storeBytes s (sramBase + e.1 * 0x800000 + 0x600000) e.2) s

def qWq (e : BitVec 128) : Nat := getF e 0 12

/-- Work queues are set up empty (R65). -/
def queueInit (s : State) (slot : Nat) (p : Plan) : State :=
  p.queues.foldl (fun s e =>
    let c := qWq e / 256
    let n := qWq e % 256
    let s := csrPut s (wqBase c n) (BitVec.ofNat 64 (getF e 64 64))
    let s := csrPut s (wqCfg c n) (BitVec.ofNat 64 (getF e 16 5 + getF e 12 3 * 2 ^ 5 + 2 ^ 8 + slot * 2 ^ 9 + getF e 15 1 * 2 ^ 13))
    csrPut s (wqPtr c n) 0) s

/-- Doorbell pages are bound (R68, R300). -/
def doorbellInit (s : State) (slot : Nat) (p : Plan) : State :=
  p.doorbells.foldl (fun s e =>
    csrPut s (dbBind (getF e 0 8)) (BitVec.ofNat 64 (getF e 8 2 + getF e 10 8 * 2 ^ 2 + getF e 18 12 * 2 ^ 10 + slot * 2 ^ 22))) s

/-! ### Collective contexts (R438) -/

/-- Bytes of SRC and DST that the own module's arrays take (Table 16-8). -/
def collSpans (s : State) (d : Desc) : Nat × Nat :=
  let e := cdElems d
  let r := rankOf s (ownId s)
  let slice := sliceHi s e r - sliceLo s e r
  ((if cdOp d = 2 then slice else e) * cdInB d, (if cdOp d = 3 then slice else e) * cdOutB d)

/-- The descriptor may be used: Table 16-7, R439 and R136. -/
def collUsable (s : State) (d : Desc) : Bool :=
  let src := BitVec.ofNat 64 (getF d 64 64)
  let dst := BitVec.ofNat 64 (getF d 128 64)
  let ok (x : Except AccErr Tgt) : Bool := match x with
    | .ok _ => true
    | .error _ => false
  collLegal d && ok (locTgt s src (collSpans s d).1 false) && ok (locTgt s dst (collSpans s d).2 true)

/-- Descriptors and trigger counts of the plan's contexts; other contexts hold none. -/
def collInit (s : State) (p : Plan) : State :=
  let s := { csrDrop s (fabCsr 0x1000) (fabCsr 0x1800) with colls := [], collHeld := [] }
  p.coll.foldl (fun s e =>
    let s := (List.range 8).foldl (fun s w => csrPut s (collDescAddr e.1 w) (BitVec.ofNat 64 (getF e.2 (64 * w) 64))) s
    csrPut s (collStateAddr e.1) (BitVec.ofNat 64 (tallyVal s (getF e.2 272 8) (getF e.2 280 6) * 2 ^ 32))) s

/-! ### Phase program (R64) -/

def ppOp (e : BitVec 256) : Nat := getF e 0 8
def ppSpan (e : BitVec 256) : Nat := getF e 16 16
def ppCount (e : BitVec 256) : Nat := getF e 32 32
def ppUntil (e : BitVec 256) : Bool := getB e 8

/-- The FLAG word of a LOOP reads non-zero. -/
def flagSet (s : State) (p : Plan) (e : BitVec 256) : Bool :=
  (readLocal s (planTile p / 16) (some (BitVec.ofNat 64 (getF e 64 64))) 8).1.any (fun b => b != 0)

/-- Leave or repeat the loops whose body ends at `pc`, innermost first. -/
def loopSettle (s : State) (p : Plan) : List (Nat × Nat) → Nat → List (Nat × Nat) × Nat
  | [], pc => ([], pc)
  | (l, i) :: rest, pc =>
    let e := p.phases.getD l 0
    if pc ≠ l + 1 + ppSpan e then ((l, i) :: rest, pc)
    else
      let more := if ppUntil e then !flagSet s p e && (ppCount e == 0 || decide (i + 1 < ppCount e)) else decide (i + 1 < ppCount e)
      if more then ((l, i + 1) :: rest, l + 1) else loopSettle s p rest pc

/-- The entry at `pc` is done. -/
def advancePc (s : State) (p : Plan) (r : Run) (pc : Nat) : Run :=
  let x := loopSettle s p r.loops pc
  { r with loops := x.1, pc := x.2 }

/-- The entry the steward executes next: none while a phase runs. -/
def nextEntry (s : State) (slot : Nat) : Option (Plan × Run × BitVec 256) :=
  match activeRun s slot with
  | some (p, r) => if r.inPhase ∨ s.boot ≠ 0 then none else some (p, r, p.phases.getD r.pc 4)
  | none => none

def execPlanLoop (slot : BitVec 3) (s : State) : Res :=
  match nextEntry s slot.toNat with
  | some (p, r, e) =>
    if ppOp e ≠ 2 then absent "the next entry is no LOOP"
    else if !ppUntil e ∧ ppCount e = 0 then .next (setRun s slot.toNat (advancePc s p r (r.pc + 1 + ppSpan e)))
    else .next (setRun s slot.toNat { r with loops := (r.pc, 0) :: r.loops, pc := r.pc + 1 })
  | none => absent "no phase program entry is due"

/-! ### Seals (R54, R55, Table 2-12) -/

/-- Seal lane `j` of a buffer whose control blocks lie at `loc`. (DESIGN CHOICE; log entry 27.) -/
def sealLane (cap buf : Nat) (loc : Word) (c : Nat) (x : State × List (Nat × Nat × Nat) × Bool) (j : Nat) :
    State × List (Nat × Nat × Nat) × Bool :=
  let (s, l, exceeds) := x
  let (bs, s) := readLocal s c (locAdd loc ((64 * j : Nat) : Int)) 8
  let n := ofLE bs
  if cap < n then (s, l, true)
  else match locAdd loc ((64 * j + 8 : Nat) : Int) with
    | none => (s, l, exceeds)
    | some w => (traceSteward (stewardWrite s c w (leBytes 8 n)) 0x0B (buf + j * 2 ^ 8) n, l ++ [(buf, j, n)], exceeds)

def execSeal (slot : BitVec 3) (s : State) : Res :=
  match nextEntry s slot.toNat with
  | some (p, r, e) =>
    if ppOp e ≠ 3 then absent "the next entry is no SEAL"
    else
      let buf := getF e 8 4
      match p.delta.find? (fun d => getF d 0 4 == buf) with
      | none => absent "the plan declares no such buffer"
      | some d =>
        let loc := mkLoc2 (p.regions.getD (getF d 12 12) 0) 0
        let (s, l, exceeds) := (List.range (getF d 4 6 + 1)).foldl (sealLane (getF d 64 64) buf loc (planTile p / 16)) (s, [], false)
        let s := setRun s slot.toNat { advancePc s p r (r.pc + 1) with sealed := r.sealed ++ l }
        .next (if exceeds then planStop (raise s 0x8000 0x20 CONTAIN) slot.toNat 0x8000 0x20 0 else s)
  | none => absent "no phase program entry is due"

/-- END, or running past the last entry, finishes the run. -/
def execPlanEnd (slot : BitVec 3) (s : State) : Res :=
  match nextEntry s slot.toNat with
  | some (p, r, e) =>
    if ppOp e = 4 ∨ p.phases.length ≤ r.pc then .next (runFinish s slot.toNat 3) else absent "the next entry is no END"
  | none => absent "no phase program entry is due"

/-! ### Hub segment pools (R375) -/

/-- Records `v` up to `v + batch − 1` below COUNT that a claim took. -/
def claimed (v batch count : Nat) : List Nat := (List.range batch).filterMap (fun i => if v + i < count then some (v + i) else none)

/-- The run takes records claimed from pool entry `pool`. -/
def hubTake (s : State) (slot pool v count queue : Nat) (traced : Bool) (recs : List (List Byte)) : State :=
  match runOf s slot with
  | none => s
  | some (p, r) =>
    let s := if traced then traceSteward s 0x0A (p.pools.getD pool 0).toNat v else s
    let pools := r.pools.map (fun x => if x.1 = pool then (pool, x.2 || decide (count ≤ v)) else x)
    feed (setRun s slot { r with pools := pools, held := r.held ++ recs.map (fun b => (queue, b)) }) slot

/-- A claim on a pool whose home is this module; a pool that cannot be read or written is taken as empty. -/
def hubClaimLocal (s : State) (slot pool : Nat) : State :=
  match runOf s slot with
  | none => s
  | some (p, _) =>
    let l := p.pools.getD pool 0
    let c := planTile p / 16
    match locTgt s l 64 true with
    | .ok (.dram i o) =>
      let (v, bad, s) := atomLocal s (16 * c) (agentOf (16 * c) 0) i o 0 true false (polVal s 0x08) 0 0 true
      let (h, s) := readLocal s c (some l) 64
      let count := if bad then 0 else ofLE ((h.drop 8).take 4)
      let queue := ofLE ((h.drop 12).take 2) % 4096
      let recs := (claimed v (polVal s 0x08) count).map (fun i => (readLocal s c (locAdd l ((64 + 64 * i : Nat) : Int)) 64).1)
      hubTake s slot pool v count queue true recs
    | _ => hubTake s slot pool 0 0 0 false []

/-- The pool's home is this module. -/
def poolHome (s : State) (p : Plan) (pool : Nat) : Bool :=
  let l := p.pools.getD pool 0
  locKind l == 2 || locDev l == ownId s

/-! ### Release of a phase -/

/-- Start the preloads whose cluster is free, in list order. -/
def preStart (s : State) (p : Plan) : List Nat → List Nat → State × List Nat
  | [], kept => (s, kept.reverse)
  | x :: rest, kept =>
    let c := x % 16
    if (panOf s c).preload.isSome then preStart s p rest (x :: kept)
    else
      let e := p.preloads.getD (x / 16) 0
      let loc := BitVec.ofNat 64 (getF e 0 64)
      let s := csrPut s (clusterCsr c 0x4020) loc
      preStart (panPreloadStart s c loc (getF e 64 24) (getB e 88)) p rest kept

/-- GEN and views of contexts 1–31 start the phase at 0, and the views of context 0 count the release (R299). -/
def phaseViews (s : State) (p : Plan) : State :=
  let s := (List.range 31).foldl (fun s k =>
    let k := k + 1
    let s := if p.clusterMask.testBit (k / 2) then csrSetF s (dieState k) 32 31 0 else s
    if p.fabric then csrSetF s (fabState k) 42 22 0 else s) s
  (maskTiles p.clusterMask).foldl (fun s t =>
    let s := (List.range 31).foldl (fun s k => csrPut (csrPut s (tallyAddr t (65 + k)) 0) (tallyAddr t (97 + k)) 0) s
    viewAdvance (viewAdvance s t 64) t 96) s

/-- The start stagger of the plan's clusters (R500). -/
def startStagger (s : State) (p : Plan) : State :=
  let ns := csrF s (govCsr 0x10) 0 11
  (planClusters p).foldl (fun s c =>
    if c * ns = 0 then s else setDisp s c { dispOf s c with staggerUntil := some (s.now + c * ns) }) s

/-- What was written before is kept whatever becomes of the new phase: the spans that the slot's phase wrote leave `dirty` (R43). -/
def cleanSlot (s : State) (slot : Nat) : State := { s with dirty := s.dirty.filter (·.1 != slot) }

/-- The task lists and pools of a phase entry. -/
def phaseLists (e : BitVec 256) : List (Nat × Nat) := (List.range (getF e 96 16)).map (fun i => (getF e 64 32 + i, 0))
def phasePools (e : BitVec 256) : List (Nat × Bool) := (List.range (getF e 160 16)).map (fun i => (getF e 176 32 + i, false))

/-- The tasks of the phase are released. (DESIGN CHOICE; log entry 10.) -/
def phaseRelease (s : State) (slot : Nat) (first : Bool) : State :=
  match activeRun s slot with
  | none => s
  | some (p, r) =>
    let e := p.phases.getD r.pc 0
    let s := if first then phaseViews s p else s
    let s := startStagger (traceSteward s 0x0C r.ordinal slot) p
    let s := setRun s slot { r with released := true, lists := phaseLists e, pools := phasePools e }
    let s := feed s slot
    (phasePools e).foldl (fun s x => if poolHome s p x.1 then hubClaimLocal s slot x.1 else s) s

/-- Preloads go on, and with none left the phase is released. -/
def phaseStart (s : State) (slot : Nat) : State :=
  match activeRun s slot with
  | none => s
  | some (p, r) =>
    if !r.inPhase ∨ r.released then s
    else
      let (s, left) := preStart s p r.preloads []
      let s := setRun s slot { r with preloads := left }
      if left = [] ∧ (planClusters p).all (fun c => (panOf s c).preload.isNone) then phaseRelease s slot (r.share ≠ 2 && r.share ≠ 4) else s

/-- Preloads of a phase entry, by entry and cluster. (DESIGN CHOICE; log entry 27.) -/
def phasePreloads (p : Plan) (e : BitVec 256) : List Nat :=
  (List.range (getF e 112 16)).flatMap (fun i =>
    let k := getF e 128 32 + i
    ((List.range 16).filter (fun c => getB (p.preloads.getD k 0) (96 + c))).map (fun c => 16 * k + c))

/-- A phase begins: the next ordinal, its masks and preloads (R40, R113). -/
def phaseBegin (s : State) (slot : Nat) (p : Plan) (r : Run) (e : BitVec 256) : State :=
  let s := cleanSlot s slot
  phaseStart (setRun s slot { r with inPhase := true, released := false, drained := false, ordinal := if r.begun then r.ordinal + 1 else 0,
                                     begun := true, cacheMask := getF e 16 16 / 2 * 2, invalMask := getF e 32 16 / 2 * 2, lists := [],
                                     pools := [], preloads := phasePreloads p e }) slot

/-- RUN_PHASE (R64). A move interval holds the release back (Table 14-5); a continued run stops at a phase without TWIN_OK (R467). -/
def execRunPhase (slot : BitVec 3) (s : State) : Res :=
  let slot := slot.toNat
  match nextEntry s slot with
  | some (p, r, e) =>
    if ppOp e ≠ 1 then absent "the next entry is no RUN_PHASE"
    else if p.fabric ∧ s.moveFrom ≠ [] then absent "the release waits for MOVES_DONE"
    else if r.share ≠ 0 ∧ getF e 8 1 = 0 then
      .next (planStop (raise (errOnce s (twnCsr 0x18) 8 5) 0x6000 0x33 CONTAIN) slot 0x6000 0x33 0)
    else .next (phaseBegin s slot p r e)
  | none => absent "no phase program entry is due"

/-- The preload of a cluster finishes, and the steward goes on with its list or releases the phase (R351). -/
def execPreloadDone (c : BitVec 4) (s : State) : Res :=
  match preloadFinish s c.toNat with
  | none => absent "no preload of the cluster can finish"
  | some s => .next (match slotOfCluster s c.toNat with
    | some slot => phaseStart s slot
    | none => s)

/-! ### The end of a phase (Table 2-3 steps 3 to 8) -/

/-- Nothing is queued or in progress on a tile. Open merge contexts do not count here (R202). -/
def tileQuiet (s : State) (t : Nat) : Bool :=
  let x := tileOf s t
  x.core.task.isNone && x.core.accs == [] && x.fgr.queue == [] && x.fgr.jobs == [] && x.fgr.slots == [] && x.cmb.queue == [] &&
    x.cmb.busy.isNone && x.cmb.sigs == [] && x.mxe.queue == [] && x.mxe.busy.isNone && x.vec.queue == [] && x.vec.busy.isNone &&
    x.prt.queue == [] && x.prt.ctxs.all (fun e => e.2.isNone) && x.prt.restore == []

/-- The phase's tasks are complete and its engines have drained; the pools whose home is this module have been claimed to their end (R375). -/
def phaseIdle (s : State) (slot : Nat) (p : Plan) (r : Run) : Bool :=
  let ts := maskTiles p.clusterMask
  r.lists.all (fun l => decide (liCount (p.lists.getD l.1 0) ≤ l.2)) && r.held == [] &&
  r.pools.all (fun x => x.2 || !poolHome s p x.1) &&
  s.reqs.all (fun q => match q.cont with
    | .hubClaim i .. => i != slot
    | k => !((contAgent k).map (fun a => ts.contains (a / 32))).getD false) &&
  p.queues.all (fun q => wqCount s (qWq q / 256) (qWq q % 256) == 0) && ts.all (tileQuiet s) &&
  s.suspended.all (fun x => !ts.contains x.tile) && s.ended.all (fun e => !ts.contains e.1) &&
  s.partials.all (fun m => !ts.contains m.src && !ts.contains m.owner) && s.barArr.all (fun b => !ts.contains b.2)

/-- The first object of a tile that is out of balance: kind and number. -/
def tileUnbalanced (s : State) (t : Nat) : Option (Nat × Nat) :=
  match (List.range 256).find? (fun n => semVal s t n != csrF s (semAddr t n) 32 32) with
  | some n => some (0, n)
  | none => ((List.range 64).find? (fun n => tallyQueue s t n != [] || tallyVal s t n != csrF s (tallyAddr t n) 32 32)).map (fun n => (1, n))

/-- A die context that is out of balance. -/
def dieUnbalanced (s : State) (k : Nat) : Bool :=
  let v := csrGet s (dieState k)
  getF v 0 32 != 0 || getF v 63 1 != 0

/-- A fabric context that is out of balance. -/
def fabUnbalanced (s : State) (k : Nat) : Bool :=
  let v := csrGet s (fabState k)
  getF v 0 16 != 0 || (fabBar s k).next != 0 || getF v 41 1 != 0

/-- Tile `t` has merge contexts open at the balance check: the lowest is recorded (Table 6-9). -/
def ctxUnclosed (s : State) (t : Nat) : State :=
  let s := match (List.range 16).findSome? (fun k => (cmbOf s t).ctxs.find? (fun x => x.num == k)) with
    | some x => engRecord s t 0x3010 12 (8 + x.num * 2 ^ 8) x.descAddr
    | none => s
  raise s (tileSrc 2 t) 0x23 CONTAIN

/-- The objects that fail the balance check are recorded and CONTAIN raised; the first source where there is any (R42, R313).
(DESIGN CHOICE; log entry 27.) -/
def balanceCheck (s : State) (p : Plan) : Option Nat × State :=
  let ts := maskTiles p.clusterMask
  let a (x : Option Nat × State) (bad : Bool) (src : Nat) (f : State → State) : Option Nat × State :=
    if bad then (some (x.1.getD src), f x.2) else x
  let x := ts.foldl (fun x t => match tileUnbalanced s t with
    | some (k, n) => a x true (tileSrc 7 t) (fun s => synMisuse s t k n 6)
    | none => x) ((none : Option Nat), s)
  let x := (List.range 31).foldl (fun x k =>
    a x (p.clusterMask.testBit ((k + 1) / 2) && dieUnbalanced s (k + 1)) (tileSrc 7 (16 * ((k + 1) / 2)))
      (fun s => synMisuse s (16 * ((k + 1) / 2)) 2 (k + 1) 6)) x
  let x := (List.range 31).foldl (fun x k =>
    a x (p.fabric && fabUnbalanced s (k + 1)) (tileSrc 7 (planTile p)) (fun s => synMisuse s (planTile p) 3 (k + 1) 6)) x
  let x := ts.foldl (fun x t =>
    a x ((cmbOf s t).ctxs != []) (tileSrc 2 t) (fun s => ctxUnclosed s t)) x
  a x (p.fabric && (List.range 16).any (fun c => csrF s (collStateAddr c) 0 1 == 1 || csrF s (collStateAddr c) 9 23 != 0)) 0x3200
    (fun s => raise s 0x3200 0x23 CONTAIN)

/-- Tally counters that passed the check go back to INIT (R299). -/
def tallyReset (s : State) (p : Plan) : State :=
  (maskTiles p.clusterMask).foldl (fun s t => (List.range 64).foldl (fun s n =>
    let i := csrF s (tallyCfgAddr t n) 0 32
    csrPut s (tallyAddr t n) (BitVec.ofNat 64 (i + i * 2 ^ 32))) s) s

/-- The checkpoint of a completed phase (Table 17-2). -/
def checkpoint (s : State) (slot : Nat) (p : Plan) (r : Run) : State :=
  let trigs := (List.range 16).flatMap (fun c => leBytes 4 (csrF s (collStateAddr c) 32 32))
  stewardMirror s (leBytes 1 1 ++ leBytes 1 slot ++ leBytes 2 r.loops.length ++ leBytes 4 r.ordinal ++ leBytes 8 p.id.toNat ++ leBytes 8 r.pc ++
    r.loops.flatMap (fun l => leBytes 4 l.1 ++ leBytes 4 l.2) ++ trigs ++
    r.sealed.flatMap (fun x => leBytes 1 x.1 ++ leBytes 1 x.2.1 ++ leBytes 8 x.2.2))

/-- The twin's arrival for a phase barrier that this module makes for it (R467). -/
def arriveFor (s : State) (dev : Nat) : State :=
  let tag := (csrF s (fabState 0) 42 22 + 1) % 4
  let data := arriveData 0 tag ((fabricSlot s).getD 0)
  let one (s : State) (d : Nat) : State :=
    match route s (servedDev s d) with
    | some (port, v) =>
      let p : Packet := { kind := kBAR_ARRIVE, src := dev, dst := d, port := some port, lc := false, poison := false, nonmin := v.isSome,
                          via := v.getD 0, len := 7, addr := 0, tag := 0, data := data }
      emitOut (countSlots s port kBAR_ARRIVE 8) (.packet p)
    | none => s
  let s := (s.shape.filter (fun d => d != ownId s && d != dev)).foldl one s
  fabArrive s 0 dev tag

/-! ### Moves at a phase boundary (Table 14-5) -/

/-- A steward message on VC5. The manual gives MGMT packets no layout: this model's messages begin with a type byte, a table ID and a row.
(DESIGN CHOICE; log entry 31.) -/
def mgmtData (ty id row extra : Nat) : List Byte := leBytes 1 ty ++ leBytes 3 id ++ leBytes 5 row ++ leBytes 7 extra
def sendMgmt (s : State) (d : Nat) (data : List Byte) (cont : Cont) : State := (sendReq s kMGMT d 0 data.length data false false cont).getD s
def mgmtAll (s : State) (data : List Byte) (cont : Cont) : State :=
  (s.shape.filter (fun d => d != ownId s)).foldl (fun s d => sendMgmt s d data cont) s

/-- Moves granted by this module as home, not yet begun. -/
def movesGranted (s : State) : List Copy := s.copies.filter (fun c => c.byHome && c.stage == 0)

/-- Step 1: with moves granted, notices go out before the arrival. -/
def moveNotices (s : State) : State :=
  if movesGranted s = [] then s
  else mgmtAll { s with moveFrom := if s.moveFrom.contains (ownId s) then s.moveFrom else s.moveFrom ++ [ownId s] } (mgmtData 0x12 0 0 0) .mgmt

def setCopy (s : State) (c : Copy) : State :=
  { s with copies := s.copies.map (fun x => if x.table = c.table ∧ x.row = c.row then c else x) }
def dropCopy (s : State) (id row : Nat) : State := { s with copies := s.copies.filter (fun x => !(x.table == id && x.row == row)) }

/-- The bytes of a row as the writes that carry its poison: at most 2 KiB each, whose bytes have one mark. -/
def markPieces : Nat → Nat → List Byte → List Bool → List (Nat × List Byte × Bool)
  | 0, _, _, _ => []
  | f + 1, off, bs, marks =>
    if bs = [] then []
    else
      let psn := marks.headD false
      let n := min 2048 (max 1 (marks.takeWhile (fun b => b == psn)).length)
      (off, bs.take n, psn) :: markPieces f (off + n) (bs.drop n) (marks.drop n)

/-- Give a copy up: the home of a replica gets its grant back, the module that asked for a move hears that it is not made. -/
def copyDrop (s : State) (c : Copy) : State :=
  let s := dropCopy s c.table c.row
  if c.kind = 1 then sendMgmt s c.srcDev (mgmtData 0x23 c.table c.row 0) .mgmt
  else if c.byHome ∧ c.dstDev ≠ ownId s then sendMgmt s c.dstDev (mgmtData 0x31 c.table c.row 0) .mgmt
  else s

/-- Ask for the pieces of a row; the copy is given up where there is no path. -/
def pullPieces : Nat → State → Copy → Nat → State
  | 0, s, _, _ => s
  | f + 1, s, c, off =>
    if c.len ≤ off then s
    else
      let n := min 2048 (c.len - off)
      match sendReq s kREAD c.srcDev (c.src + off) n [] false true (.copyRead c.table c.row off) with
      | some s => pullPieces f s c (off + n)
      | none => copyDrop s c

/-- The row of a copy goes to its place, its poison with it: at this module at once, at a peer by WRITEs. A WRITE for which there is no path is
lost. -/
def copyPut (s : State) (c : Copy) (bs : List Byte) (marks : List Bool) : State :=
  let ps := markPieces bs.length 0 bs marks
  if c.dstDev ≠ ownId s then
    ps.foldl (fun s p => (sendReq s kWRITE c.dstDev (c.dst + p.1) p.2.1.length p.2.1 p.2.2 true (.copyWrite c.table c.row)).getD s)
      (setCopy s { c with parts := [], stage := 1 })
  else match localTgt s c.dst c.len true with
    | .ok (.dram i o) =>
      let s := ps.foldl (fun s p => chanWrite s [] i (o + p.1) p.2.1 p.2.2 1 none true) (flushOverlap s 0 c.dst c.len)
      setCopy s { c with parts := [], stage := 2 }
    | _ => copyDrop s c

/-- Step 4: the home copies each row from where it lies to the target's move pool, unless migration is frozen (R372). -/
def moveBegin (s : State) : State :=
  if !s.moveFrom.contains (ownId s) then s
  else (movesGranted s).foldl (fun s c =>
    if s.freeze.testBit 1 then copyDrop s c
    else if c.srcDev ≠ ownId s then
      let c := { c with stage := 1 }
      pullPieces 32 (setCopy s c) c 0
    else match localTgt s c.src c.len false with
      | .ok g =>
        let (bs, marks, s) := agentReadMarks s 0 g c.len .clean
        copyPut s c bs marks
      | .error _ => copyDrop s c) s

/-- The module arrives at the phase barrier: the die's opens at once, the fabric's by its node. -/
def phaseArrive (s : State) (slot : Nat) (p : Plan) (r : Run) : State :=
  if p.fabric then
    let s := setRun s slot { r with drained := true, barGen := csrF s (fabState 0) 42 22 + 1 }
    let s := if r.share = 4 then s else moveNotices s
    let s := if r.share = 2 ∨ r.share = 4 then arriveFor s (csrF s (twnCsr 0x10) 3 11) else s
    if r.share = 4 then s else fabLocal s 0 (planTile p)
  else setRun (csrSetF s (dieState 0) 32 31 ((csrF s (dieState 0) 32 31 + 1) % 2 ^ 31)) slot { r with drained := true }

/-! ### The twin's share of a phase (R467) -/

/-- The other share's plan comes into the slot: instruction stores, queues and objects are set up for it; the views and the node of the phase
barrier stand. -/
def swapPlan (s : State) (slot : Nat) (share : Nat) : State :=
  let s := swapSlot s slot share
  match planOf s slot with
  | some q =>
    let views := (maskTiles q.clusterMask).map (fun t => (t, csrGet s (tallyAddr t 64), csrGet s (tallyAddr t 96)))
    let fab := (csrGet s (fabState 0), fabBar s 0)
    let s := queueInit (syncInit (loadCode s q) q) slot q
    let s := setFabBar (csrPut s (fabState 0) fab.1) 0 fab.2
    views.foldl (fun s v => csrPut (csrPut s (tallyAddr v.1 64) v.2.1) (tallyAddr v.1 96) v.2.2) s
  | none => s

/-- The survivor runs the twin's share of a phase on the same clusters: after its own share (`share` 2), or where it has already arrived for
the phase itself (4). -/
def shareBegin (s : State) (slot share : Nat) : State :=
  let s := swapPlan s slot share
  match activeRun s slot with
  | some (p, r) =>
    let e := p.phases.getD r.pc 0
    let r := { r with released := false, drained := false, preloads := phasePreloads p e }
    phaseStart (setRun s slot { r with cacheMask := getF e 16 16 / 2 * 2, invalMask := getF e 32 16 / 2 * 2 }) slot
  | none => s

/-- Step 5 to 8 of Table 2-3. -/
def phaseEnd (s : State) (slot : Nat) (p : Plan) (r : Run) : State :=
  match balanceCheck s p with
  | (some src, s) => planStop s slot src 0x23 0
  | (none, s) =>
    let s := tallyReset s p
    let s := (planClusters p).foldl (fun s c => if r.invalMask = 0 then s else panInvalNow s c r.invalMask) s
    let s := checkpoint s slot p r
    if r.share = 1 then shareBegin s slot 2
    else if r.share = 2 ∨ r.share = 4 then
      let sh := r.share
      let s := swapPlan s slot 1
      match activeRun s slot with
      | some (p, r) => phaseArrive s slot p { r with share := sh }
      | none => s
    else phaseArrive s slot p r

/-- The plan slot running on a fault source: a tile, a cluster, or the collective unit of a FABRIC plan. -/
def slotOfSource (s : State) (src : Nat) : Option Nat :=
  if src / 0x1000 = 0 then slotOfCluster s (src % 0x100 / 16)
  else if src / 0x1000 = 1 then slotOfCluster s (src / 16 % 16)
  else if src / 0x100 = 0x32 then (activeSlots s).find? (fun i => ((planOf s i).map (·.fabric)).getD false)
  else none

/-- A CONTAIN of the slot's plan has been raised and not yet reached the ledger (R313: the plan is stopped before its next barrier). -/
def faultWaiting (s : State) (slot : Nat) : Bool :=
  (s.ledger.queue ++ s.ledger.held).any (fun m => m.level == 1 && slotOfSource s m.source.toNat == some slot)

/-- The phase has drained. Writes in the merging buffers go to memory first; while mirrors of them are out, the phase waits (R311).
(DESIGN CHOICE; log entry 27.) -/
def execPhaseDrained (slot : BitVec 3) (s : State) : Res :=
  let slot := slot.toNat
  match activeRun s slot with
  | none => absent "no run is active in the slot"
  | some (p, r) =>
    if !r.inPhase ∨ !r.released ∨ r.drained ∨ faultWaiting s slot ∨ !phaseIdle s slot p r then absent "the phase has not drained"
    else
      let s := (planClusters p).foldl (fun s c => flushWhere s c (fun _ => true)) s
      let ts := maskTiles p.clusterMask
      if s.reqs.any (fun q => match q.cont with
          | .mirror owners _ => owners.any (fun a => ts.contains (a / 32))
          | _ => false) then .next s
      else .next (phaseEnd s slot p r)

/-- The phase barrier opens: the run stops, or goes on to the next entry (R43, R64). -/
def execPhaseBarrierOpen (slot : BitVec 3) (s : State) : Res :=
  let slot := slot.toNat
  match activeRun s slot with
  | none => absent "no run is active in the slot"
  | some (p, r) =>
    let isOpen := !p.fabric || (decide (r.barGen ≤ csrF s (fabState 0) 42 22) && !(s.groupWait.any (fun g => g.1 == 0)))
    if !r.inPhase ∨ !r.drained ∨ !isOpen then absent "the phase barrier has not opened"
    else
      let s := freedPast (cleanSlot s slot) slot
      let s := if p.fabric then moveBegin s else s
      let r := { advancePc s p r (r.pc + 1) with inPhase := false, drained := false, released := false, share := min r.share 1 }
      let s := setRun s slot r
      .next (if r.stopReq then runFinish s slot 4 else s)

end Sys2Proof.Machine
end

