-- ==== Sys2Proof/Machine/Params.lean ====
section
/-! DEFINITION. The policy parameters of Table 13-13: where each is held, its range, reading it and setting it (R373, R374). -/

namespace Sys2Proof.Machine

/-- Where a parameter lies. -/
inductive ParamHome where
  /-- a field of the registers at these addresses -/
  | reg (addrs : List Nat) (lo w : Nat)
  | steward
  /-- of one plan -/
  | plan
  deriving DecidableEq, Repr

/-- One row of Table 13-13. -/
structure Param where
  num : Nat
  allow : Allow
  home : ParamHome
  deriving DecidableEq, Repr

def everyCluster (o : Nat) : List Nat := (List.range 16).map (fun c => clusterCsr c o)
def everyDie (o : Nat) : List Nat := (List.range 4).map (fun p => memCsr p o)

/-- Table 13-13. -/
def paramTable : List Param :=
  [⟨0x00, .range 0 1, .reg (everyCluster 0) 0 1⟩, ⟨0x01, .range 0 1, .reg (everyCluster 0) 1 1⟩,
   ⟨0x02, .range 1 1000, .reg (everyCluster 0) 3 20⟩, ⟨0x03, .range 0 1, .steward⟩, ⟨0x04, .range 1 500, .steward⟩,
   ⟨0x05, .range 0 65536, .steward⟩, ⟨0x06, .range 1 64, .steward⟩, ⟨0x07, .range 0 1, .steward⟩, ⟨0x08, .range 1 64, .steward⟩,
   ⟨0x09, .range 1 1000, .steward⟩, ⟨0x10, .range 1 60000, .steward⟩, ⟨0x11, .range 1 10000, .steward⟩] ++
  [⟨0x12, .range 1 10000, .reg [fabCsr 0] 13 14⟩, ⟨0x13, .range 0 1, .reg [fabCsr 0] 1 1⟩, ⟨0x14, .range 0 1, .reg [fabCsr 0] 2 1⟩,
   ⟨0x15, .range 0 1023, .reg [fabCsr 0] 3 10⟩, ⟨0x18, .range 0 10000, .reg [govCsr 0x08] 11 14⟩,
   ⟨0x19, .range 0 1600, .reg [govCsr 0x10] 0 11⟩, ⟨0x1A, .range 0 5000, .reg [govCsr 0x10] 11 13⟩,
   ⟨0x1B, .stepped 600 850 10, .reg [govCsr 0] 3 10⟩, ⟨0x1C, .stepped 600 850 10, .reg [govCsr 0] 13 10⟩,
   ⟨0x1D, .range 0 1, .reg [govCsr 0] 2 1⟩, ⟨0x1E, .range 85 100, .reg [govCsr 0] 23 7⟩] ++
  [⟨0x20, .range 2 1024, .reg [ldgCsr 0x08] 0 11⟩, ⟨0x21, .range 10 60000, .reg [ldgCsr 0x08] 11 16⟩,
   ⟨0x22, .range 1 10000, .reg [ldgCsr 0x08] 27 14⟩, ⟨0x23, .range 100 100000, .reg [ldgCsr 0x08] 41 17⟩,
   ⟨0x24, .range 0 10000, .reg [ldgCsr 0x10] 0 14⟩, ⟨0x28, .range 0 1, .reg (everyCluster 0x4000) 0 1⟩,
   ⟨0x29, .range 0 1, .reg (everyCluster 0x4000) 1 1⟩, ⟨0x2C, .range 0 1, .reg (everyDie 0) 1 1⟩,
   ⟨0x2D, .range 1 168, .reg (everyDie 0) 2 8⟩, ⟨0x2E, .range 1 1024, .reg (everyDie 0x18) 0 11⟩,
   ⟨0x2F, .range 1 15, .reg (everyDie 0x18) 16 4⟩, ⟨0x30, .range 0 1, .reg [twnCsr 0] 1 1⟩,
   ⟨0x31, .range 10 1000, .reg [twnCsr 0x08] 0 16⟩, ⟨0x32, .range 200 10000, .reg [twnCsr 0x08] 16 16⟩,
   ⟨0x38, .range 0 1, .plan⟩, ⟨0x39, .any, .plan⟩]

def paramOf (n : Nat) : Option Param := paramTable.find? (fun p => p.num == n)

/-- A MEM_SPLIT value: three shares of at least one unit that total 20 (Table 13-13). -/
def splitLegal (v : Nat) : Bool :=
  let a := v % 32
  let b := v / 32 % 32
  let c := v / 1024 % 32
  decide (v < 2 ^ 15 ∧ 1 ≤ a ∧ 1 ≤ b ∧ 1 ≤ c ∧ a + b + c = 20)

/-- The value in force of a module-scope parameter. -/
def paramVal (s : State) (n : Nat) : Nat :=
  match paramOf n with
  | some ⟨_, _, .reg (a :: _) lo w⟩ => csrF s a lo w
  | _ => polVal s n

/-- A value lies in a parameter's range, the other bound as it is in force (R374). -/
def paramLegal (s : State) (n v : Nat) : Bool :=
  match paramOf n with
  | none => false
  | some p =>
    allowed p.allow v &&
    (match n with
      | 0x1B => decide (v ≤ paramVal s 0x1C)
      | 0x1C => decide (paramVal s 0x1B ≤ v)
      | 0x31 => decide (4 * v ≤ paramVal s 0x32)
      | 0x32 => decide (4 * paramVal s 0x31 ≤ v)
      | 0x39 => splitLegal v
      | _ => true)

/-- The group of a parameter is frozen: bit 0 dispatch, bit 1 migration, bit 2 hub spreading (R372, Table 13-6). -/
def paramFrozen (freeze n : Nat) : Bool :=
  if n < 3 then freeze.testBit 0 else if n < 7 then freeze.testBit 1 else n < 10 && freeze.testBit 2

/-- A module-scope parameter takes its value: in its registers, PAN_EN without an invalidation (R356), or at the steward. -/
def putParam (s : State) (n v : Nat) : State :=
  match paramOf n with
  | some ⟨_, _, .reg as lo w⟩ =>
    let olds := as.map (fun a => csrF s a lo w == 1)
    let s := as.foldl (fun s a => csrSetF s a lo w v) s
    if n = 0x28 then olds.zipIdx.foldl (fun s e => panCtrlEff s e.2 e.1) s else s
  | some ⟨_, _, .steward⟩ => { s with policy := assocPut s.policy n v }
  | _ => s

/-- Set a module-scope parameter. One in a register takes effect at once; one the steward holds at the next tick, or at once where `now` is set (a
plan's POLICY section, a settings store). One of a frozen group waits until the group is thawed (R372). -/
def setParam (s : State) (n v : Nat) (now : Bool) : State :=
  let later : State := { s with policyNext := assocPut s.policyNext n v }
  if paramFrozen s.freeze n then later
  else match paramOf n with
    | some ⟨_, _, .steward⟩ => if now then putParam { s with policyNext := s.policyNext.filter (fun e => e.1 != n) } n v else later
    | some ⟨_, _, .plan⟩ => s
    | some _ => putParam s n v
    | none => s

/-- Freeze and thaw groups (R372, R374): the governor's at once, the others at the next tick. -/
def setFreeze (s : State) (freeze thaw : Nat) : State :=
  let s := if freeze.testBit 3 then csrSetF s (govCsr 0) 1 1 1 else if thaw.testBit 3 then csrSetF s (govCsr 0) 1 1 0 else s
  { s with freezeNext := (s.freezeNext ||| freeze % 8) ^^^ ((s.freezeNext ||| freeze % 8) &&& (thaw % 8)) }

end Sys2Proof.Machine
end

