-- ==== Sys2Proof/Machine/Policy.lean ====
section
/-! DEFINITION. The steward's policies: the tick, replicas and moved rows, and claims from hub segment pools at other modules (R370–R375,
R390–R392). -/

namespace Sys2Proof.Machine

/-! ### Where a row lives -/

/-- The LIVE version of a table: its descriptor's locator and its plan. -/
def liveTable (s : State) (id : Nat) : Option VerInfo :=
  s.verInfo.findSome? (fun e => if verLive s e.1 id then e.2 else none)

/-- The descriptor of a table and the home, address there and length of a row. -/
def rowHome (s : State) (id row : Nat) : Option (Desc × Nat × Nat × Nat) :=
  match liveTable s id with
  | none => none
  | some v =>
    let e : Env := ⟨0, [], fgrCz⟩
    let m : Dec (Desc × Nat × Nat × Nat) := do
      let d ← ddesc e v.loc 1
      let h ← dlocate e d row 4
      pure (d, h.1, h.2.1, tdRowLen d h.2.2)
    match drun m s with
    | (.ok r, _) => some r
    | (.error _, _) => none

/-- The pool of a role (bit 65 REPLICA_POOL, 66 MOVE_POOL) in the plan of a table: base and size. -/
def poolOf (s : State) (id role : Nat) : Option (Nat × Nat) :=
  match (liveTable s id).bind (fun v => planOf s v.plan) with
  | none => none
  | some p => (p.attrs.zipIdx.find? (fun a => getB a.1 role)).map (fun a =>
      let i := p.regions.getD a.2 0
      (rgnBase s i, rgnSize s i))

/-- Pools are given out in places of 16 KiB, the longest row: the first that no entry, copy or returned space holds. (DESIGN CHOICE; log entry 28.) -/
def poolPlace (s : State) (pool : Nat × Nat) : Option Nat :=
  let used (a : Nat) : Bool := s.redirect.any (fun e => e.2.dev == ownId s && e.2.addr == a) ||
    s.copies.any (fun c => c.dstDev == ownId s && c.dst == a) || s.freed.any (fun f => f.1 == a && f.2 != [])
  ((List.range (pool.2 / 16384)).map (fun k => pool.1 + 16384 * k)).find? (fun a => !used a)

/-! ### Replicas (R390) -/

/-- The REPLICA entry with the fewest look-ups in the last tick among those that meet `p`. (DESIGN CHOICE; log entry 28.) -/
def coldest (p : (Nat × Nat) → Bool) : List ((Nat × Nat) × Redir) → Option ((Nat × Nat) × Redir)
  | [] => none
  | e :: es =>
    match coldest p es with
    | some m => if e.2.kind = 1 ∧ p e.1 = true ∧ e.2.last ≤ m.2.last then some e else some m
    | none => if e.2.kind = 1 ∧ p e.1 = true then some e else none

/-- Remove a REPLICA entry; its space waits for the next phase barrier, and its home hears of it. -/
def evictReplica (s : State) (e : (Nat × Nat) × Redir) : State :=
  let s := rdrRemove s e.1.1 e.1.2
  match rowHome s e.1.1 e.1.2 with
  | some (_, dev, _, _) => sendMgmt s dev (mgmtData 0x23 e.1.1 e.1.2 0) .mgmt
  | none => s

/-- The coldest REPLICA entry of a key's set goes. -/
def evictSet (s : State) (id row : Nat) : State :=
  match coldest (fun k => rdrSet k.1 k.2 == rdrSet id row) s.redirect with
  | some e => evictReplica s e
  | none => s

/-- The home granted a replica: it takes a place in the pool, and the row is read. Frozen migration starts no copy (R372). (DESIGN CHOICE; log
entry 28.) -/
def copyStart (s : State) (id row : Nat) : State :=
  match s.copies.find? (fun c => c.table == id && c.row == row && c.kind == 1 && c.stage == 0) with
  | none => s
  | some c =>
    match poolOf s id 65 with
    | none => copyDrop s c
    | some pool =>
      if s.freeze.testBit 1 then copyDrop s c
      else
        let s := if (poolPlace s pool).isNone then (match coldest (fun _ => true) s.redirect with
            | some e => evictReplica s e
            | none => s) else s
        match poolPlace s pool with
        | none => copyDrop s c
        | some a => let c := { c with dst := a, dstDev := ownId s, stage := 1 }; pullPieces 32 (setCopy s c) c 0

/-- A piece of a row has come; with the last one the copy is written to its place. A replica of a poisoned row is given up, a row that moves keeps its
poison. (DESIGN CHOICE; log entry 28.) -/
def copyData (s : State) (id row off : Nat) (bs : List Byte) (psn : Bool) : State :=
  match s.copies.find? (fun c => c.table == id && c.row == row && c.stage == 1) with
  | none => s
  | some c =>
    if psn ∧ c.kind = 1 then copyDrop s c
    else
      let parts := c.parts ++ [(off, bs, psn)]
      let got := parts.foldl (fun n p => n + p.2.1.length) 0
      if got < c.len then setCopy s { c with parts := parts }
      else
        let inOrder := (List.range (c.len / 2048 + 1)).filterMap (fun k => parts.find? (fun p => p.1 == 2048 * k))
        copyPut s c (inOrder.flatMap (fun p => p.2.1)) (inOrder.flatMap (fun p => List.replicate p.2.1.length p.2.2))

/-- A copy whose requests failed is given up. (DESIGN CHOICE; log entry 28.) -/
def copyFail (s : State) (id row : Nat) : State :=
  match s.copies.find? (fun c => c.table == id && c.row == row) with
  | some c => copyDrop s c
  | none => s

/-- A copied row is published and recorded. -/
def published (s : State) (c : Copy) : State :=
  csrAdd (traceSteward s 0x09 (c.table + c.row * 2 ^ 24) c.dstDev) (tblCnt 4) 1

/-- REPLICA_INSERT: the entry of the first performed replica; where its set is full the coldest replica of the set goes, unless migration is frozen
(R372). -/
def execReplicaInsert (s : State) : Res :=
  match s.copies.find? (fun c => c.kind == 1 && c.stage == 2) with
  | none => absent "no replica copy is performed"
  | some c =>
    let r : Redir := { kind := 1, dev := c.dstDev, addr := c.dst, hits := 0, last := 0 }
    match rdrInsert s c.table c.row r with
    | some s => .next (published (dropCopy s c.table c.row) c)
    | none =>
      if s.freeze.testBit 1 then .next (copyDrop s c)
      else match rdrInsert (evictSet s c.table c.row) c.table c.row r with
        | some s => .next (published (dropCopy s c.table c.row) c)
        | none => .next (copyDrop s c)

/-! ### Moved rows (R392) -/

/-- A row lies at a new place from here on: its MOVED entry, or none where it is back at home. A full set gives up its coldest replica. (DESIGN CHOICE;
log entry 28.) -/
def movedTo (s : State) (id row dev addr : Nat) : State :=
  match rowHome s id row with
  | some (_, hd, ha, _) =>
    if hd = dev ∧ ha = addr then rdrRemove s id row
    else
      let r : Redir := { kind := 2, dev := dev, addr := addr, hits := 0, last := 0 }
      match rdrInsert s id row r with
      | some s => s
      | none => let s := evictSet s id row; (rdrInsert s id row r).getD s
  | none => (rdrInsert s id row { kind := 2, dev := dev, addr := addr, hits := 0, last := 0 }).getD s

/-- The home is asked to move a row to place `dst` of device `src`: it grants at most MIGRATE_BUDGET moves for one interval, each to a set of its table
that can take the entry, and copies from where the row lies. (DESIGN CHOICE; log entry 28.) -/
def grantMove (s : State) (src id row dst : Nat) : State :=
  let no := if src = ownId s then s else sendMgmt s src (mgmtData 0x31 id row 0) .mgmt
  match rowHome s id row with
  | none => no
  | some (_, dev, a, len) =>
    let ent := rdrGet s id row
    let place := match ent with
      | some r => (r.dev, r.addr)
      | none => (dev, a)
    let room := decide ((s.redirect.countP (fun e => e.2.kind != 1 && e.1 != (id, row) && rdrSet e.1.1 e.1.2 == rdrSet id row)) < 4)
    if dev = ownId s ∧ !s.freeze.testBit 1 ∧ ((ent.map (fun r => r.kind)).getD 2 = 2) ∧ place.1 ≠ src ∧ room ∧
        !s.copies.any (fun c => c.table == id && c.row == row) ∧ s.copies.countP (fun c => c.byHome) < polVal s 0x05 then
      { s with copies := s.copies ++ [{ table := id, row := row, kind := 2, srcDev := place.1, src := place.2, dstDev := src,
                                        dst := if src = ownId s then a else dst, len := len, parts := [], stage := 0, byHome := true }] }
    else no

/-! ### The tick (R370, R371) -/

/-- Look-up counts of the tick over all clusters, and their total. -/
def shardCounts (s : State) : List ((Nat × Nat) × Nat) := (List.range 16).flatMap (fun c => (dispOf s c).shards)
def lookups (s : State) : Nat :=
  (shardCounts s).foldl (fun n e => n + e.2) 0 + (List.range 16).foldl (fun n c => n + (dispOf s c).shardOver) 0

/-- A shard above HOT_SHARE of the module's look-ups. -/
def hotShard (s : State) (key : Nat × Nat) : Bool :=
  let n := ((shardCounts s).filter (fun e => e.1 == key)).foldl (fun n e => n + e.2) 0
  decide (polVal s 0x04 * lookups s < 1000 * n)

/-- A candidate row: its home is asked for a copy, or for a move where the table is writable. A row that has moved is asked for again where it lies at
another module. -/
def askCopy (s : State) (k : Nat × Nat) : State :=
  let (id, row) := k
  let ent := rdrGet s id row
  if s.copies.any (fun c => c.table == id && c.row == row) then s
  else match rowHome s id row with
    | none => s
    | some (d, dev, addr, len) =>
      let c : Copy := { table := id, row := row, kind := 1, srcDev := dev, src := addr, dstDev := ownId s, dst := 0, len := len,
                        parts := [], stage := 0 }
      let here := match ent with
        | some r => r.kind != 2 || r.dev == ownId s
        | none => dev == ownId s
      if here then s
      else if !tdWritable d then
        if ent.isSome then s else sendMgmt { s with copies := s.copies ++ [c] } dev (mgmtData 0x20 id row 0) .mgmt
      else if dev = ownId s then grantMove s dev id row addr
      else match (poolOf s id 66).bind (poolPlace s) with
        | some a => sendMgmt { s with copies := s.copies ++ [{ c with kind := 2, dst := a }] } dev (mgmtData 0x30 id row a) .mgmt
        | none => s

/-- What the tick does: freezes and parameters take effect (a frozen group keeps its own), the presence filters are rebuilt (R389), the counts of the
tick are read and cleared, and migration chooses. (DESIGN CHOICE; log entry 10.) -/
def policyTick (s : State) : State :=
  let held (e : Nat × Nat) : Bool := paramFrozen s.freeze e.1 && paramFrozen s.freezeNext e.1
  let due := s.policyNext.filter (fun e => !held e)
  let s := due.foldl (fun s e => putParam s e.1 e.2)
    { s with policyNext := s.policyNext.filter held, freeze := s.freezeNext, rdrStale := [] }
  let hot := ((List.range 16).flatMap (fun c => (dispOf s c).rows)).eraseDups.filter (fun k => hotShard s (k.1, k.2 / 65536))
  let go := polVal s 0x03 == 1 && !s.freeze.testBit 1
  let s := (List.range 16).foldl (fun s c => setDisp s c { dispOf s c with shards := [], shardOver := 0, rows := [] }) s
  let s := { s with redirect := s.redirect.map (fun e => (e.1, { e.2 with last := e.2.hits, hits := 0 })) }
  if go then (hot.take (polVal s 0x05)).foldl askCopy s else s

/-- Every 1 ms on the device time base. -/
def execPolicyTick (time : Nat) (s : State) : Res :=
  if s.boot ≠ 0 ∨ s.rest ≠ 0 ∨ time < s.now ∨ time % 1000000 ≠ 0 then absent "no policy tick is due"
  else .next (policyTick (atTime s time))

/-! ### Messages between stewards -/

/-- Every MOVED entry is acknowledged: MOVES_DONE goes out and the own move interval ends. -/
def movedAcked (s : State) : State :=
  if s.moveFrom.contains (ownId s) && !s.copies.any (fun c => c.byHome) && !s.reqs.any (fun r => r.cont == .moved) then
    mgmtAll { s with moveFrom := s.moveFrom.erase (ownId s) } (mgmtData 0x15 0 0 0) .mgmt
  else s

/-- A copied row's writes at the target are answered. -/
def copyWritten (s : State) (id row : Nat) : State :=
  if s.reqs.any (fun r => r.cont == .copyWrite id row) then s
  else match s.copies.find? (fun c => c.table == id && c.row == row && c.byHome) with
    | some c => setCopy s { c with stage := 2 }
    | none => s

/-- MOVE_COPY_DONE: the copies are performed; every module is told the new places. -/
def execMoveCopyDone (s : State) : Res :=
  let mine := s.copies.filter (fun c => c.byHome)
  if !s.moveFrom.contains (ownId s) ∨ s.reqs.any (fun r => r.cont == .moved) ∨ mine.any (fun c => c.stage != 2) then
    absent "no copies of moved rows are being made, or they are not performed"
  else
    let s := mine.foldl (fun s c =>
      let s := movedTo s c.table c.row c.dstDev c.dst
      mgmtAll (published (dropCopy s c.table c.row) c) (mgmtData 0x13 c.table c.row (c.dst + c.dstDev * 2 ^ 45)) .moved) s
    .next (movedAcked s)

/-- The steward reads a message from device `src`. Messages of types it does not know have no effect. -/
def mgmtTake (s : State) (src : Nat) (data : List Byte) : State :=
  let n (lo len : Nat) : Nat := ofLE ((data.drop lo).take len)
  let id := n 1 3
  let row := n 4 5
  let extra := n 9 7
  match n 0 1 with
  | 0x20 =>
    if s.grants.countP (fun g => g.1 == id && g.2.1 == row) < polVal s 0x06 then
      sendMgmt { s with grants := s.grants ++ [(id, row, src)] } src (mgmtData 0x21 id row 0) .mgmt
    else sendMgmt s src (mgmtData 0x22 id row 0) .mgmt
  | 0x21 => copyStart s id row
  | 0x22 => dropCopy s id row
  | 0x23 => { s with grants := s.grants.erase (id, row, src) }
  | 0x30 => grantMove s src id row (extra % 2 ^ 45)
  | 0x31 => dropCopy s id row
  | 0x13 => movedTo (dropCopy s id row) id row (extra / 2 ^ 45 % 2048) (extra % 2 ^ 45)
  | _ => s

/-- The oldest message of a type from a home. -/
def mgmtFrom (s : State) (home ty : Nat) : Option (Nat × List Byte) :=
  s.mgmtIn.find? (fun m => m.1 == home && (m.2.getD 0 0).toNat == ty)

/-- A move notice makes the module hold its next phase release (R392). -/
def execMoveNotice (home : BitVec 11) (s : State) : Res :=
  match mgmtFrom s home.toNat 0x12 with
  | some m =>
    let s := { s with mgmtIn := s.mgmtIn.erase m }
    .next { s with moveFrom := if s.moveFrom.contains home.toNat then s.moveFrom else s.moveFrom ++ [home.toNat] }
  | none => absent "no move notice from that home has arrived"

def execMovesDone (home : BitVec 11) (s : State) : Res :=
  match mgmtFrom s home.toNat 0x15 with
  | some m => .next { s with mgmtIn := s.mgmtIn.erase m, moveFrom := s.moveFrom.erase home.toNat }
  | none => absent "no MOVES_DONE from that home has arrived"

/-! ### Claims (R375) -/

/-- A module has had an idle tile for HUB_IDLE. -/
def hubIdle (s : State) (time : Nat) : Bool :=
  match s.idleSince with
  | some t => decide (t + 1000 * polVal s 0x09 ≤ time)
  | none => false

def execHubClaim (slot : BitVec 3) (pool : Nat) (time : Nat) (s : State) : Res :=
  let slot := slot.toNat
  match activeRun s slot with
  | none => absent "no run is active in the slot"
  | some (p, r) =>
    let home := poolHome s p pool
    let spread := polVal s 0x07 == 1 && !s.freeze.testBit 2
    let busy := s.reqs.any (fun q => match q.cont with
      | .hubClaim i k .. => i == slot && k == pool
      | _ => false)
    if !r.released ∨ r.drained ∨ !r.pools.contains (pool, false) ∨ busy ∨ time < s.now ∨ !hubIdle s time ∨ !(home || spread) then
      absent "the steward claims nothing from the pool now"
    else
      let s := atTime s time
      if home then .next (hubClaimLocal s slot pool)
      else
        let l := p.pools.getD pool 0
        let n := polVal s 0x08
        .next (match (if peerUsable s (locDev l) then sendReq s kATOMIC (locDev l) (locLocal l) 8 (atomData 0 true false true 0 n 0) false true
              (.hubClaim slot pool n 0 none 0) else none) with
          | some s => s
          | none => hubTake s slot pool 0 0 0 false [])

/-- Ask for the header of a claimed pool, or for the next claimed record. -/
def hubRead (s : State) (slot pool n v : Nat) (hdr : Option (Nat × Nat)) (i : Nat) : State :=
  match runOf s slot with
  | none => s
  | some (p, _) =>
    let l := p.pools.getD pool 0
    let a := match hdr with
      | none => locLocal l
      | some _ => locLocal l + 64 + 64 * i
    (sendReq s kREAD (locDev l) a 64 [] false true (.hubClaim slot pool n v hdr i)).getD s

/-- An answer to a claim: the old value, then the pool's header, then the records one by one. -/
def claimAnswered (s : State) (slot pool n v : Nat) (hdr : Option (Nat × Nat)) (i : Nat) (atom : Bool) (bs : List Byte) : State :=
  if atom then hubRead s slot pool n (ofLE bs) none 0
  else match hdr with
    | none =>
      let count := ofLE ((bs.drop 8).take 4)
      let queue := ofLE ((bs.drop 12).take 2) % 4096
      let s := hubTake s slot pool v count queue true []
      if v < count then hubRead s slot pool n v (some (count, queue)) v else s
    | some (count, queue) =>
      let s := hubTake s slot pool v count queue false [bs]
      if i + 1 < min count (v + n) then hubRead s slot pool n v hdr (i + 1) else s

/-- A claim that failed takes its pool as empty. (DESIGN CHOICE; log entry 28.) -/
def claimFailed (s : State) (slot pool : Nat) : State := hubTake s slot pool 0 0 0 false []

end Sys2Proof.Machine
end

