-- ==== Sys2Proof/Machine/Regions.lean ====
section
/-! DEFINITION. Placing and freeing regions, unloading plans, and channel map-out (R109, R110, R397, R413). -/

namespace Sys2Proof.Machine

/-! ### Placement (R109)

The manual leaves the place of a region open (R38). DESIGN CHOICE: the lowest free index, and the lowest address and channel offset at which
the region fits; log entry 30. -/

/-- Channels a region of a mode and target uses. -/
def usedChans (s : State) (mode target : Nat) : List Nat :=
  if mode < 2 then liveChans s else if mode = 2 then (List.range 4).map (fun k => 4 * target + k) else [target]
/-- Units of each of them. -/
def shareUnits (s : State) (mode size : Nat) : Nat :=
  if mode < 2 then size / (liveChans s).length else if mode = 2 then size / 4 else size

/-- SIZE and TARGET are as R109 and Table 4-3 ask; `any` allows 511 (R62). -/
def sizeLegal (s : State) (mode size : Nat) : Bool :=
  size != 0 && (if mode < 2 then size % (liveChans s).length == 0 else if mode = 2 then size % 4 == 0 else true)
def targetLegal (mode target : Nat) (any : Bool) : Bool :=
  if mode < 2 then target == 0 else if mode = 2 then decide (target < 96) || (any && target == 511)
  else decide (target < 384) || (any && target == 511)

/-- The entries that hold space: valid regions, and shadows that are not installed (R456). -/
def placed (s : State) : List (Word × Word) :=
  (validRegions s).map (fun i => (csrGet s (rgnAddr i), csrGet s (rgnAttr i))) ++
    (s.twin.shadows.filter (fun x => x.inst.isNone)).map (fun x => (x.addr, x.attr))

/-- Channel offset for a region on these channels. -/
def chanFit (s : State) (chans : List Nat) (share : Nat) : Option Nat :=
  if chans.any (fun c => csrF s (chanAddr c 0) 0 2 == 2) then none
  else
    let occ := (placed s).filterMap (fun e =>
      if (usedChans s (getF e.2 28 2) (getF e.2 30 9)).any chans.contains then
        some (getF e.1 45 19, getF e.1 45 19 + shareUnits s (getF e.2 28 2) (getF e.2 0 27))
      else none)
    firstFit occ share chanUnits

/-- The target and channel offset a request gets. -/
def targetFit (s : State) (mode target size : Nat) : Option (Nat × Nat) :=
  let tries := if target = 511 then List.range (if mode = 2 then 96 else 384) else [target]
  tries.findSome? (fun t => (chanFit s (usedChans s mode t) (shareUnits s mode size)).map (fun o => (t, o)))

/-- Where a region with these attributes goes: its two words, VALID set. (DESIGN CHOICE; log entry 30.) -/
def findPlace (s : State) (attr : Word) : Option (Word × Word) :=
  let mode := getF attr 28 2
  let size := getF attr 0 27
  let occ := (placed s).map (fun e => (getF e.1 16 29, getF e.1 16 29 + getF e.2 0 27))
  match firstFit occ size (spaceUnits s), targetFit s mode (getF attr 30 9) size with
  | some b, some (t, o) => some (BitVec.ofNat 64 (b * 2 ^ 16 + o * 2 ^ 45), setF (setF attr 30 9 t) 27 1 1)
  | _, _ => none

/-- A region table entry of a MIRRORED region goes to the twin (Table 17-2). -/
def entryRecord (s : State) (i : Nat) : State :=
  if rgnMirrored s i then
    stewardMirror s (leBytes 2 3 ++ leBytes 2 i ++ leBytes 4 0 ++ leBytes 8 (csrGet s (rgnAddr i)).toNat ++ leBytes 8 (csrGet s (rgnAttr i)).toNat)
  else s

/-- Place a region with these attributes at an index: the entry is written with VALID set last; its contents are undefined.
(DESIGN CHOICE; log entry 30.) -/
def placeAt (s : State) (i : Nat) (attr : Word) : Option State :=
  (findPlace s attr).map (fun e =>
    let b := getF e.1 16 29 * 65536
    entryRecord (undefSpan (csrPut (csrPut s (rgnAddr i) e.1) (rgnAttr i) e.2) b (b + getF e.2 0 27 * 65536)) i)

/-- Place a region at the lowest free index. (DESIGN CHOICE; log entry 30.) -/
def placeRegion (s : State) (attr : Word) : Option (Nat × State) :=
  match (List.range 4096).find? (fun i => !rgnValid s i) with
  | some i => (placeAt s i attr).map (fun s => (i, s))
  | none => none

/-- VALID is cleared; the other fields stay (R107). Freeing a region frees its shadow (R456). (DESIGN CHOICE; log entry 30.) -/
def dropRegion (s : State) (i : Nat) : State :=
  let s := if rgnValid s i && rgnMirrored s i then stewardMirror s (leBytes 2 4 ++ leBytes 2 i ++ leBytes 4 0) else s
  csrSetF s (rgnAttr i) 27 1 0

/-! ### Unloading -/

/-- A version slot becomes RETIRING, and FREE at once when nothing is bound (Table 14-4). -/
def verRetire (s : State) (v : Nat) : State :=
  let id := csrF s (tblVer v) 2 24
  if csrF s (tblVer v) 26 32 = 0 then
    let s := csrPut s (tblVer v) 0
    let s := rdrDrop { s with verInfo := tabSet (fun _ => none) s.verInfo v none } (fun e => e.1.1 == id)
    evqPost s 0x04 0 0 id 0
  else csrSetF s (tblVer v) 0 2 2

/-- LIVE version slots of a plan slot. -/
def planVers (s : State) (slot : Nat) : List Nat :=
  s.verInfo.filterMap (fun e => match e.2 with
    | some v => if v.plan = slot ∧ csrF s (tblVer e.1) 0 2 = 1 then some e.1 else none
    | none => none)

/-- A plan leaves its slot: its table versions retire, its regions are freed, its record at the twin is withdrawn. -/
def unloadPlan (s : State) (slot : Nat) : State :=
  match planOf s slot with
  | none => s
  | some p =>
    let s := (planVers s slot).foldl verRetire s
    let s := p.regions.foldl dropRegion s
    let s := stewardMirror s (leBytes 1 10 ++ leBytes 1 slot ++ leBytes 6 0 ++ leBytes 8 p.id.toNat)
    setPlan s slot none

def unloadAll (s : State) : State := (List.range 8).foldl unloadPlan s

/-! ### Map-out (R412, R413) -/

/-- A channel is proposed for map-out with a cause. -/
def proposeChan (s : State) (ch cause : Nat) : State :=
  if csrF s (chanAddr ch 0) 0 2 = 2 then s else csrSetF (csrSetF s (chanAddr ch 0) 0 2 1) (chanAddr ch 0) 4 2 cause

def proposedChans (s : State) : List Nat := (List.range 384).filter (fun c => csrF s (chanAddr c 0) 0 2 == 1)

/-- Proposed map-outs are applied: the regions affected, ascending, and the state. -/
def applyMapOut (s : State) : List Nat × State :=
  let chans := proposedChans s
  if chans = [] then ([], s)
  else
    let s := unloadAll s
    let hit := (validRegions s).filter (fun i => decide (2 ≤ rgnMode s i) && (usedChans s (rgnMode s i) (rgnTarget s i)).any chans.contains)
    let s := hit.foldl dropRegion s
    let s := chans.foldl (fun s c => csrSetF s (chanAddr c 0) 0 2 2) s
    let spread := (validRegions s).filter (fun i => decide (rgnMode s i < 2))
    -- the places of all of them are given up first, and taken again one by one
    let attrs := spread.map (fun i => (i, csrGet s (rgnAttr i)))
    let s := spread.foldl dropRegion s
    let l := (liveChans s).length
    let s := attrs.foldl (fun s x => (placeAt s x.1 (setF x.2 0 27 (roundUp (getF x.2 0 27) l))).getD s) s
    let lost := (List.range 4096).filter (fun i => hit.contains i || spread.contains i)
    (lost, lost.foldl (fun s i => evqPost s 0x05 0 0 i 0) s)

end Sys2Proof.Machine
end

