-- ==== Sys2Proof/Machine/Slow.lean ====
section
/-! DEFINITION. SLOW notices: why the module is slow, and telling the shape so (R446, R499). -/

namespace Sys2Proof.Machine

/-- The lowest FAB_PEER.SLOW_CAUSE code that holds (Table 16-12), 0 for none: a memory stage, the cap, Tj, brownout. A limit counts as
holding the work back whenever it is below its maximum (DESIGN CHOICE, log entry 34); during a deferral the cap's does not. -/
def slowCause (s : State) : Nat :=
  let g := s.gov
  if slowChans s ≠ [] then 1
  else if g.cap ≠ Limit.max && g.deferSince.isNone then 2
  else if g.tjOn || g.emergency then 3
  else if g.brown.isSome then 4 else 0

/-- Send the notice to the shape. -/
def slowSend (s : State) (c : Nat) : State :=
  let s := noticeAll s 1 c (ownId s) 0
  { s with gov := { s.gov with slowAt := some s.now } }

/-- The first notice goes out when a cause arises; with no cause left the renewals end. -/
def slowUpdate (s : State) : State :=
  let c := slowCause s
  if c = 0 then { s with gov := { s.gov with slowAt := none } }
  else if s.gov.slowAt.isNone then slowSend s c else s

/-- Every 1 ms while a cause holds. -/
def execSlowRenew (time : Nat) (s : State) : Res :=
  match s.gov.slowAt with
  | none => absent "no cause for SLOW notices holds"
  | some t =>
    if time < s.now ∨ time < t + 1000000 ∨ slowCause s = 0 then absent "no SLOW notice is due"
    else
      let s := atTime s time
      .next (slowSend s (slowCause s))

end Sys2Proof.Machine
end

