-- ==== Sys2Proof/Machine/MemEvents.lean ====
section
/-! DEFINITION. The memory controllers' own events: patrol reads, retirement of pages, MR4 polls and thermal stages, and the traffic
generators (chapter 15). -/

namespace Sys2Proof.Machine

/-- The devices are in self-refresh: across a reset, in Rest, and from a power fail on (R417, R418). -/
def selfRefresh (s : State) : Bool := s.rest != 0 || s.resetting != 0 || s.gov.failAt.isSome

/-- The channels are in service: the module is booted and the devices are not in self-refresh. -/
def memUp (s : State) : Bool := s.boot == 0 && !selfRefresh s

/-! ### Where a channel's bytes lie in the local map -/

/-- Offset in region `i` of channel offset `off` of channel `ch`, when the region has it (R108 read backwards). -/
def rgnOffset (s : State) (live : List Nat) (i ch off : Nat) : Option Nat :=
  let l := live.length
  let c := csrF s (rgnAddr i) 45 19 * 65536
  let x := off - c
  let k := (live.takeWhile (fun y => y != ch)).length
  let o := match rgnMode s i with
    | 0 =>
      let r := x / 256
      let h := ((r ^^^ (r >>> 9) ^^^ (r >>> 18) ^^^ (r >>> 27)) % 512) % l
      (r * l + (k + l - h) % l) * 256 + x % 256
    | 1 => (x / 2048 * l + k) * 2048 + x % 2048
    | 2 => (x / 256 * 4 + ch % 4) * 256 + x % 256
    | _ => x
  if c ≤ off ∧ o < rgnSize s i ∧ (usedChans s (rgnMode s i) (rgnTarget s i)).contains ch then some o else none

/-- The local address of a channel offset that a region uses. -/
def addrOf (s : State) (ch off : Nat) : Option Nat :=
  let live := liveChans s
  (validRegions s).findSome? (fun i => (rgnOffset s live i ch off).map (fun o => rgnBase s i + o))

/-! ### The retirement table (R409, R410) -/

def rtAddr (p i : Nat) : Nat := memCsr p (0x80000 + 8 * i)

/-- Entries in use of a port die: index and word. -/
def rtEntries (s : State) (p : Nat) : List (Nat × Word) :=
  s.csr.filterMap (fun e =>
    if inArray e.1 (rtAddr p 0) 8 4096 ∧ getB e.2 45 = true then some ((e.1 - rtAddr p 0) / 8, e.2) else none)

/-- The entry of a channel's data page. -/
def rtOfPage (s : State) (ch page : Nat) : Option (Nat × Word) :=
  (rtEntries s (ch / 96)).find? (fun e => getF e.2 38 7 == ch % 96 && getF e.2 0 23 == page)

/-- The entry that uses a channel's spare. -/
def rtOfSpare (s : State) (ch spare : Nat) : Option (Nat × Word) :=
  (rtEntries s (ch / 96)).find? (fun e => getF e.2 38 7 == ch % 96 && getF e.2 23 15 == spare)

/-- A spare is marked bad. -/
def markBad (s : State) (ch spare : Nat) : State :=
  if s.badSpares.contains (ch, spare) then s else { s with badSpares := s.badSpares ++ [(ch, spare)] }

/-- One more spare counts toward RETIRED. -/
def countRetired (s : State) (ch : Nat) : State := csrSetF s (chanAddr ch 0) 6 11 (min 2047 (csrF s (chanAddr ch 0) 6 11 + 1))

/-- The lowest spare that is not in use and not bad. -/
def freeSpare (s : State) (ch : Nat) : Option Nat :=
  let used := ((rtEntries s (ch / 96)).filter (fun e => getF e.2 38 7 == ch % 96)).map (fun e => getF e.2 23 15)
  (List.range 2048).find? (fun x => !used.contains x && !s.badSpares.contains (ch, x))

/-- The channel's spares are exhausted for a page that has (`old`) or has not an entry. -/
def sparesOut (s : State) (ch : Nat) (old : Bool) : Bool :=
  decide (csrF s (memCsr (ch / 96) 0x18) 0 11 ≤ csrF s (chanAddr ch 0) 6 11) || (!old && decide (4096 ≤ (rtEntries s (ch / 96)).length))

/-- The page cannot be retired: the channel is proposed for map-out. -/
def sparesDegrade (s : State) (ch : Nat) : State := raise (proposeChan s ch 1) (0x2000 + ch) 0x14 DEGRADE

/-- Step 3 of Table 15-3: the page's sectors that cannot be corrected are stored poisoned. -/
def storePoison (s : State) (ch page : Nat) : State :=
  if s.ueSectors = [] then s
  else
    let hit := ((List.range 32).filterMap (fun k => addrOf s ch (2048 * page + 64 * k))).filter s.ueSectors.contains
    hit.foldl (fun s a => setPsn s a true) { s with ueSectors := s.ueSectors.filter (fun a => !hit.contains a) }

/-- Table 15-3 for one page. A page's bytes keep their local addresses, and its poison marks are those of its sectors, so the copy moves
no bytes in the model. (DESIGN CHOICE; log entry 29.) -/
def retirePage (s : State) (ch page : Nat) : State :=
  let p := ch / 96
  let old := rtOfPage s ch page
  let s := match old with
    | some e => markBad s ch (getF e.2 23 15)
    | none => s
  match (if sparesOut s ch old.isSome then none else freeSpare s ch) with
  | none => sparesDegrade s ch
  | some x =>
    let idx := match old with
      | some e => e.1
      | none => ((List.range 4096).find? (fun i => !getB (csrGet s (rtAddr p i)) 45)).getD 0
    let s := csrPut s (rtAddr p idx) (BitVec.ofNat 64 (page + x * 2 ^ 23 + ch % 96 * 2 ^ 38 + 2 ^ 45 + bit old.isSome * 2 ^ 46))
    let s := { s with ceTrack := tabSet (fun _ => []) s.ceTrack ch ((trackerOf s ch).filter (fun e => e.1 != page)) }
    raise (countRetired (storePoison s ch page) ch) (0x2000 + ch) 0x13 NOTE ((addrOf s ch (2048 * page)).map (globalOf s))

/-- DESIGN CHOICE; log entry 29. -/
def execPageRetirement (ch : BitVec 9) (s : State) : Res :=
  match s.retireQ.find? (fun e => e.1 == ch.toNat) with
  | some e => if memUp s then .next (retirePage { s with retireQ := s.retireQ.erase e } e.1 e.2) else absent "the channels are not in service"
  | none => absent "no retirement of the channel is due"

/-! ### Patrol (R406) -/

/-- Sectors that a pass of the patrol reads: those of every data page and spare of the channel. -/
def patrolSectors : Nat := 32 * (spareBase + spareCount)

/-- One more sector of the channel's present pass is read; with the last one the next pass begins. -/
def patrolled (s : State) (ch : Nat) : State :=
  let p := tabGet (fun _ => (0, 0)) s.patrol ch
  let q := if patrolSectors ≤ p.2 + 1 then (s.now, 0) else (p.1, p.2 + 1)
  { s with patrol := tabSet (fun _ => (0, 0)) s.patrol ch q }

/-- The patrol is behind its period: its present pass has taken longer than SCRUB_HOURS (R406). (DESIGN CHOICE; log entry 29.) -/
def scrubLag (s : State) (ch : Nat) : Bool :=
  let hours := csrF s (memCsr (ch / 96) 0) 2 8
  csrF s (memCsr (ch / 96) 0) 1 1 == 1 && decide ((tabGet (fun _ => (0, 0)) s.patrol ch).1 + hours * 3600000000000 < s.now)

/-- What a channel's check of a sector of a free spare found: the sector is named by its pool address (R397, R403, R404).
(DESIGN CHOICE; log entry 29.) -/
def spareEcc (s : State) (ch off : Nat) (e : Ecc) : State :=
  let a := spareAddr s ch (off / 2048 - spareBase) + off % 2048
  let (e, inj, s) := injected s (0x2000 + ch) a 64 e
  let ga := some (globalOf s a)
  match e with
  | .clean => s
  | .corrected => raise (csrAdd s (chanAddr ch 0x20) 1) (0x2000 + ch) 0x10 NOTE ga inj
  | .uncorrectable => putUE (raise (csrAdd s (chanAddr ch 0x28) 1) (0x2000 + ch) 0x11 NOTE ga inj) ch (some a)

/-- A patrol read of one sector of a data page or spare. A page in use is read where it lies; a free spare holds nothing of the module.
(DESIGN CHOICE; log entry 29.) -/
def execPatrolRead (ch : BitVec 9) (off : BitVec 34) (ecc : Ecc) (s : State) : Res :=
  let ch := ch.toNat
  let off := off.toNat
  let page := off / 2048
  if 384 ≤ ch ∨ off % 64 ≠ 0 ∨ spareBase + spareCount ≤ page ∨ !memUp s ∨ csrF s (memCsr (ch / 96) 0) 1 1 = 0 ∨ csrF s (chanAddr ch 0) 0 2 = 2 then
    absent "the channel patrols no such sector"
  else
    let o := if page < spareBase then some off
      else (rtOfSpare s ch (page - spareBase)).map (fun e => getF e.2 0 23 * 2048 + off % 2048)
    .next (match o with
      | some o => (chanEcc (patrolled s ch) ch o (addrOf s ch o) ecc).2
      | none => spareEcc (patrolled s ch) ch off ecc)

/-! ### Thermal stages (R414–R416) -/

def pkgStage (s : State) (k : Nat) : Nat := csrF s (chanAddr (4 * k) 0) 2 2

def setStage (s : State) (k st : Nat) : State :=
  (List.range 4).foldl (fun s i => csrSetF s (chanAddr (4 * k + i) 0) 2 2 st) s

/-- One package at a poll: the worst report of its channels. -/
def pollPackage (s : State) (k : Nat) : State :=
  let worst := (List.range 4).foldl (fun m i => max m (min 3 (Config.mr4Stage (csrF s (chanAddr (4 * k + i) 0) 17 5)))) 0
  let st := pkgStage s k
  let low := tabGet (fun _ => 0) s.lowPolls k
  let setLow (s : State) (n : Nat) : State := { s with lowPolls := tabSet (fun _ => 0) s.lowPolls k n }
  if st < worst then
    let s := setLow (setStage s k worst) 0
    raise s (0x2000 + 4 * k) 0x40 (if worst = 3 then DEGRADE else NOTE)
  else if worst < st then
    if 3 ≤ low + 1 then setLow (setStage s k (st - 1)) 0 else setLow s (low + 1)
  else setLow s 0

/-- The poll of every 4 ms; `reports` are the refresh-rate fields that changed. (DESIGN CHOICE; log entry 29.) -/
def execMr4Poll (reports : List (BitVec 9 × BitVec 5)) (time : Nat) (s : State) : Res :=
  if !memUp s ∨ time < s.now ∨ time % 4000000 ≠ 0 ∨ reports.any (fun r => decide (384 ≤ r.1.toNat)) then absent "no MR4 poll is due"
  else
    let s := atTime s time
    let s := reports.foldl (fun s r => csrSetF s (chanAddr r.1.toNat 0) 17 5 r.2.toNat) s
    .next (slowUpdate ((List.range 96).foldl pollPackage s))

/-! ### Traffic generators (R419) -/

/-- Regions that use a channel. -/
def chanRegions (s : State) (ch : Nat) : List Nat :=
  (validRegions s).filter (fun i => (usedChans s (rgnMode s i) (rgnTarget s i)).contains ch)

/-- The generator of a channel starts on its configuration. One that writes everywhere leaves what the channel held undefined; the model
takes the whole of every region on the channel for that. (DESIGN CHOICE; log entry 29.) -/
def tgStart (s : State) (ch : Nat) : State :=
  let cfg := csrGet s (chanAddr ch 0x40)
  let s := csrPut (csrPut s (chanAddr ch 0x48) 1) (chanAddr ch 0x50) 0
  if getF cfg 8 1 = 1 ∧ getF cfg 5 2 ≠ 1 then
    (chanRegions s ch).foldl (fun s i => undefSpan s (rgnBase s i) (rgnBase s i + rgnSize s i)) s
  else s

/-- A page or spare that a generator found failing. -/
def badPage (s : State) (ch page : Nat) : State :=
  if page < spareBase then retireTrigger s ch page
  else match rtOfSpare s ch (page - spareBase) with
    | some e => retireTrigger s ch (getF e.2 0 23)
    | none => if s.badSpares.contains (ch, page - spareBase) then s else countRetired (markBad s ch (page - spareBase)) ch

/-- DESIGN CHOICE; log entry 41. -/
def execMemTgDone (ch : BitVec 9) (errors : BitVec 32) (off : BitVec 34) (beat : BitVec 5) (badPages : List (BitVec 23)) (s : State) : Res :=
  let ch := ch.toNat
  if 384 ≤ ch ∨ csrF s (chanAddr ch 0x48) 0 1 = 0 then absent "the generator is not running"
  else
    let s := csrPut s (chanAddr ch 0x48) (BitVec.ofNat 64 (2 + errors.toNat * 2 ^ 32))
    let s := if errors = 0 then s
      else csrPut s (chanAddr ch 0x50) (BitVec.ofNat 64 (off.toNat + beat.toNat * 2 ^ 34 + 2 ^ 39))
    .next (if errors = 0 then s else badPages.foldl (fun s p => badPage s ch p.toNat) s)

/-- MEM_STATUS as it reads now (Table 15-5). -/
def memStatus (s : State) (p : Nat) : Word :=
  let chans := (List.range 96).map (fun k => 96 * p + k)
  let live := chans.countP (fun c => csrF s (chanAddr c 0) 0 2 != 2)
  let stage := chans.foldl (fun m c => max m (csrF s (chanAddr c 0) 2 2)) 0
  BitVec.ofNat 64 (live + (rtEntries s p).length * 2 ^ 7 + bit (s.retireQ.any (fun e => e.1 / 96 == p)) * 2 ^ 20 +
    bit (selfRefresh s) * 2 ^ 21 + stage * 2 ^ 22)

end Sys2Proof.Machine
end

