-- ==== Sys2Proof/Machine/Governor.lean ====
section
/-! DEFINITION. The governor: the control tick, the limiters, and the thermal and supply events that stop nothing (chapter 19). -/

namespace Sys2Proof.Machine

/-! ### Limits and outputs (R495, R496) -/

def setGov (s : State) (g : Gov) : State := { s with gov := g }

/-- VTARGET, or VMAX when BOOST_EN is set. -/
def govTarget (s : State) : Nat := if csrF s (govCsr 0) 2 1 = 1 then csrF s (govCsr 0) 13 10 else csrF s (govCsr 0) 3 10
def capW (s : State) : Nat := csrF s (govCsr 0x08) 0 11
def tjThrottle (s : State) : Int := (csrF s (govCsr 0) 23 7 : Nat)

/-- The ceiling of the memory coupling (R504). (DESIGN CHOICE; log entry 34.) -/
def memCeiling (s : State) : Option Nat :=
  let st := ((slowChans s).map (fun c => csrF s (chanAddr c 0) 2 2)).foldl max 0
  if st = 3 then some 650 else if st = 2 then some 700 else none

/-- The first class, in the order matrix, vector, comb, forager, porter, that is above its floor goes down by 8/64. -/
def lowerAdmit : List Nat → List Nat
  | [] => []
  | a :: as => if 8 < a then (max 8 (a - 8)) :: as else a :: lowerAdmit as

/-- A limit goes down one step: VCORE by 20 mV to 0.60 V, then admission (R497). -/
def limitDown (target : Nat) (l : Limit) : Limit :=
  if 600 < min l.vcore target then { l with vcore := max 600 (min l.vcore target - 20) } else { l with vcore := 600, admits := lowerAdmit l.admits }

/-- A limit goes up one step, in reverse order. -/
def limitUp (target : Nat) (l : Limit) : Limit :=
  if l.admits.all (fun a => a == 64) then
    if l.vcore + 20 < target then { l with vcore := l.vcore + 20 } else { l with vcore := 850 }
  else
    let up := lowerAdmit (l.admits.reverse.map (fun a => 72 - a))
    { l with admits := (up.map (fun a => 72 - a)).reverse }

/-- Every limit of the cap loop is at its floor. -/
def atFloor (target : Nat) (l : Limit) : Bool := decide (min l.vcore target ≤ 600) && l.admits.all (fun a => decide (a ≤ 8))

def minAdmit (a b : List Nat) : List Nat := a.zipWith min b
def allAdmit (n : Nat) : List Nat := List.replicate 5 n

/-- A reading in whole degrees. -/
def degrees (x : Int) : Int := x.fdiv 100

/-- The hottest valid sensor, in hundredths of a degree. -/
def hottest (s : State) : Option Int :=
  s.gov.sensors.foldl (fun m e => match e.2 with
    | some x => if s.gov.excluded.contains e.1 then m else some (max (m.getD x.1) x.1)
    | none => m) none

/-- GOV_STATUS and GOV_ADMIT follow the limits, and SLOW notices the causes. (DESIGN CHOICE; log entry 6.) -/
def govPublish (s : State) : State :=
  let g := s.gov
  let target := govTarget s
  let mc := memCeiling s
  let v := [g.cap.vcore, g.tj.vcore, if g.emergency then 600 else 850, mc.getD 850, (g.brown.map (·.1)).getD 850].foldl min target
  let a := [g.tj.admits, if g.emergency then allAdmit 16 else allAdmit 64, if g.fast.isSome then allAdmit 16 else allAdmit 64,
    if g.brown.isSome then allAdmit 32 else allAdmit 64].foldl minAdmit g.cap.admits
  let st := [(0, 10, v), (21, 1, bit (decide (min g.cap.vcore target < target) || g.cap.admits.any (fun x => decide (x < 64)))),
    (22, 1, bit g.deferSince.isSome), (23, 1, bit g.fast.isSome), (24, 1, bit g.tjOn), (25, 1, bit g.emergency), (26, 1, bit mc.isSome),
    (27, 1, bit g.brown.isSome), (29, 8, (degrees ((hottest s).getD 0)).toNat)]
  let s := st.foldl (fun s f => csrSetF s (govCsr 0x18) f.1 f.2.1 f.2.2) s
  let s := csrPut s (govCsr 0x20) (BitVec.ofNat 64 (a.foldr (fun x y => x + 128 * y) 0))
  slowUpdate s

/-! ### The control tick (R494, R497–R499, R503) -/

/-- A collective is running (FAB_STATUS.COLL_BUSY). -/
def collBusy (s : State) : Bool := s.colls != []

/-- Whether a tightening of the cap limits is put off at this tick, and the state of the deferral after it (R498). -/
def deferral (s : State) (p : Nat) : Bool × Gov :=
  let g := s.gov
  let g := if p ≤ capW s then { g with deferLatch := false } else g
  let may := collBusy s && decide (p ≤ 1500) && g.fast.isNone
  match g.deferSince with
  | some t =>
    if !may then (false, { g with deferSince := none })
    else if t + csrF s (govCsr 0x08) 11 14 * 1000 ≤ s.now then (false, { g with deferSince := none, deferLatch := decide (capW s < p) })
    else (true, g)
  | none =>
    if may && decide (capW s < p) && !g.deferLatch then
      if csrF s (govCsr 0x08) 11 14 = 0 then (false, { g with deferLatch := true }) else (true, { g with deferSince := some s.now })
    else (false, g)

/-- The cap loop with input power `p`. (DESIGN CHOICE; log entry 34.) -/
def capLoop (s : State) (p : Nat) : State :=
  let s := if csrF s (govCsr 0) 1 1 = 1 ∧ 1500 < p then csrSetF s (govCsr 0) 1 1 0 else s
  let (held, g) := deferral s p
  let s := setGov s g
  let target := govTarget s
  if csrF s (govCsr 0) 1 1 = 1 then s
  else if capW s < p then
    let g := { g with belowSince := none, unmetSince := if atFloor target g.cap then some (g.unmetSince.getD s.now) else none }
    let s := setGov s (if held then g else { g with cap := limitDown target g.cap })
    match g.unmetSince with
    | some t =>
      if t + 10000000 ≤ s.now ∧ csrF s (govCsr 0x18) 28 1 = 0 then raise (csrSetF s (govCsr 0x18) 28 1 1) 0x9000 0x48 NOTE else s
    | none => s
  else
    let s := csrSetF s (govCsr 0x18) 28 1 0
    if 98 * capW s < 100 * p then setGov s { g with belowSince := none, unmetSince := none }
    else
      let since := g.belowSince.getD s.now
      if since + 2000000 ≤ s.now ∧ g.raisedAt + 200000 ≤ s.now ∧ g.cap ≠ Limit.max then
        setGov s { g with belowSince := some since, unmetSince := none, raisedAt := s.now, cap := limitUp target g.cap }
      else setGov s { g with belowSince := some since, unmetSince := none }

/-- The compute thermal loop (R503). (DESIGN CHOICE; log entry 34.) -/
def tjLoop (s : State) : State :=
  let g := s.gov
  match hottest s with
  | none => s
  | some x =>
    let x := x
    let tj := tjThrottle s * 100
    if tj ≤ x then
      let s := if g.tjOn then s else raise s 0x9001 0x41 NOTE
      if !g.tjOn || decide (g.tjStepAt + 1000000 ≤ s.now) then
        setGov s { g with tjOn := true, tjCool := none, tjStepAt := s.now, tj := limitDown (govTarget s) g.tj }
      else setGov s { g with tjCool := none }
    else if x ≤ tj - 300 ∧ g.tjOn then
      let since := g.tjCool.getD s.now
      if since + 10000000 ≤ s.now ∧ g.tjStepAt + 1000000 ≤ s.now then
        let l := limitUp (govTarget s) g.tj
        setGov s { g with tjCool := some since, tjStepAt := s.now, tj := l, tjOn := decide (l ≠ Limit.max) }
      else setGov s { g with tjCool := some since }
    else setGov s { g with tjCool := none }

/-- The governor runs: the main rails are up and the module is not held in reset. (DESIGN CHOICE; log entry 34.) -/
def govUp (s : State) : Bool := s.boot == 0 && s.rest != 1 && s.pins.mains

/-- The control tick of 50 µs; `powerW` is the input power of the last 100 µs. POWER_W is its mean over the last 1 ms.
(DESIGN CHOICE; log entry 34.) -/
def execGovTick (powerW : BitVec 11) (time : Nat) (s : State) : Res :=
  if !govUp s ∨ time < s.now ∨ time % 50000 ≠ 0 then absent "no control tick is due"
  else
    let s := atTime s time
    let h := (powerW.toNat :: s.gov.powerHist).take 20
    let s := setGov s { s.gov with powerHist := h }
    let s := csrSetF s (govCsr 0x18) 10 11 (h.foldl (· + ·) 0 / h.length)
    .next (govPublish (tjLoop (capLoop s powerW.toNat)))

/-! ### Sensors (R503) -/

/-- The neighbours of a sensor: those beside it on its die (DESIGN CHOICE, log entry 34: the manual gives the sensors no places). -/
def sensorNear (k : Nat) : List Nat :=
  let lo := if k < 64 then 0 else 64 + (k - 64) / 8 * 8
  let hi := if k < 64 then 63 else lo + 7
  (if lo < k then [k - 1] else []) ++ (if k < hi then [k + 1] else [])

def sensorAt (s : State) (k : Nat) : Option Int := (tabGet (fun _ => none) s.gov.sensors k).map (·.1)

/-- A reading outside −40 °C to 150 °C, or more than 25 °C from every neighbour's. (DESIGN CHOICE; log entry 34.) -/
def sensorBad (s : State) (k : Nat) (x : Int) : Bool :=
  let near := (sensorNear k).filterMap (sensorAt s)
  decide (x < -4000 ∨ 15000 < x) || (near != [] && near.all (fun y => decide (2500 < (x - y).natAbs)))

/-- A sensor's reading, in hundredths of a degree. The emergency limits follow the hottest reading at once. (DESIGN CHOICE; log entry 34.) -/
def execThermalSample (sensor : BitVec 7) (reading : BitVec 16) (time : Nat) (s : State) : Res :=
  let k := sensor.toNat
  if !govUp s ∨ time < s.now ∨ 96 ≤ k then absent "no such sensor is read"
  else
    let s := atTime s time
    let x := reading.toInt
    let bad := sensorBad s k x
    let was := s.gov.excluded.contains k
    let g := { s.gov with sensors := tabSet (fun _ => none) s.gov.sensors k (some (x, s.now)) }
    let g := { g with excluded := if bad then (if was then g.excluded else g.excluded ++ [k]) else g.excluded.filter (· != k) }
    let s := setGov s g
    let s := if bad && !was then raise s 0x9001 0x49 NOTE else s
    let s := match hottest s with
      | some h =>
        if 11000 ≤ h ∧ !s.gov.emergency then raise (setGov s { s.gov with emergency := true }) 0x9001 0x42 DEGRADE
        else if h < 10500 then setGov s { s.gov with emergency := false } else s
      | none => s
    .next (govPublish s)

/-! ### The fast current limiter (R502) -/

/-- A regulator's over-current warning. -/
def execOvercurrentWarning (s : State) : Res :=
  if !govUp s ∨ s.gov.fast.isSome then absent "the fast limiter is engaged, or the rails are off"
  else
    let s := setGov s { s.gov with fast := some s.now, deferSince := none }
    .next (govPublish (raise (csrAdd s (govCsr 0x48) 1) 0x9002 0x47 NOTE))

/-- 100 µs after the warning has cleared: the limits go to the cap loop as they stand. -/
def execFastLimitRelease (time : Nat) (s : State) : Res :=
  match s.gov.fast with
  | none => absent "the fast limiter is not engaged"
  | some t =>
    if time < s.now ∨ time < t + 100000 then absent "the warning has not been clear for 100 µs"
    else
      let s := atTime s time
      let g := { s.gov with fast := none, cap := { s.gov.cap with admits := minAdmit s.gov.cap.admits (allAdmit 16) } }
      .next (govPublish (setGov s g))

/-! ### Brownout hold (R506) -/

/-- The 48 V input falls below 40 V. -/
def execBrownoutEnter (s : State) : Res :=
  if !govUp s ∨ s.gov.brown.isSome then absent "brownout hold is in force, or the rails are off"
  else
    let s := setGov s { s.gov with brown := some (csrF s (govCsr 0x18) 0 10, s.now) }
    .next (govPublish (raise (csrAdd s (govCsr 0x58) 1) 0x9000 0x44 NOTE))

/-- The input has stayed above 41 V for 1 ms. -/
def execBrownoutExit (time : Nat) (s : State) : Res :=
  match s.gov.brown with
  | none => absent "no brownout hold is in force"
  | some b =>
    if time < s.now ∨ time < b.2 + 1000000 then absent "the input has not been back for 1 ms"
    else
      let s := atTime s time
      .next (govPublish (setGov s { s.gov with brown := none }))

/-- A droop of VCORE below 0.57 V that stays at or above 0.50 V only slows the logic (R19, R508). -/
def execVcoreDroop (s : State) : Res :=
  if !govUp s then absent "VCORE is off" else .next (raise s 0x9002 0x46 NOTE)

end Sys2Proof.Machine
end

