-- ==== Sys2Proof/Machine/Sha.lean ====
section
/-! DEFINITION. SHA-384 over bytes, with its constants computed from the primes they come from. The spec names the digest and leaves its
definition to FIPS 180-4 (R35, R452, R552, R561). -/

namespace Sys2Proof.Machine

def shaPrimes : List Nat :=
  [2, 3, 5, 7, 11, 13, 17, 19, 23, 29, 31, 37, 41, 43, 47, 53, 59, 61, 67, 71, 73, 79, 83, 89, 97, 101, 103, 107, 109, 113] ++
  [127, 131, 137, 139, 149, 151, 157, 163, 167, 173, 179, 181, 191, 193, 197, 199, 211, 223, 227, 229, 233, 239, 241, 251, 257] ++
  [263, 269, 271, 277, 281, 283, 293, 307, 311, 313, 317, 331, 337, 347, 349, 353, 359, 367, 373, 379, 383, 389, 397, 401, 409]

/-- The greatest `r` built from the bits below `b` with `f r ≤ x`. -/
def rootBits (f : Nat → Nat) (x : Nat) : Nat → Nat → Nat
  | 0, r => r
  | b + 1, r => if f (r + 2 ^ b) ≤ x then rootBits f x b (r + 2 ^ b) else rootBits f x b r

/-- Round constants: the first 64 bits of the fractions of the cube roots of the first 80 primes. -/
def shaK : List Word := shaPrimes.map (fun p => BitVec.ofNat 64 (rootBits (fun r => r * r * r) (p * 2 ^ 192) 68 0))

/-- Starting value: the first 64 bits of the fractions of the square roots of the ninth to sixteenth primes. -/
def shaStart : List Word := ((shaPrimes.drop 8).take 8).map (fun p => BitVec.ofNat 64 (rootBits (fun r => r * r) (p * 2 ^ 128) 68 0))

def rotr (x : Word) (n : Nat) : Word := x.rotateRight n

def ofBE (bs : List Byte) : Nat := bs.foldl (fun n b => n * 256 + b.toNat) 0

/-- The message schedule, newest word first. -/
def shaSchedule : Nat → List Word → List Word
  | 0, w => w
  | n + 1, w =>
    let a := w.getD 14 0
    let b := w.getD 1 0
    let s0 := rotr a 1 ^^^ rotr a 8 ^^^ (a >>> 7)
    let s1 := rotr b 19 ^^^ rotr b 61 ^^^ (b >>> 6)
    shaSchedule n ((w.getD 15 0 + s0 + w.getD 6 0 + s1) :: w)

/-- One round on the eight working words. -/
def shaRound (v : List Word) (kw : Word × Word) : List Word :=
  match v with
  | [a, b, c, d, e, f, g, h] =>
    let t1 := h + (rotr e 14 ^^^ rotr e 18 ^^^ rotr e 41) + ((e &&& f) ^^^ (~~~e &&& g)) + kw.1 + kw.2
    let t2 := (rotr a 28 ^^^ rotr a 34 ^^^ rotr a 39) + ((a &&& b) ^^^ (a &&& c) ^^^ (b &&& c))
    [t1 + t2, a, b, c, d + t1, e, f, g]
  | _ => v

def shaBlock (h : List Word) (blk : List Byte) : List Word :=
  let w := (List.range 16).map (fun i => BitVec.ofNat 64 (ofBE ((blk.drop (8 * i)).take 8)))
  let w := (shaSchedule 64 w.reverse).reverse
  List.zipWith (· + ·) h ((shaK.zip w).foldl shaRound h)

def shaBlocks : Nat → List Word → List Byte → List Word
  | 0, h, _ => h
  | n + 1, h, bs => shaBlocks n (shaBlock h (bs.take 128)) (bs.drop 128)

/-- The SHA-384 digest, 48 bytes. (DESIGN CHOICE; log entry 47.) -/
def sha384 (m : List Byte) : List Byte :=
  let n := m.length
  let pad := (239 - n % 128) % 128
  let bs := m ++ [0x80] ++ List.replicate pad 0 ++ (leBytes 16 (8 * n)).reverse
  ((shaBlocks (bs.length / 128) shaStart bs).take 6).flatMap (fun w => (leBytes 8 w.toNat).reverse)

end Sys2Proof.Machine
end

