-- ==== Sys2Proof/Machine/RegBase.lean ====
section
/-! DEFINITION. Writing a register's fields: widths, types, allowed values and who may write (R9–R12, Table 0-4). What else a write does is
in Regs.lean. -/

namespace Sys2Proof.Machine

/-- The bits that an access of `size` bytes at `a` reaches, within the register at the 8-byte-aligned address below it; `none` for any other
size or alignment (R9). -/
def lanes (a size : Nat) : Option (Nat × Nat) :=
  if size = 8 ∧ a % 8 = 0 then some (0, 64) else if size = 4 ∧ a % 4 = 0 then some (a % 8 * 8, a % 8 * 8 + 32) else none

/-- Bits `[lo, hi)` of `new` over the other bits of `old`. -/
def laneMix (old new lo hi : Nat) : Nat := old % 2 ^ lo + new / 2 ^ lo % 2 ^ (hi - lo) * 2 ^ lo + old / 2 ^ hi * 2 ^ hi

/-- A field meets the bits `[lo, hi)`. -/
def inLanes (f : Fld) (lo hi : Nat) : Bool := decide (f.lo < hi ∧ lo < f.lo + f.w)

/-- One field of a write: the word so far, and whether a reserved value or a forbidden writer was refused. -/
def fldWrite (stw : Bool) (mixed raw lo hi : Nat) (x : Nat × Bool × Bool) (f : Fld) : Nat × Bool × Bool :=
  let (w, bad, deny) := x
  if !inLanes f lo hi then x
  else match f.ty with
    | .rw =>
      let v := mixed / 2 ^ f.lo % 2 ^ f.w
      let old := w / 2 ^ f.lo % 2 ^ f.w
      if f.stw && !stw then (w, bad, true)
      else if allowed f.allow v then (w - old * 2 ^ f.lo + v * 2 ^ f.lo, bad, deny)
      else (w, true, deny)
    | .w1c =>
      let clr := raw / 2 ^ f.lo % 2 ^ f.w
      let old := w / 2 ^ f.lo % 2 ^ f.w
      (w - (old &&& clr) * 2 ^ f.lo, bad, deny)
    | _ => x

/-- Fields whose allowed values depend on another field keep their values where the pair would not do: VMAX at least VTARGET (Table 19-5),
MISS_US at least 4 × BEAT_US (Table 17-5), three shares of at least one unit that total 20 (Table 15-6), a tally counter watched below 128
(Table 10-9). -/
def fldPairs (a old new : Nat) : Nat × Bool :=
  let f (w lo n : Nat) : Nat := w / 2 ^ lo % 2 ^ n
  let put (w lo n v : Nat) : Nat := w - f w lo n * 2 ^ lo + v * 2 ^ lo
  if a = govCsr 0 then
    if f new 3 10 ≤ f new 13 10 then (new, false)
    else
      let w := put new 13 10 (f old 13 10)
      if f w 3 10 ≤ f w 13 10 then (w, true) else (put w 3 10 (f old 3 10), true)
  else if a = twnCsr 0x08 then
    if 4 * f new 0 16 ≤ f new 16 16 then (new, false)
    else
      let w := put new 16 16 (f old 16 16)
      if 4 * f w 0 16 ≤ f w 16 16 then (w, true) else (put w 0 16 (f old 0 16), true)
  else if memCsr 0 0 ≤ a ∧ a < memCsr 4 0 ∧ (a - memCsr 0 0) % 0x100000 = 0x10 then
    let (x, y, z) := (f new 0 5, f new 5 5, f new 10 5)
    if 1 ≤ x ∧ 1 ≤ y ∧ 1 ≤ z ∧ x + y + z = 20 then (new, false) else (old, true)
  else if tileCsr 0 0 ≤ a ∧ a < clusterCsr 0 0 ∧ (a - tileCsr 0 0) % 0x10000 = 0x8010 then
    let legal (w : Nat) : Bool := f w 8 1 == 0 || decide (f w 0 8 < 128)
    if legal new then (new, false)
    else
      let w := put new 0 8 (f old 0 8)
      if legal w then (w, true) else (put w 8 1 (f old 8 1), true)
  else (new, false)

/-- The register's word after a write of `v` to its bits `[lo, hi)`; whether a reserved value was refused (R11), and whether a field of the
steward's was. -/
def fieldsWrite (s : State) (a : Nat) (r : Reg) (stw : Bool) (v lo hi : Nat) : Nat × Bool × Bool :=
  let old := (csrGet s a).toNat
  let x := r.flds.foldl (fldWrite stw (laneMix old v lo hi) (v / 2 ^ lo % 2 ^ (hi - lo) * 2 ^ lo) lo hi) (old, false, false)
  let y := fldPairs a old x.1
  (y.1, x.2.1 || y.2, x.2.2)

/-- A register takes a word's RW fields so far as they are allowed: a value from the settings store. -/
def loadReg (s : State) (a : Nat) (v : Word) : State :=
  match regAt a with
  | some r => csrPut s a (BitVec.ofNat 64 (fieldsWrite s a { r with flds := r.flds.filter (fun f => f.ty == .rw) } true v.toNat 0 64).1)
  | none => s

end Sys2Proof.Machine
end

