-- ==== Sys2Proof/Machine/Slots.lean ====
section
/-! DEFINITION. Firmware slots, the running firmware, and the settings store (R551–R557, Tables 22-3 and 22-6). -/

namespace Sys2Proof.Machine

/-! ### Slots: 0 INK_A, 1 INK_B, 2 STW_A, 3 STW_B, 4 the factory settings image -/

/-- The image a slot was delivered with. -/
def firstImage (k : Nat) : FwImage :=
  ⟨0, 0, if k < 2 then Config.inkVersion.toNat else if k < 4 then 3 + Config.fwMinor.toNat * 2 ^ 8 + Config.fwPatch.toNat * 2 ^ 16 else 0⟩

def imageIn (s : State) (k : Nat) : FwImage := tabGet firstImage s.mgmt.images k
def setImage (s : State) (k : Nat) (x : FwImage) : State :=
  { s with mgmt := { s.mgmt with images := tabSet firstImage s.mgmt.images k x } }

def slotState (s : State) (k : Nat) : Nat := csrF s (inkCsr 0x08) (2 * k) 2
def setSlotState (s : State) (k v : Nat) : State := csrSetF s (inkCsr 0x08) (2 * k) 2 v

/-- The anti-rollback counter of an image type: 1 innkeeper, 2 steward bundle, 3 factory settings (R554). -/
def secCounter (s : State) (ty : Nat) : Nat := csrF s (inkCsr 0x10) (16 * (ty - 1)) 16
def setSecCounter (s : State) (ty v : Nat) : State := csrSetF s (inkCsr 0x10) (16 * (ty - 1)) 16 v

/-- The running steward firmware's version, as HST_ID [39:8]. -/
def fwWord (s : State) : Nat := (imageIn s s.mgmt.booted.2).version
def fwMajor (s : State) : Nat := fwWord s % 256

/-- HST_ID as it reads (Table 18-3). -/
def hstId (s : State) : Word := BitVec.ofNat 64 (0x10 + fwWord s % 2 ^ 32 * 2 ^ 8)

/-! ### Settings (Table 22-3) -/

/-- Registers of a setting that is made of registers. -/
def settingRegs (n : Nat) : List Nat :=
  match n with
  | 0x0103 => [hstCsr 0x18]
  | 0x0104 => [twnCsr 0, twnCsr 0x08]
  | 0x0105 => [govCsr 0, govCsr 0x10]
  | 0x0106 => everyDie 0 ++ everyDie 0x18
  | 0x0107 => [ldgCsr 0x08, ldgCsr 0x10]
  | 0x0108 => everyCluster 0x4000
  | _ => []

/-- The setting whose registers hold a parameter: it shares that setting's stored value. -/
def sharedSetting (n : Nat) : Option Nat :=
  if 0x19 ≤ n ∧ n ≤ 0x1E then some 0x0105 else if 0x20 ≤ n ∧ n ≤ 0x24 then some 0x0107 else if n = 0x28 ∨ n = 0x29 then some 0x0108
  else if 0x2C ≤ n ∧ n ≤ 0x2F then some 0x0106 else if 0x30 ≤ n ∧ n ≤ 0x32 then some 0x0104 else none

/-- The freeze bit of a parameter's group, for the groups the steward keeps (R374). -/
def groupBit (n : Nat) : Option Nat :=
  if n ≤ 2 then some 0 else if n ≤ 6 then some 1 else if n ≤ 9 then some 2 else none

/-- The shape as 32 words of its bitmap. -/
def shapeWords (shape : List Nat) : List Word :=
  (List.range 32).map (fun j => BitVec.ofNat 64 ((List.range 64).foldl (fun n b => if shape.contains (64 * j + b) then n + 2 ^ b else n) 0))

def shapeOf (ws : List Word) : List Nat := (List.range 2048).filter (fun d => (ws.getD (d / 64) 0).getLsbD (d % 64))

/-- The words of a setting as it is in force. (DESIGN CHOICE; log entry 60.) -/
def settingWords (s : State) (n : Nat) : List Word :=
  if n < 0x0100 then [BitVec.ofNat 64 (paramVal s n), BitVec.ofNat 64 (match groupBit n with
    | some b => bit (s.freezeNext.testBit b)
    | none => 0)]
  else if n = 0x0100 then [BitVec.ofNat 64 (csrF s (govCsr 0x08) 0 11)]
  else if n = 0x0101 then csrGet s (fabCsr 0x08) :: shapeWords s.shape
  else if n = 0x0102 then [BitVec.ofNat 64 (csrF s (ldgCsr 0) 1 1)]
  else (settingRegs n).map (csrGet s)

/-- The words of a setting that the store holds. (DESIGN CHOICE; log entry 60.) -/
def storedWords (s : State) (n : Nat) : Option (List Word) := assocGet s.mgmt.settings n

/-- What SET_PERSISTENT writes for a number: the setting's words, or for a parameter in a register of a setting that setting's stored or
factory words with the parameter's field as it is in force. (DESIGN CHOICE; log entry 60.) -/
def recordFor (s : State) (n : Nat) : Nat × List Word :=
  match (if n < 0x0100 then sharedSetting n else none), paramOf n with
  | some k, some ⟨_, _, .reg as lo w⟩ =>
    let regs := settingRegs k
    let old := (storedWords s k).getD (regs.map csrReset)
    (k, (regs.zip old).map (fun x => if as.contains x.1 then setF x.2 lo w (csrF s x.1 lo w) else x.2))
  | _, _ => (n, settingWords s n)

/-- A setting takes the words given; the device ID and shape apart. (DESIGN CHOICE; log entry 45.) -/
def loadSetting (s : State) (n : Nat) (ws : List Word) : State :=
  if n < 0x0100 then
    let v := (ws.getD 0 0).toNat
    let s := match paramOf n with
      | some p => if allowed p.allow v then setParam s n v true else s
      | none => s
    match groupBit n with
    | some b => if (ws.getD 1 0).toNat % 2 = 1 then { s with freeze := s.freeze ||| 2 ^ b, freezeNext := s.freezeNext ||| 2 ^ b } else s
    | none => s
  else if n = 0x0100 then (if 600 ≤ (ws.getD 0 0).toNat ∧ (ws.getD 0 0).toNat ≤ 1500 then csrSetF s (govCsr 0x08) 0 11 (ws.getD 0 0).toNat else s)
  else if n = 0x0102 then csrSetF s (ldgCsr 0) 1 1 ((ws.getD 0 0).toNat % 2)
  else ((settingRegs n).zip ws).foldl (fun s x => loadReg s x.1 x.2) s

/-- The setting numbers in ascending order: module-scope parameters, then Table 22-3's others. -/
def settingNums : List Nat :=
  (paramTable.filter (fun p => p.home != .plan)).map (·.num) ++ [0x0100, 0x0101, 0x0102, 0x0103, 0x0104, 0x0105, 0x0106, 0x0107, 0x0108]

/-- Whether a setting may be made persistent: 0x0102 only while JTAG scope 2 is authorised. (DESIGN CHOICE; log entry 60.) -/
def settingAllowed (s : State) (n : Nat) : Bool := n != 0x0102 || csrF s (inkCsr 0x20) 3 1 == 1

/-- Number of words of a setting. -/
def settingLen (n : Nat) : Nat := if n < 0x0100 then 2 else if n = 0x0100 ∨ n = 0x0102 then 1 else (settingRegs n).length

/-- Volatile settings are loaded: the factory value of each, which is its reset value until the part has been given another factory settings
image, and then its stored value. (DESIGN CHOICE; log entries 45, 60.) -/
def applySettings (s : State) : State :=
  let nums := settingNums.filter (fun n => n != 0x0101)
  let s := if (imageIn s 4).stamp = 0 then s
    else nums.foldl (fun s n => loadSetting s n ((List.range (settingLen n)).map (Config.factory (imageIn s 4).stamp n))) s
  nums.foldl (fun s n => match storedWords s n with
    | some ws => loadSetting s n ws
    | none => s) s

/-- Device ID and shape are loaded from the settings store. -/
def loadShape (s : State) : State :=
  match storedWords s 0x0101 with
  | some (w :: ws) => csrPut { s with shape := shapeOf ws } (fabCsr 0x08) w
  | _ => csrPut { s with shape := [] } (fabCsr 0x08) 0

end Sys2Proof.Machine
end

