-- ==== Sys2Proof/Machine/Image.lean ====
section
/-! DEFINITION. The plan image: its header, its section table and the layout of every section, checked in the order of R36 (R35, R36,
R59–R70, R580). The DETAIL byte offsets are those of the first field found wrong; the order within one check is this model's (log entry 37). -/

namespace Sys2Proof.Machine

/-- A refusal: completion code and DETAIL (Table 18-8). -/
abbrev Chk (α : Type) := Except (Nat × Nat) α

def imageBad {α : Type} (off : Nat) : Chk α := .error (0x08, off)
def chk (b : Bool) (off : Nat) : Chk Unit := if b then .ok () else imageBad off

/-- `n` bytes at `off`, as a number. -/
def imgN (img : List Byte) (off n : Nat) : Nat := ofLE ((img.drop off).take n)
/-- Bits `[lo + w - 1 : lo]` of a number. -/
def fld (v lo w : Nat) : Nat := v >>> lo % 2 ^ w

/-- The reserved fields `(lo, w)` of the structure `v` at image offset `at_` are 0. -/
def rsvZero (v at_ : Nat) (rs : List (Nat × Nat)) : Chk Unit :=
  match rs.find? (fun r => fld v r.1 r.2 != 0) with
  | none => .ok ()
  | some r => imageBad (at_ + (((List.range r.2).find? (fun i => v.testBit (r.1 + i))).map (· + r.1)).getD r.1 / 8)

/-! ### Header (Table 2-1) -/

structure ImgHead where
  nondet : Bool
  fabric : Bool
  delta : Bool
  phases : Nat
  regions : Nat
  clusterMask : Nat
  deltaBufs : Nat
  bytes : Nat
  table : Nat
  id : Word
  seed : Word
  deriving DecidableEq, Repr

/-- Checks 1 to 4, on the first 64 bytes; `n` is the image length of the command. (DESIGN CHOICE; log entry 37.) -/
def headCheck (s : State) (img : List Byte) (n : Nat) : Chk ImgHead := do
  chk (decide (64 ≤ n)) 0
  let v := imgN img 0 64
  let f := fld v
  rsvZero v 0 [(51, 5), (67, 5), (92, 4), (312, 8)]
  chk (f 0 32 == 0x49504C4A) 0
  chk (f 32 8 == 1) 4
  chk (decide (1 ≤ f 72 12 ∧ f 72 12 ≤ 2048)) 9
  chk (decide (1 ≤ f 84 8 ∧ f 84 8 ≤ 128)) 10
  chk (decide (1 ≤ f 256 16 ∧ f 256 16 ≤ 4096)) 32
  chk (decide (1 ≤ f 272 16 ∧ f 272 16 ≤ 4096)) 34
  chk (decide (f 304 8 ≤ 16)) 38
  chk (f 320 64 == n) 40
  if f 40 8 ≠ fwMajor s then .error (0x06, f 40 8)
  if f 56 11 ≠ ownId s then .error (0x07, 3)
  if f 72 12 ≠ csrF s (fabCsr 0x08) 11 12 ∨ f 84 8 ≠ csrF s (fabCsr 0x08) 23 8 ∨ f 96 32 ≠ csrF s (fabCsr 0x08) 32 32 then .error (0x07, 4)
  .ok { nondet := v.testBit 48, fabric := v.testBit 49, delta := v.testBit 50, phases := f 256 16, regions := f 272 16,
        clusterMask := f 288 16, deltaBufs := f 304 8, bytes := n, table := f 384 64, id := BitVec.ofNat 64 (f 128 64),
        seed := BitVec.ofNat 64 (f 192 64) }

/-- Check 5. (DESIGN CHOICE; log entry 37.) -/
def digestCheck (img : List Byte) : Chk Unit :=
  if ofLE ((sha384 (img.drop 64)).take 8) = imgN img 56 8 then .ok () else .error (0x09, 0)

/-! ### Sections (R59, R60) -/

/-- A section: kind, place in the image, and for DESC and DATA its place in a region; `at_` is the offset of its table entry. -/
structure Sec where
  kind : Nat
  off : Nat
  n : Nat
  region : Nat
  roff : Nat
  at_ : Nat
  deriving DecidableEq, Repr

def isCopy (c : Sec) : Bool := c.kind == 2 || c.kind == 6
def earlyKind (k : Nat) : Bool := [3, 4, 5, 7, 8, 0xA, 0xB, 0xC, 0xD].contains k

/-- One entry of the section table. (DESIGN CHOICE; log entry 37.) -/
def secEntry (img : List Byte) (h : ImgHead) (tend at_ : Nat) : Chk Sec := do
  let v := imgN img at_ 32
  rsvZero v at_ [(8, 56), (204, 4)]
  let c : Sec := { kind := fld v 0 8, off := fld v 64 64, n := fld v 128 64, region := fld v 192 12, roff := fld v 208 48, at_ := at_ }
  chk (decide (1 ≤ c.kind ∧ c.kind ≤ 0xD)) at_
  chk (decide (c.off % 64 = 0 ∧ tend ≤ c.off ∧ c.off + c.n ≤ h.bytes)) (at_ + 8)
  chk (isCopy c || (c.region == 0 && c.roff == 0)) (at_ + 24)
  .ok c

/-- Two spans meet. -/
def spansMeet (a n b m : Nat) : Bool := decide (n ≠ 0 ∧ m ≠ 0 ∧ a < b + m ∧ b < a + n)

/-- The first of a list that meets one before it, by the test given. -/
def firstClash {α : Type} (f : α → α → Bool) : List α → List α → Option α
  | _, [] => none
  | seen, x :: xs => if seen.any (fun y => f y x) then some x else firstClash f (seen ++ [x]) xs

/-- The section table: its entries, and which kinds it must and may hold. -/
def sections (img : List Byte) (h : ImgHead) : Chk (List Sec) := do
  let t := h.table
  chk (decide (64 ≤ t ∧ t % 64 = 0 ∧ t + 16 ≤ h.bytes)) 48
  let v := imgN img t 16
  rsvZero v t [(16, 112)]
  let n := fld v 0 16
  chk (decide (1 ≤ n ∧ t + 16 + 32 * n ≤ h.bytes)) t
  let cs ← (List.range n).mapM (fun i => secEntry img h (t + 16 + 32 * n) (t + 16 + 32 * i))
  match firstClash (fun a b => spansMeet a.off a.n b.off b.n) [] cs with
  | some c => imageBad (c.at_ + 8)
  | none => .ok ()
  let num (k : Nat) : Nat := (cs.filter (fun c => c.kind == k)).length
  chk ([1, 3, 4, 5, 7].all (fun k => num k == 1)) t
  chk ([8, 9, 0xA, 0xB, 0xC, 0xD].all (fun k => decide (num k ≤ 1))) t
  chk ((num 8 == 1) == h.delta && (h.delta || h.deltaBufs == 0)) t
  chk (num 0xC == 0 || h.fabric) t
  match cs.find? (fun c => earlyKind c.kind && cs.any (fun d => !earlyKind d.kind && decide (d.off ≤ c.off))) with
  | some c => imageBad (c.at_ + 8)
  | none => .ok ()
  .ok cs

def secOf (cs : List Sec) (k : Nat) : Option Sec := cs.find? (fun c => c.kind == k)

/-- Offsets of the `w`-byte entries of a section that is an array. -/
def arrayOf (cs : List Sec) (k w : Nat) : Chk (List Nat) :=
  match secOf cs k with
  | none => .ok []
  | some c => if c.n % w = 0 then .ok ((List.range (c.n / w)).map (fun i => c.off + w * i)) else imageBad (c.at_ + 16)

/-- A section has at least the `n` bytes that the counts beside it give; bytes beyond them mean nothing. (DESIGN CHOICE; log entry 37.) -/
def secHas (c : Sec) (n : Nat) : Chk Unit := chk (decide (n ≤ c.n)) (c.at_ + 16)

/-- A locator that names a plan region: KIND 2, `n` bytes of it in one region, aligned to `k`. -/
def planLoc (sizes : List Nat) (l n k at_ : Nat) : Chk Unit :=
  chk (decide (fld l 62 2 = 2 ∧ fld l 56 6 = 0 ∧ fld l 0 44 % k = 0 ∧ fld l 44 12 < sizes.length ∧
    fld l 0 44 + n ≤ sizes.getD (fld l 44 12) 0)) at_

/-- The same, or a KIND 3 locator, aligned to `k`. -/
def planLoc3 (sizes : List Nat) (l n k at_ : Nat) : Chk Unit :=
  if fld l 62 2 = 3 then chk (decide (fld l 56 6 = 0 ∧ fld l 0 45 % k = 0)) at_ else planLoc sizes l n k at_

/-! ### What an image asks for -/

/-- An image as read: everything but the places of its regions. Locators hold plan region numbers. -/
structure Image where
  head : ImgHead
  reqs : List (BitVec 128)
  copies : List Sec
  relocs : List (Nat × Nat × Nat)
  phases : List (BitVec 256)
  preloads : List (BitVec 128)
  pools : List Word
  queues : List (BitVec 128)
  lists : List (BitVec 128)
  code : List (Nat × List Byte)
  policy : List (Nat × Nat)
  delta : List (BitVec 128)
  doorbells : List Word
  sync : List (BitVec 128)
  coll : List (Nat × Desc)
  tables : List (Nat × Word)
  deriving DecidableEq, Repr

/-- A region's size in an image: as R109 asks for the present live channels, or for FINE and STRIPE for any number of them that they may have been
before a map-out (R58). (DESIGN CHOICE; log entry 37.) -/
def imageSize (s : State) (mode size : Nat) : Bool :=
  sizeLegal s mode size ||
    (decide (mode < 2 ∧ 0 < size) && (List.range 385).any (fun k => decide ((liveChans s).length ≤ k ∧ 0 < k) && size % k == 0))

/-- REGIONS (R62). -/
def regionsSec (s : State) (img : List Byte) (h : ImgHead) (cs : List Sec) : Chk (List (BitVec 128)) :=
  match secOf cs 5 with
  | none => imageBad 0
  | some c => do
    secHas c (16 * h.regions)
    (List.range h.regions).mapM (fun i => do
      let a := c.off + 16 * i
      let v := imgN img a 16
      rsvZero v a [(27, 1), (48, 16), (68, 60)]
      chk (imageSize s (fld v 28 2) (fld v 0 27)) a
      chk (targetLegal (fld v 28 2) (fld v 30 9) true) (a + 3)
      .ok (BitVec.ofNat 128 v))

/-- CODE (R61): the programs by tile. -/
def codeSec (img : List Byte) (h : ImgHead) (cs : List Sec) : Chk (List (Nat × List Byte)) :=
  match secOf cs 1 with
  | none => imageBad 0
  | some c => do
    secHas c 2048
    let es ← (List.range 256).mapM (fun t => do
      let a := c.off + 8 * t
      let v := imgN img a 8
      rsvZero v a [(50, 14)]
      let o := fld v 0 32
      let n := fld v 32 18
      chk (decide (o % 4 = 0 ∧ n % 4 = 0 ∧ n ≤ 131072 ∧ (n = 0 ∨ (o + n ≤ c.n ∧ h.clusterMask.testBit (t / 16))))) a
      .ok (t, (img.drop (c.off + o)).take n))
    .ok (es.filter (fun e => e.2 != []))

/-- TASKS (R65): queues and lists. -/
def tasksSec (img : List Byte) (cs : List Sec) (sizes : List Nat) : Chk (List (BitVec 128) × List (BitVec 128)) :=
  match secOf cs 4 with
  | none => imageBad 0
  | some c => do
    secHas c 16
    let v := imgN img c.off 16
    rsvZero v c.off [(48, 80)]
    let q := fld v 0 16
    let l := fld v 16 32
    secHas c (16 + 16 * (q + l))
    let qs ← (List.range q).mapM (fun i => do
      let a := c.off + 16 + 16 * i
      let v := imgN img a 16
      rsvZero v a [(21, 43)]
      chk (decide (4 ≤ fld v 16 5 ∧ fld v 16 5 ≤ 20)) (a + 2)
      planLoc sizes (fld v 64 64) (64 * 2 ^ fld v 16 5) 64 (a + 8)
      .ok (a, BitVec.ofNat 128 v))
    match firstClash (fun (x y : Nat × BitVec 128) => getF x.2 0 12 == getF y.2 0 12) [] qs with
    | some x => imageBad x.1
    | none => .ok ()
    let ls ← (List.range l).mapM (fun i => do
      let a := c.off + 16 + 16 * (q + i)
      let v := imgN img a 16
      rsvZero v a [(12, 4), (48, 16)]
      match qs.find? (fun x => getF x.2 0 12 == fld v 0 12) with
      | none => imageBad a
      | some x => chk (decide (1 ≤ fld v 16 32 ∧ fld v 16 32 ≤ 2 ^ getF x.2 16 5)) (a + 2)
      planLoc sizes (fld v 64 64) (64 * fld v 16 32) 64 (a + 8)
      .ok (BitVec.ofNat 128 v))
    .ok (qs.map (·.2), ls)

/-- One entry of the phase program at index `i` of `n`; `ends` are the last entries of the loop bodies around it, innermost first. -/
def phaseEntry (sizes : List Nat) (lists preloads pools : Nat) (bufs : List Nat) (n i a v : Nat) (ends : List Nat) : Chk (List Nat) := do
  match fld v 0 8 with
  | 1 => do
    rsvZero v a [(9, 7), (48, 16), (208, 48)]
    chk (!v.testBit 16 && !v.testBit 32) (a + 2)
    chk (decide (fld v 64 32 + fld v 96 16 ≤ lists)) (a + 8)
    chk (decide (fld v 128 32 + fld v 112 16 ≤ preloads)) (a + 14)
    chk (decide (fld v 176 32 + fld v 160 16 ≤ pools)) (a + 20)
    .ok ends
  | 2 => do
    rsvZero v a [(9, 7), (128, 128)]
    let last := i + fld v 16 16
    chk (decide (1 ≤ fld v 16 16 ∧ last < n ∧ ends.length < 8) && ends.all (fun e => decide (last ≤ e))) (a + 2)
    if v.testBit 8 then planLoc sizes (fld v 64 64) 8 8 (a + 8) else chk (fld v 64 64 == 0) (a + 8)
    .ok (last :: ends)
  | 3 => do
    rsvZero v a [(12, 244)]
    chk (bufs.contains (fld v 8 4)) (a + 1)
    .ok ends
  | 4 => do
    rsvZero v a [(8, 248)]
    .ok ends
  | _ => imageBad a

/-- The entries of the phase program in order. -/
def phaseEntries (sizes : List Nat) (lists preloads pools : Nat) (bufs : List Nat) (n base : Nat) (img : List Byte) :
    Nat → Nat → List Nat → Chk (List (BitVec 256))
  | 0, _, _ => .ok []
  | f + 1, i, ends => do
    let a := base + 32 * i
    let v := imgN img a 32
    let ends ← phaseEntry sizes lists preloads pools bufs n i a v (ends.filter (fun e => decide (i ≤ e)))
    let rest ← phaseEntries sizes lists preloads pools bufs n base img f (i + 1) ends
    .ok (BitVec.ofNat 256 v :: rest)

/-- PHASES (R64): program, preload table, pool table. -/
def phasesSec (img : List Byte) (h : ImgHead) (cs : List Sec) (sizes : List Nat) (lists : Nat) (bufs : List Nat) :
    Chk (List (BitVec 256) × List (BitVec 128) × List Word) :=
  match secOf cs 3 with
  | none => imageBad 0
  | some c => do
    secHas c 16
    let v := imgN img c.off 16
    rsvZero v c.off [(48, 80)]
    let e := fld v 0 16
    let p := fld v 16 16
    let q := fld v 32 16
    chk (decide (1 ≤ e)) c.off
    secHas c (16 + 32 * e + 16 * p + 8 * q)
    let prog ← phaseEntries sizes lists p q bufs e (c.off + 16) img e 0 []
    chk ((prog.filter (fun x => getF x 0 8 == 1)).length == h.phases && prog.any (fun x => getF x 0 8 == 4)) c.off
    let pre ← (List.range p).mapM (fun i => do
      let a := c.off + 16 + 32 * e + 16 * i
      let v := imgN img a 16
      rsvZero v a [(89, 7), (112, 16)]
      chk (decide (1 ≤ fld v 64 24 ∧ fld v 64 24 ≤ 65536)) (a + 8)
      planLoc3 sizes (fld v 0 64) (256 * fld v 64 24) 256 a
      .ok (BitVec.ofNat 128 v))
    let pools ← (List.range q).mapM (fun i => do
      let a := c.off + 16 + 32 * e + 16 * p + 8 * i
      let v := imgN img a 8
      planLoc3 sizes v 64 64 a
      .ok (BitVec.ofNat 64 v))
    .ok (prog, pre, pools)

/-- The value a parameter has as the section leaves it. -/
def asLeft (s : State) (ps : List (Nat × Nat)) (n : Nat) : Nat := (assocGet ps n).getD (paramVal s n)

/-- POLICY (R66). -/
def policySec (s : State) (img : List Byte) (cs : List Sec) : Chk (List (Nat × Nat)) := do
  let as ← arrayOf cs 7 16
  let es ← as.mapM (fun a => do
    let v := imgN img a 16
    rsvZero v a [(16, 48)]
    match paramOf (fld v 0 16) with
    | none => imageBad a
    | some p => chk (allowed p.allow (fld v 64 64) && (p.num != 0x39 || splitLegal (fld v 64 64))) (a + 8)
    .ok (a, fld v 0 16, fld v 64 64))
  match firstClash (fun (x y : Nat × Nat × Nat) => x.2.1 == y.2.1) [] es with
  | some x => imageBad x.1
  | none => .ok ()
  let ps := es.map (·.2)
  let bound (hi lo k : Nat) : Chk Unit :=
    if k * asLeft s ps lo ≤ asLeft s ps hi then .ok ()
    else imageBad (((es.find? (fun e => e.2.1 == hi || e.2.1 == lo)).map (·.1)).getD 0 + 8)
  bound 0x1C 0x1B 1
  bound 0x32 0x31 4
  .ok ps

/-- DELTA (R67): a buffer's region has DELTA and CACHE_CLASS 0 and holds its lanes. -/
def deltaSec (img : List Byte) (h : ImgHead) (cs : List Sec) (reqs : List (BitVec 128)) : Chk (List (BitVec 128)) :=
  match secOf cs 8 with
  | none => .ok []
  | some c => do
    secHas c (16 * h.deltaBufs)
    let es ← (List.range h.deltaBufs).mapM (fun i => do
      let a := c.off + 16 * i
      let v := imgN img a 16
      rsvZero v a [(24, 40)]
      chk (fld v 10 2 != 3) (a + 1)
      let r := reqs.getD (fld v 12 12) 0
      chk (decide (fld v 12 12 < reqs.length) && getB r 67 && getF r 39 4 == 0) (a + 1)
      chk (decide (1 ≤ fld v 64 64 ∧ 4096 + (fld v 4 6 + 1) * fld v 64 64 * 16 ≤ getF r 0 27 * 65536)) (a + 8)
      .ok (a, BitVec.ofNat 128 v))
    match firstClash (fun (x y : Nat × BitVec 128) => getF x.2 0 4 == getF y.2 0 4) [] es with
    | some x => imageBad x.1
    | none => .ok (es.map (·.2))

/-- DOORBELLS (R68). -/
def doorbellsSec (img : List Byte) (h : ImgHead) (cs : List Sec) (queues : List (BitVec 128)) : Chk (List Word) := do
  let as ← arrayOf cs 0xA 8
  let es ← as.mapM (fun a => do
    let v := imgN img a 8
    rsvZero v a [(30, 34)]
    let num := fld v 18 12
    let here := h.clusterMask.testBit (fld v 10 8 / 16)
    chk (match fld v 8 2 with
      | 1 => here && decide (num < 256)
      | 2 => here && decide (num < 64)
      | 3 => queues.any (fun q => getF q 0 12 == num && getB q 15)
      | _ => false) a
    .ok (a, BitVec.ofNat 64 v))
  match firstClash (fun (x y : Nat × Word) => getF x.2 0 8 == getF y.2 0 8) [] es with
  | some x => imageBad x.1
  | none => .ok (es.map (·.2))

/-- SYNC (R69). -/
def syncSec (img : List Byte) (h : ImgHead) (cs : List Sec) : Chk (List (BitVec 128)) := do
  let as ← arrayOf cs 0xB 16
  as.mapM (fun a => do
    let v := imgN img a 16
    rsvZero v a [(22, 42), (127, 1)]
    let num := fld v 10 12
    let here := h.clusterMask.testBit (fld v 2 8 / 16)
    let depth := fld v 96 31
    chk (match fld v 0 2 with
      | 0 => here && decide (num < 256 ∧ depth = 0)
      | 1 => here && decide (num < 64 ∧ 1 ≤ depth)
      | 2 => h.clusterMask.testBit (num / 2) && decide (1 ≤ num ∧ num < 32 ∧ depth = 0)
      | _ => decide (1 ≤ num ∧ num < 32 ∧ depth = 0)) a
    .ok (BitVec.ofNat 128 v))

/-- COLL (R70). The descriptors are judged at RUN (R438); an SRC or DST that is no KIND 2 locator of a plan region is refused here, since the steward
relocates it. (DESIGN CHOICE; log entry 37.) -/
def collSec (img : List Byte) (cs : List Sec) (sizes : List Nat) : Chk (List (Nat × Desc)) := do
  let as ← arrayOf cs 0xC 80
  let es ← as.mapM (fun a => do
    rsvZero (imgN img a 16) a [(4, 124)]
    let d := imgN img (a + 16) 64
    planLoc sizes (fld d 64 64) 0 1 (a + 24)
    planLoc sizes (fld d 128 64) 0 1 (a + 32)
    .ok (a, imgN img a 1 % 16, BitVec.ofNat 512 d))
  match firstClash (fun (x y : Nat × Nat × Desc) => x.2.1 == y.2.1) [] es with
  | some x => imageBad x.1
  | none => .ok (es.map (·.2))

/-- RELOC (R63): entry offset, region and offset. -/
def relocSec (img : List Byte) (cs : List Sec) (sizes : List Nat) : Chk (List (Nat × Nat × Nat)) := do
  let as ← arrayOf cs 9 8
  as.mapM (fun a => do
    let v := imgN img a 8
    rsvZero v a [(60, 4)]
    chk (decide (fld v 0 12 < sizes.length ∧ fld v 12 48 % 8 = 0 ∧ fld v 12 48 + 8 ≤ sizes.getD (fld v 0 12) 0)) a
    .ok (a, fld v 0 12, fld v 12 48))

/-- TABLES (R580). -/
def tablesSec (img : List Byte) (cs : List Sec) (sizes : List Nat) : Chk (List (Nat × Word)) := do
  let as ← arrayOf cs 0xD 8
  let es ← as.mapM (fun a => do
    planLoc sizes (imgN img a 8) 64 64 a
    .ok (a, BitVec.ofNat 64 (imgN img a 8)))
  match firstClash (fun (x y : Nat × Word) => x.2 == y.2) [] es with
  | some x => imageBad x.1
  | none => .ok es

/-- DESC and DATA: each copy ends within its region, and no two write one byte. -/
def copiesCheck (cs : List Sec) (sizes : List Nat) : Chk (List Sec) := do
  let copies := cs.filter isCopy
  match copies.find? (fun c => decide (sizes.length ≤ c.region ∨ sizes.getD c.region 0 < c.roff + c.n)) with
  | some c => imageBad (c.at_ + 24)
  | none => .ok ()
  match firstClash (fun (x y : Sec) => x.region == y.region && spansMeet x.roff x.n y.roff y.n) [] copies with
  | some c => imageBad (c.at_ + 24)
  | none => .ok copies

/-- Check 6 of the sections that stand before the bulk ones (R60). (DESIGN CHOICE; log entry 37.) -/
def earlyCheck (s : State) (img : List Byte) (h : ImgHead) (cs : List Sec) : Chk Image := do
  let reqs ← regionsSec s img h cs
  let sizes := reqs.map (fun r => getF r 0 27 * 65536)
  let (queues, lists) ← tasksSec img cs sizes
  let delta ← deltaSec img h cs reqs
  let (phases, preloads, pools) ← phasesSec img h cs sizes lists.length (delta.map (fun d => getF d 0 4))
  let policy ← policySec s img cs
  let doorbells ← doorbellsSec img h cs queues
  match queues.find? (fun q => getB q 15 && !(doorbells.any (fun d => getF d 8 2 == 3 && getF d 18 12 == getF q 0 12))) with
  | some _ => imageBad h.table
  | none => .ok ()
  let sync ← syncSec img h cs
  let coll ← collSec img cs sizes
  let tables ← tablesSec img cs sizes
  let copies ← copiesCheck cs sizes
  .ok { head := h, reqs := reqs, copies := copies, relocs := [], phases := phases, preloads := preloads, pools := pools, queues := queues,
        lists := lists, code := [], policy := policy, delta := delta, doorbells := doorbells, sync := sync, coll := coll, tables := tables }

/-- Check 6: every section, CODE and RELOC last. (DESIGN CHOICE; log entry 37.) -/
def imageCheck (s : State) (img : List Byte) (h : ImgHead) : Chk Image := do
  let cs ← sections img h
  let im ← earlyCheck s img h cs
  let code ← codeSec img h cs
  let relocs ← relocSec img cs (im.reqs.map (fun r => getF r 0 27 * 65536))
  .ok { im with code := code, relocs := relocs }

/-- The outcome of the checks that the first bytes of an image allow, once its early sections have come (R37, R60); `n` is the image length of the
command. -/
def earlyOf (s : State) (img : List Byte) (n : Nat) : Option (Chk Image) :=
  let got := img.length
  if got < min n 64 then none
  else match headCheck s img n with
    | .error e => some (.error e)
    | .ok h =>
      if got < min n (h.table + 16) ∨ got < min n (h.table + 16 + 32 * imgN img h.table 2) then none
      else match sections img h with
        | .error e => some (.error e)
        | .ok cs => if cs.any (fun c => earlyKind c.kind && decide (got < c.off + c.n)) then none else some (earlyCheck s img h cs)

end Sys2Proof.Machine
end

