-- ==== Sys2Proof/Machine/Doorbell.lean ====
section
/-! DEFINITION. The host's doorbell pages (R300–R302, R361). -/

namespace Sys2Proof.Machine

def dbKind (s : State) (d : Nat) : Nat := csrF s (dbBind d) 0 2
def dbTile (s : State) (d : Nat) : Nat := csrF s (dbBind d) 2 8
def dbNum (s : State) (d : Nat) : Nat := csrF s (dbBind d) 10 12

/-- A doorbell write that its page is not bound for. (DESIGN CHOICE; log entry 51.) -/
def dbRefuse (s : State) : State := raise s 0x7003 0x03 NOTE

def dbSignal (s : State) (d amount : Nat) : State :=
  if dbKind s d = 1 then signalOrErr s (dbTile s d) (dbNum s d) amount else dbRefuse s
def dbTally (s : State) (d amount : Nat) : State :=
  if dbKind s d = 2 then tallyOrErr s (dbTile s d) (dbNum s d) amount else dbRefuse s
def dbWq (s : State) (d tail : Nat) : State :=
  if dbKind s d = 3 then wqAdvance s (dbNum s d / 256) (dbNum s d % 256) tail else dbRefuse s

/-- The effect of a doorbell write by the offset of its register in the page. -/
def dbApply (s : State) (e : Nat × Nat × Nat) : State :=
  match e.2.1 with
  | 0x00 => dbSignal s e.1 e.2.2
  | 0x08 => dbTally s e.1 e.2.2
  | 0x20 => dbWq s e.1 e.2.2
  | _ => s

/-- A doorbell write releases the host's earlier BAR2 writes: it waits for their mirrors, and for the doorbells before it (R302, Table 17-3). -/
def dbWrite (s : State) (d off v : Nat) : State :=
  if agentPending s hostAgent || s.dbHeld != [] then { s with dbHeld := s.dbHeld ++ [(d, off, v)] } else dbApply s (d, off, v)

/-- The host's writes are performed: the doorbells that waited have their effect. -/
def dbRelease (s : State) : State :=
  if agentPending s hostAgent then s else s.dbHeld.foldl dbApply { s with dbHeld := [] }

/-- HST_DB_VALUE of a page. -/
def dbValue (s : State) (d : Nat) : Nat :=
  if dbKind s d = 1 then semVal s (dbTile s d) (dbNum s d) else if dbKind s d = 2 then tallyVal s (dbTile s d) (dbNum s d) else 0

end Sys2Proof.Machine
end

