-- ==== Sys2Proof/Machine/LedgerOps.lean ====
section
/-! DEFINITION. The ledger: accepting messages, classes and escalation, acting on a level, isolation, the HALT sequence, acknowledgement,
fault injection and the heartbeat (chapter 20). -/

namespace Sys2Proof.Machine

def ldgCnt (k : Nat) : Nat := ldgCsr (0x40 + 8 * k)
def faultN (s : State) : Nat := csrF s (ldgCsr 0x08) 0 11
def faultWindow (s : State) : Nat := csrF s (ldgCsr 0x08) 11 16 * 1000000
def graceNs (s : State) : Nat := csrF s (ldgCsr 0x08) 27 14 * 1000000
def quietNs (s : State) : Nat := csrF s (ldgCsr 0x08) 41 17 * 1000000
def coalesceNs (s : State) : Nat := csrF s (ldgCsr 0x10) 0 14 * 1000

/-- The module is in HALT. -/
def halted (s : State) : Bool := csrF s (ldgCsr 0x18) 0 1 == 1

/-- The reported level of a kind (Table 20-3). -/
def kindLevel (k : Nat) : Nat :=
  if [0x14, 0x31, 0x38, 0x39, 0x42, 0x50].contains k then 2
  else if k = 0x43 ∨ k = 0x45 then 3
  else if k = 0x15 ∨ (0x20 ≤ k ∧ k ≤ 0x29 ∧ k ≠ 0x26 ∧ k ≠ 0x28) ∨ k = 0x33 ∨ k = 0x34 ∨ k = 0x51 then 1
  else 0

/-- The ceiling of a kind (Table 20-3). -/
def kindCeiling (k : Nat) : Nat :=
  if [0x10, 0x11, 0x12, 0x40, 0x41, 0x44, 0x47, 0x49, 0x52].contains k then 2
  else if k = 0x46 ∨ k = 0x50 ∨ k = 0x51 then 3
  else kindLevel k

/-! ### Classes (R515) -/

def classAt (s : State) (n : Nat) : Option ClassEnt := tabGet (fun _ => none) s.ledger.classes n
def setClass (s : State) (n : Nat) (c : Option ClassEnt) : State :=
  { s with ledger := { s.ledger with classes := tabSet (fun _ => none) s.ledger.classes n c } }

/-- The entry of a class, if it has one. -/
def classOf (s : State) (src kind : Nat) : Option (Nat × ClassEnt) :=
  s.ledger.classes.findSome? (fun e => match e.2 with
    | some c => if c.source = src ∧ c.kind = kind then some (e.1, c) else none
    | none => none)

/-- The lowest key that a rising list of keys leaves free, from `n`. -/
def firstGap : Nat → List Nat → Nat
  | n, [] => n
  | n, k :: ks => if n < k then n else firstGap (k + 1) ks

/-- The entry that has gone longest without an event, with P 0 and nothing pending. -/
def oldestClass : List (Nat × Option ClassEnt) → Option (Nat × Nat)
  | [] => none
  | (n, e) :: rest =>
    let r := oldestClass rest
    match e with
    | some c =>
      if n < 1023 ∧ c.p = 0 ∧ c.pending.isNone then (match r with
        | some x => if x.2 < c.lastSeen then some x else some (n, c.lastSeen)
        | none => some (n, c.lastSeen))
      else r
    | none => r

def ClassEnt.fresh (src kind : Nat) : ClassEnt :=
  { source := src, kind := kind, p := 0, times := [], recoveries := 0, last := none, lastSeen := 0, pending := none, graceAt := none }

/-- The entry a class records in: its own, a free one, the one longest without an event, or the overflow entry. -/
def classSlot (s : State) (src kind : Nat) : Nat × ClassEnt :=
  match classOf s src kind with
  | some x => x
  | none =>
    let g := firstGap 0 (s.ledger.classes.map (·.1))
    if g < 1023 then (g, ClassEnt.fresh src kind)
    else match oldestClass s.ledger.classes with
      | some (n, _) => (n, ClassEnt.fresh src kind)
      | none => match classAt s 1023 with
        | some c => (1023, { c with source := src, kind := kind })
        | none => (1023, ClassEnt.fresh src kind)

/-! ### Recording (R527) -/

/-- A message's TIME extended to 64 bits (R513). -/
def extendTime (s : State) (m : Msg) : Nat := s.now - (s.now + 2 ^ 40 - m.time.toNat) % 2 ^ 40

/-- A message with its level and flags as recorded, as 128 bits (Table 20-1). -/
def msgWord (r : LogRec) : Nat :=
  r.msg.source.toNat + r.msg.kind.toNat * 2 ^ 16 + r.level * 2 ^ 24 + bit r.msg.addrValid * 2 ^ 26 + bit r.msg.injected * 2 ^ 27 +
    bit r.escalated * 2 ^ 28 + bit r.twin * 2 ^ 29 + r.msg.addr.toNat * 2 ^ 32 + r.msg.time.toNat * 2 ^ 88

/-- A log record (Table 20-6). -/
def recBytes (r : LogRec) : List Byte :=
  leBytes 16 (msgWord r) ++ leBytes 8 r.time ++
    leBytes 8 (r.seq % 2 ^ 32 + r.count * 2 ^ 32 + r.reported * 2 ^ 44 + r.slot * 2 ^ 46 + r.device * 2 ^ 50)

/-- Write a record to the die ring; at CONTAIN and above it goes on to the flash log and the twin. (DESIGN CHOICE; log entry 53.) -/
def recordMsg (s : State) (m : Msg) (time level : Nat) (escalated : Bool) : LogRec × State :=
  let seq := s.ledger.nextSeq
  let r : LogRec := { msg := m, escalated := escalated, twin := false, level := level, time := time, seq := seq, count := 1,
                      reported := m.level.toNat, slot := (slotOfSource s m.source.toNat).getD 15, device := ownId s }
  let l := s.ledger
  let l := { l with ring := tabInsert l.ring (seq % 4096) (some r), nextSeq := (seq + 1) % 2 ^ 32 }
  let l := if 1 ≤ level ∧ !l.isoFlash then { l with backlog := l.backlog ++ [r] } else l
  let s := csrAdd { s with ledger := l } (ldgCnt 0) 1
  (r, if 1 ≤ level then stewardMirror s (leBytes 1 9 ++ recBytes r) else s)

/-- One more event coalesced into a record, wherever the record still stands. (DESIGN CHOICE; log entry 53.) -/
def bumpRec (s : State) (seq : Nat) : State :=
  let up (r : LogRec) : LogRec := if r.seq = seq then { r with count := min (r.count + 1) 4095 } else r
  let l := s.ledger
  { s with ledger := { l with ring := l.ring.map (fun e => if e.1 = seq % 4096 then (e.1, e.2.map up) else e), backlog := l.backlog.map up } }

/-! ### HALT (Table 20-5) -/

/-- Every run ends in a state, every tile stops without draining. -/
def stopAll (s : State) (state : Nat) : State :=
  let s := (activeSlots s).foldl (fun s i => runStop s i state) s
  clearTiles s ((List.range 256).filter (fun t => tileOf s t != Tile.init))

/-- Own requests are fenced: their answers are discarded, mirror packets already sent excepted. -/
def fenceReqs (s : State) : State :=
  { s with reqs := s.reqs.map (fun r => match r.cont with
      | .mirror _ _ => r
      | _ => { r with discard := true, cont := .none_ }) }

/-- The HEARTBEAT output is held low. (DESIGN CHOICE; log entry 63.) -/
def heartOff (s : State) : State := { s with pins := { s.pins with heartbeat := false, heartbeatOn := false } }

/-- The HALT sequence: nothing where the module is in HALT already; in Rest it follows the exit (R543). -/
def haltNow (s : State) (src kind addr : Nat) : State :=
  if halted s then s
  else if s.rest ≠ 0 then { s with ledger := { s.ledger with haltNext := some (s.ledger.haltNext.getD (src, kind, addr)) } }
  else
    let s := csrSetF s (ldgCsr 0x18) 0 1 1
    let s := (activeSlots s).foldl (fun s i => match runOf s i with
      | some (_, r) => setRun s i { r with faultSource := src, faultCause := kind, faultAddr := addr }
      | none => s) s
    let s := noticeAll (fenceReqs (stopAll s 5)) 0x03 0 (ownId s) 0
    heartOff s

/-- ALERT# is asserted (R570). -/
def assertAlert (s : State) : State := { s with pins := { s.pins with alert := true } }

/-! ### Acting on a level (R517, R523) -/

/-- Where a DEGRADE of this source goes straight to HALT (Table 20-4). -/
def degradeHalts (src : Nat) : Bool :=
  src / 0x1000 == 3 || src / 0x1000 == 8 || src / 0x1000 == 0xB || src == 0xA000

/-- Isolation of a source (Table 20-4). -/
def isolate (s : State) (src : Nat) : State :=
  let l := s.ledger
  match src / 0x1000 with
  | 0 => { s with ledger := { l with isoTiles := if l.isoTiles.contains (src % 256) then l.isoTiles else l.isoTiles ++ [src % 256] } }
  | 1 =>
    let x := (src / 16 % 16, src % 16)
    if src / 256 % 16 = 1 then { s with ledger := { l with isoSlices := if l.isoSlices.contains x then l.isoSlices else l.isoSlices ++ [x] } } else s
  | 2 => if csrF s (chanAddr (src % 512) 0) 0 2 = 0 then csrSetF s (chanAddr (src % 512) 0) 0 2 1 else s
  | 4 => csrSetF s (fabCsr (0x100 + 8 * (src % 32))) 0 3 0
  | 10 => if src = 0xA001 then { s with ledger := { l with isoFlash := true } } else s
  | _ => s

/-- The steward acknowledges a memory package's stage-3 DEGRADE as soon as its limit is in force, which it is when the stage is reported (R416). -/
def stewardAcks (r : LogRec) (level : Nat) : Bool := r.msg.kind.toNat == 0x40 && r.msg.source.toNat / 4096 == 2 && level == 2

/-- A recorded level takes effect; what is done at HALT beside it is done by the caller. -/
def actLevel (s : State) (n : Nat) (r : LogRec) (level : Nat) : State :=
  if level = 0 then s
  else
    let s := if 2 ≤ level then assertAlert s else s
    let s := match classAt s n with
      | some c =>
        if stewardAcks r level then setClass s n (some { c with pending := none, graceAt := none })
        else setClass s n (some { c with pending := some r, graceAt := if halted s ∨ level = 3 then c.graceAt else some (s.now + graceNs s) })
      | none => s
    let s := if level = 3 then haltNow s r.msg.source.toNat r.msg.kind.toNat r.msg.addr.toNat else s
    let s := evqPost s 0x02 r.msg.source.toNat level r.seq r.msg.addr.toNat
    if level = 2 ∧ !halted s ∧ [0x10, 0x11, 0x12, 0x50, 0x51].contains r.msg.kind.toNat then isolate s r.msg.source.toNat else s

/-- Record at a level and act; a DEGRADE that isolates a unit the module cannot do without is raised to HALT at once.
(DESIGN CHOICE; log entry 53.) -/
def recordAct (s : State) (n : Nat) (m : Msg) (time level : Nat) (escalated : Bool) : State :=
  let (r, s) := recordMsg s m time level escalated
  let s := match classAt s n with
    | some c => setClass s n (some { c with last := some (time, r.seq) })
    | none => s
  let s := actLevel s n r level
  if level = 2 ∧ !halted s ∧ [0x10, 0x11, 0x12, 0x50, 0x51].contains m.kind.toNat ∧ degradeHalts m.source.toNat then
    let (r, s) := recordMsg s m time 3 true
    let s := match classAt s n with
      | some c => setClass s n (some { c with last := some (time, r.seq) })
      | none => s
    actLevel s n r 3
  else s

/-! ### Accepting (R516) -/

/-- FAULT_N event times within FAULT_WINDOW; newest first. -/
def windowFull (s : State) (times : List Nat) : Bool :=
  decide (faultN s ≤ times.length) &&
    (match times.head?, times.getLast? with
     | some a, some b => decide (max a b - min a b ≤ faultWindow s)
     | _, _ => false)

/-- One message is handled. A reported CONTAIN on a running plan's path also makes the steward stop that plan (R522). -/
def acceptMsg (s : State) (m : Msg) : State :=
  let src := m.source.toNat
  let kind := m.kind.toNat
  let time := extendTime s m
  let stop (s : State) : State :=
    if m.level = 1 then (match slotOfSource s src with
      | some i => planStop s i src kind m.addr.toNat
      | none => s) else s
  let (n, c) := classSlot s src kind
  let coalesced := match c.last with
    | some (t, _) => decide (time < t + coalesceNs s)
    | none => false
  if coalesced then
    let s := match c.last with
      | some (_, seq) => bumpRec s seq
      | none => s
    let pend := c.pending.map (fun r => if some r.seq = c.last.map (·.2) then { r with count := min (r.count + 1) 4095 } else r)
    stop (csrAdd (setClass s n (some { c with pending := pend })) (ldgCnt 1) 1)
  else
    let rep := c.pending.isSome && !halted s
    let s := if rep then csrAdd s (ldgCnt 3) 1 else s
    let p := if rep then min (c.p + 1) 3 else c.p
    let level := min (m.level.toNat + p) 3
    let times := (time :: c.times).take (faultN s)
    let prom := windowFull s times && decide (level < kindCeiling kind)
    let s := if prom then csrAdd s (ldgCnt 2) 1 else s
    let p := if prom then min (p + 1) 3 else p
    let level := if prom then level + 1 else level
    let s := setClass s n (some { c with p := p, times := if prom then [] else times, lastSeen := time })
    stop (recordAct s n m time level (decide (m.level.toNat < level)))

/-- A NOTE that the ledger itself records. -/
def ownNote (s : State) (kind addr : Nat) : State :=
  let m : Msg := { source := 0xB000, kind := BitVec.ofNat 8 kind, level := 0, addrValid := false, injected := false,
                   addr := BitVec.ofNat 56 addr, time := BitVec.ofNat 40 s.now }
  let (n, c) := classSlot s 0xB000 kind
  recordAct (setClass s n (some { c with lastSeen := s.now })) n m s.now 0 false

/-- Checkers that hold messages send them as space comes. -/
def drainHeld (s : State) : State :=
  let l := s.ledger
  let k := 32 - l.queue.length
  { s with ledger := { l with queue := l.queue ++ l.held.take k, held := l.held.drop k } }

/-- FAULT_MESSAGE: an event from a checker outside the model's steps joins the queue, and the message at the head is accepted.
(DESIGN CHOICE; log entry 53.) -/
def execFaultMessage (m : Option Msg) (s : State) : Res :=
  let s' := match m with
    | some m => sendMsg s m
    | none => s
  match s'.ledger.queue with
  | [] => absent "no message waits"
  | h :: rest =>
    let s := drainHeld { s' with ledger := { s'.ledger with queue := rest } }
    let s := acceptMsg s h
    .next (if s.ledger.queue = [] ∧ s.ledger.dropped then ownNote { s with ledger := { s.ledger with dropped := false } } 0x59 0 else s)

/-- GRACE passes without acknowledgement (R519). -/
def execGraceExpiry (source : BitVec 16) (kind : BitVec 8) (time : Nat) (s : State) : Res :=
  match classOf s source.toNat kind.toNat with
  | some (n, c) =>
    match c.pending, c.graceAt with
    | some r, some g =>
      if halted s ∨ time < g ∨ time < s.now then absent "the grace timer has not run out"
      else
        let s := csrAdd (setClass (atTime s time) n (some { c with p := min (c.p + 1) 3 })) (ldgCnt 4) 1
        .next (recordAct s n r.msg r.time (min (r.level + 1) 3) true)
    | _, _ => absent "nothing of the class is pending"
  | none => absent "no such class"

/-- A promoted class has been quiet for QUIET_PERIOD (R521). -/
def execQuietPeriod (source : BitVec 16) (kind : BitVec 8) (time : Nat) (s : State) : Res :=
  match classOf s source.toNat kind.toNat with
  | some (n, c) =>
    if halted s ∨ c.p = 0 ∨ c.pending.isSome ∨ time < s.now ∨ time < c.lastSeen + quietNs s then absent "the class is not due to recover"
    else
      let s := setClass (atTime s time) n (some { c with p := 0, times := [], recoveries := min (c.recoveries + 1) (2 ^ 21 - 1) })
      .next (ownNote (csrAdd s (ldgCnt 5) 1) 0x58 (source.toNat + kind.toNat * 2 ^ 16))
  | none => absent "no such class"

/-! ### Acknowledgement and injection -/

/-- A class's pending record is acknowledged; CLEAR also takes its promotion and event times. -/
def ackClass (s : State) (src kind : Nat) (clear : Bool) : State :=
  match classOf s src kind with
  | none => s
  | some (n, c) =>
    let c := { c with pending := none, graceAt := none }
    setClass s n (some (if clear then { c with p := 0, times := [] } else c))

/-- A steward's write of LDG_ACK. -/
def ldgAckEff (s : State) (v : Word) : State := ackClass s (getF v 0 16) (getF v 16 8) (getF v 24 1 == 1)

/-- Arm an injection of `count` checks (R528). -/
def armInj (s : State) (src kind count : Nat) : State :=
  if count = 0 ∨ !([0x10, 0x11, 0x12, 0x30].contains kind) then s
  else { s with ledger := { s.ledger with inj := s.ledger.inj ++ [⟨src, kind, count, csrF s (ldgCsr 0x30) 0 45⟩] } }

/-- A steward's write of LDG_INJ with ARM set. -/
def ldgInjEff (s : State) (v : Word) : State :=
  if getF v 40 1 = 1 ∧ csrF s (ldgCsr 0) 1 1 = 1 then armInj s (getF v 0 16) (getF v 16 8) (getF v 24 16) else s

/-! ### Heartbeat (R526) -/

/-- HEARTBEAT starts with READY. (DESIGN CHOICE; log entry 63.) -/
def heartOn (s : State) : State := { s with pins := { s.pins with heartbeatOn := true, heartbeatAt := s.now } }

/-- DESIGN CHOICE; log entry 63. -/
def execHeartbeatToggle (time : Nat) (s : State) : Res :=
  if !s.pins.heartbeatOn ∨ time < s.now ∨ time < s.pins.heartbeatAt + 500000 then absent "HEARTBEAT does not toggle now"
  else
    let s := atTime s time
    .next { s with pins := { s.pins with heartbeat := !s.pins.heartbeat, heartbeatAt := time } }

/-! ### Registers derived from the ledger's state -/

/-- The level of a class that is active: its pending record's, or its reported level raised by P. -/
def classLevel (c : ClassEnt) : Nat :=
  match c.pending with
  | some r => r.level
  | none => if c.p = 0 then 0 else min 3 (kindLevel c.kind + c.p)

def maxLevel (s : State) : Nat := s.ledger.classes.foldl (fun m e => max m ((e.2.map classLevel).getD 0)) 0

def ldgStatus (s : State) : Word :=
  let pend := s.ledger.classes.countP (fun e => (e.2.map (fun c => c.pending.isSome)).getD false)
  BitVec.ofNat 64 (bit (halted s) + maxLevel s * 2 + pend * 2 ^ 3 + s.ledger.backlog.length % 2 ^ 18 * 2 ^ 14 + s.ledger.nextSeq * 2 ^ 32)

/-- LDG_CLASS[n], first and second word. -/
def ldgClass (s : State) (n : Nat) (second : Bool) : Word :=
  match classAt s n with
  | none => 0
  | some c =>
    if second then BitVec.ofNat 64 ((c.last.map (·.1)).getD 0)
    else BitVec.ofNat 64 (c.source + c.kind * 2 ^ 16 + c.p * 2 ^ 24 + bit c.pending.isSome * 2 ^ 26 + 2 ^ 27 + c.times.length * 2 ^ 32 +
      c.recoveries * 2 ^ 43)

/-- Word `w` of the die ring. -/
def dieRingWord (s : State) (w : Nat) : Word :=
  match tabGet (fun _ => none) s.ledger.ring (w / 4) with
  | some r => BitVec.ofNat 64 (ofLE ((recBytes r).drop (8 * (w % 4)) |>.take 8))
  | none => 0

end Sys2Proof.Machine
end

