-- ==== Sys2Proof/Machine/Answers.lean ====
section
/-! DEFINITION. What the answer to a request of this module does: data, an acknowledgement, or a failure, for every agent that sends
requests (R182, R308, R436, R458–R461, R465). -/

namespace Sys2Proof.Machine

/-! ### Mirrored writes (Table 17-3 step 5, R460, R461) -/

def twinState (s : State) : Nat := csrF s (twnCsr 0x10) 0 3
def twinId (s : State) : Nat := csrF s (twnCsr 0x10) 3 11
def setTwinState (s : State) (st : Nat) : State := csrSetF s (twnCsr 0x10) 0 3 st

/-- Record a cause in TWN_ERR unless one is held. -/
def twinErr (s : State) (cause : Nat) : State := errOnce s (twnCsr 0x18) 8 cause

/-- TWN_STATUS takes a new state, and the event ring reports it (Table 18-9). -/
def enterTwin (s : State) (st : Nat) : State :=
  if twinState s = st then s else evqPost (setTwinState s st) 0x06 0x6000 0 st 0

/-- The answer owed under a key goes out. -/
def payOwed (s : State) (key : Nat) : State :=
  match s.owed.find? (fun o => o.key == key) with
  | some o => answer { s with owed := s.owed.filter (fun x => x.key != key) } o.kind o.dst o.tag o.data o.poison
  | none => s

/-- What may have waited for an agent's writes goes on. -/
def pokeAgent (s : State) (a : Nat) : State :=
  let t := a / 32
  let u := a % 32
  if a = hostAgent then dbRelease s
  else if u = 1 then fgrPump s t else if u = 2 then combSettle s t else if 16 ≤ u then prtNext s t (u - 16) else s

/-- The last mirror of a write is answered: the write is performed, and a remote requester has its answer. -/
def mirrorDone (s : State) (owners : List Nat) (key : Option Nat) : State :=
  let s := match key with
    | some k =>
      if s.reqs.any (fun r => match r.cont with
        | .mirror _ k' => k' == some k
        | _ => false) then s else payOwed s k
    | none => s
  owners.foldl pokeAgent s

/-- Every mirrored write that waits completes with its local copy alone (R461). -/
def mirrorsEnd (s : State) : State :=
  let ms := s.reqs.filterMap (fun r => match r.cont with
    | .mirror owners key => some (owners, key)
    | _ => none)
  let s := { s with reqs := s.reqs.filter (fun r => r.kind != kMIRROR) }
  ms.foldl (fun s m => mirrorDone s m.1 m.2) s

/-- SPLIT: mirroring stops, and DEGRADE is recorded (R460, R462). -/
def splitNow (s : State) (cause : Nat) : State :=
  let s := mirrorsEnd (enterTwin (twinErr s cause) 3)
  raise { s with twin := { s.twin with probing := none } } 0x6000 0x38 DEGRADE

/-- Ledger source of an agent: its tile and unit. -/
def agentSrc (a : Nat) : Nat :=
  let u := a % 32
  if a = hostAgent then 0x6000 else if 256 ≤ a / 32 then 0x3200 else tileSrc (if 16 ≤ u then 5 else u) (a / 32)

/-- The twin holds no shadow for a mirrored write: CONTAIN at its writers, and SPLIT (R460). A write of a peer or the host, and the steward's
own, has the twin as its source. -/
def mirrorRefused (s : State) (owners : List Nat) (key : Option Nat) (addr : Nat) : State :=
  let srcs := if owners = [] then [0x6000] else owners.map agentSrc
  let s := srcs.foldl (fun s x => raise s x 0x24 CONTAIN (some (globalOf s addr))) s
  splitNow (mirrorDone s owners key) 3

/-! ### Failures -/

/-- The core's access in a slot. -/
def accOf (s : State) (t slot : Nat) : Option CoreAcc := (coreOf s t).accs.find? (fun a => a.slot == slot)

/-- A request failed whose requester is no tile unit: it raises CONTAIN from source `src`, the steward's 0x8000 for copies and claims, the pantry's for
a preload (R33, R182). (DEDUCED; log entry 32.) -/
def refusedAt (s : State) (src : Nat) (r : Req) : State := raise s src 0x24 CONTAIN (some (r.dst * 2 ^ 45 + r.addr))

/-- A request has failed, with an ERROR code or NO_TARGET (R34, R182). The caller has taken it off the list. -/
def failCont (s : State) (r : Req) (code : Nat) : State :=
  let fc := if code = eNO_TARGET then 0x0B else 0x0A
  match r.cont with
  | .coreAcc t slot => match accOf s t slot with
    | some a => coreFailTask (dropAcc s t slot) t 8 a.pc a.tag
    | none => s
  | .fetch t slot => fgrReqFail s t slot none fc
  | .fgrWrite t slot job => fgrReqFail s t slot (some job) fc
  | .fgrAtom t slot job bitIx res _ =>
    match jobOf s t job with
    | some j =>
      if code = ePOISONED then
        let (v, s) := freshFree s
        fgrReqFail (poisonResult s t (getB j.q.desc 8) res ((res.map (·.2)) == some 1) bitIx v.toNat) t slot (some job) 9
      else fgrReqFail s t slot (some job) fc
    | none => fgrReqFail s t slot (some job) fc
  | .combWrite t owner desc tag =>
    if 1000000 ≤ owner then combSettle (combFailAs s t 2 (owner - 1000000) desc tag 0x24) t
    else match jobOf s t owner with
      | some j => jobFailAs s t j (combCause 2) 0x24
      | none => s
  | .combRead t => match (cmbOf s t).busy with
    | some q => combStopAs s t 2 q 0x24
    | none => s
  | .chunkRead t c _ _ => streamReqFail s t c
  | .chunkWrite t c _ => streamReqFail s t c
  | .index t c => streamReqFail s t c
  | .partialRow t owner _ desc tag => partialDone s t owner desc tag false fc
  | .vecStat t => vecStatFail s t
  | .sync t pc tag => coreFailTask s t 8 pc tag
  | .waySig t c => streamReqFail s t c
  | .mirror owners key => mirrorRefused s owners key r.addr
  | .hubClaim slot pool .. => claimFailed (refusedAt s 0x8000 r) slot pool
  | .copyRead table row _ => copyFail (refusedAt s 0x8000 r) table row
  | .copyWrite table row => copyFail (refusedAt s 0x8000 r) table row
  | .preload c g _ => refusedAt s (0x1100 + 16 * c + panSet g % 16) r
  | _ => s

/-- A request fails: it leaves the list. A discarded one has no one to tell. -/
def failReq (s : State) (r : Req) (code : Nat) : State :=
  let s := reqDone s r
  if r.discard then s else failCont s r code

/-! ### Acknowledgements and data -/

/-- An acknowledgement (R308). -/
def ackCont (s : State) (r : Req) : State :=
  match r.cont with
  | .coreAcc t slot => match accOf s t slot with
    | some a => if a.store then dropAcc s t slot else loadDone s t a 0 false
    | none => s
  | .fgrWrite t slot job => fgrAck s t slot job
  | .fgrAtom t slot job _ _ _ => fgrAck s t slot job
  | .combWrite t owner _ _ =>
    let s := combSettle s t
    if 1000000 ≤ owner then s
    else match jobOf s t owner with
      | some _ => fgrPump s t
      | none => s
  | .chunkWrite t c n => chunkAnswered s t c n r.len
  | .partialRow t owner _ desc tag => combSettle (partialDone s t owner desc tag true 0) t
  | .waySig t c => waySigDone s t c
  | .mirror owners key => mirrorDone s owners key
  | .copyWrite table row => copyWritten s table row
  | .moved => movedAcked s
  | _ => s

/-- Data for a read, or the old value of an atomic. -/
def dataCont (s : State) (r : Req) (bs : List Byte) (psn : Bool) : State :=
  match r.cont with
  | .coreAcc t slot => match accOf s t slot with
    | some a => loadDone s t a (ofLE bs) psn
    | none => s
  | .fetch t slot => fetchDone s t slot (r.dst * 2 ^ 45 + r.addr) bs psn
  | .fgrAtom t slot job bitIx res visit => fgrOld s t slot job bitIx res visit (ofLE bs)
  | .combRead t =>
    let c := cmbOf s t
    match c.busy with
    | some q => mergeOpenTry (setCmb s t { c with cache := c.cache ++ [⟨r.dst * 2 ^ 45 + r.addr, r.len, bs, psn⟩] }) t q
    | none => s
  | .chunkRead t c n off => chunkData s t c n off bs psn
  | .index t c => indexDone s t c (ofLE bs)
  | .hubClaim slot pool n v hdr i => claimAnswered s slot pool n v hdr i (r.kind == kATOMIC) bs
  | .copyRead table row off => copyData s table row off bs psn
  | .preload c g lock =>
    match (panOf s c).preload with
    | some p => preloadLine s c g p.cls bs psn lock p.dropped
    | none => s
  | _ => s

/-- A late or unexpected answer is discarded and counted at the port it came on (R448, Table 16-13). -/
def discardAt (s : State) (port : Nat) : State := if port < 24 then csrAdd s (fabCsr (0x8048 + 0x80 * port)) 1 else s

/-- An answer arrives: it goes to the request with its tag. -/
def answered (s : State) (port tag : Nat) (ok : Req → Bool) (eff : State → Req → State) : State :=
  match reqOf s tag with
  | some r =>
    if !ok r || r.held then discardAt s port
    else if r.discard then discardAt (reqDone s r) port
    else eff (reqDone s r) r
  | none => discardAt s port

end Sys2Proof.Machine
end

