-- ==== Sys2Proof/Machine/Links.lean ====
section
/-! DEFINITION. Fabric links: flits and replay, retraining, link training and the checks of cabling (R422–R426, R450, R451). -/

namespace Sys2Proof.Machine

def portAddr (p : Nat) : Nat := fabCsr (0x100 + 8 * p)
def glinkAddr (i : Nat) : Nat := fabCsr (0x200 + 8 * i)
def peerAddr (d : Nat) : Nat := fabCsr (0x4000 + 8 * d)
def portCnt (p k : Nat) : Nat := fabCsr (0x8000 + 0x80 * p + k)
def portState (s : State) (p : Nat) : Nat := csrF s (portAddr p) 0 3

/-- The own entry of the group's link map follows port `p` (Table 16-11). -/
def glinkSync (s : State) (p : Nat) : State :=
  if p < 15 ∨ 22 < p then s
  else
    let m := ownId s % 16
    let j := p - 15
    let far := csrF s (portAddr p) 4 11
    let fp := csrF s (portAddr p) 15 5
    csrPut s (glinkAddr (8 * m + j)) (BitVec.ofNat 64 (m + j * 2 ^ 4 + far / 16 * 2 ^ 7 + far % 16 * 2 ^ 14 + (fp + 1) % 8 * 2 ^ 18 +
      bit (portUp s p) * 2 ^ 21))

def setPortState (s : State) (p st : Nat) : State := glinkSync (csrSetF s (portAddr p) 0 3 st) p

/-! ### Flits (R426) -/

/-- Flits of the retry buffer after `ack`: those up to and including it have arrived. -/
def ackRetry (retry : List Nat) (ack : Nat) : List Nat :=
  if retry.contains ack then (retry.dropWhile (fun x => x != ack)).drop 1 else retry

/-- Credit returns free units at the far end. (DESIGN CHOICE; log entry 32.) -/
def creditBack (units : List ((Nat × Nat) × Nat)) (cs : List (BitVec 3 × BitVec 3 × BitVec 6)) : List ((Nat × Nat) × Nat) :=
  cs.foldl (fun u c => u.map (fun e => if e.1 = (c.1.toNat, c.2.1.toNat) then (e.1, e.2 - c.2.2.toNat) else e)) units

/-- A NAK replays every flit still held: they are counted, with at most one NOTE a millisecond. -/
def replay (s : State) (p : Nat) : State :=
  let l := linkOf s p
  let n := l.retry.length
  if n = 0 then s
  else
    let fresh := decide (l.window + 1000000 ≤ s.now)
    let s := csrAdd (setLink s p { l with replays := if fresh then n else l.replays + n, window := if fresh then s.now else l.window }) (portCnt p 0x30) n
    let due := match l.noted with
      | some t => decide (t + 1000000 ≤ s.now)
      | none => true
    if due then raise (setLink s p { linkOf s p with noted := some s.now }) (0x4000 + p) 0x30 NOTE else s

/-- Receipt of a flit on port `p`. (DESIGN CHOICE; log entry 32.) -/
def execFlit (p : BitVec 5) (f : Flit) (s : State) : Res :=
  let p := p.toNat
  if 24 ≤ p ∨ !portUp s p then absent "the port carries no flits"
  else
    let (e, _, s) := injected s (0x4000 + p) 0 0 (if f.fecOk && f.crcOk then .clean else .uncorrectable)
    let bad := e != .clean
    let s := csrAdd s (portCnt p 0x38) f.fecCorrected
    let s := if f.fecOk then s else csrAdd s (portCnt p 0x40) 1
    let l := linkOf s p
    if bad then .next (setLink s p { l with nakPending := true })
    else
      let l := { l with retry := ackRetry l.retry f.ack.toNat, units := creditBack l.units f.credits }
      let l := if f.seq.toNat = l.expect then { l with expect := (l.expect + 1) % 4096, nakPending := false } else { l with nakPending := true }
      let s := setLink s p l
      .next (if f.nak then replay s p else s)

/-! ### Retraining (R450) -/

/-- The width found by training or retraining. -/
def widthOf (lowOk highOk : Bool) : Nat := if lowOk && highOk then 0 else if lowOk then 1 else if highOk then 2 else 3

/-- A port comes up at a width, or stays down. -/
def portWidth (s : State) (p w : Nat) : State :=
  let s := csrSetF s (portAddr p) 3 1 (if w = 2 then 1 else 0)
  if w = 0 then setPortState s p 2
  else if w = 3 then raise (fabErr (setPortState s p 0) 3 p) (0x4000 + p) 0x31 DEGRADE
  else raise (fabErr (setPortState s p 3) 2 p) (0x4000 + p) 0x31 DEGRADE

/-- More than 64 flits replayed within 1 ms, or FEC lock lost: the port retrains. -/
def execPortRetrain (p : BitVec 5) (s : State) : Res :=
  let p := p.toNat
  if 24 ≤ p ∨ !portUp s p then absent "the port carries no traffic"
  else .next (fabErr (setPortState (setLink s p { linkOf s p with replays := 0 }) p 1) 1 p)

def execPortRetrainDone (p : BitVec 5) (lowOk highOk : Bool) (s : State) : Res :=
  let p := p.toNat
  if 24 ≤ p ∨ portState s p ≠ 1 ∨ (linkOf s p).step ≠ 5 then absent "the port is not retraining"
  else
    let w := widthOf lowOk highOk
    .next (portWidth (setLink s p { linkOf s p with width := w }) p w)

/-! ### Training (Table 16-9) -/

/-- Training of a port begins. -/
def trainBegin (s : State) (p : Nat) : State := setPortState (setLink s p Link.init) p 1

/-- Steps 4 and 5 of every trained port run again. -/
def trainAgain (s : State) : State :=
  (List.range 24).foldl (fun s p => if (linkOf s p).step = 5 ∧ portState s p ≠ 0 then setLink s p { linkOf s p with step := 3 } else s) s

/-- The far end of port `p` is as R422 and R423 ask. -/
def cabled (s : State) (p dev port : Nat) : Bool :=
  let m := ownId s % 16
  if p < 15 then
    let q := if p < m then p else p + 1
    dev / 16 == ownId s / 16 && dev % 16 == q && port == localPort q m
  else if p < 23 then decide (15 ≤ port ∧ port ≤ 22 ∧ dev / 16 ≠ ownId s / 16)
  else port == 23 && dev / 16 == ownId s / 16 && dev != ownId s && (csrF s (twnCsr 0x10) 0 3 == 0 || csrF s (twnCsr 0x10) 3 11 == dev)

/-- The own part of the link map and the devices that twins serve, as a message to the group (Table 16-9 step 5). The manual gives VC5
messages no layout. (DESIGN CHOICE; log entry 31.) -/
def linkMap (s : State) : List Byte :=
  let m := ownId s % 16
  leBytes 16 0x40 ++ (List.range 8).flatMap (fun j => leBytes 8 (csrGet s (glinkAddr (8 * m + j))).toNat) ++
    leBytes 256 (s.servedBy.foldl (fun n e => if n.testBit e.1 then n else n + 2 ^ e.1) 0) ++
    (s.servedBy.take 256).flatMap (fun e => leBytes 2 e.1 ++ leBytes 2 e.2)

def sendLinkMap (s : State) : State :=
  ((List.range 16).filter (fun m => m != ownId s % 16 && s.shape.contains (ownId s / 16 * 16 + m))).foldl
    (fun s m => sendMgmt s (ownId s / 16 * 16 + m) (linkMap s) .mgmt) s

/-- A group-mate's link map arrives. -/
def takeLinkMap (s : State) (src : Nat) (data : List Byte) : State :=
  let word (j : Nat) : Nat := ofLE ((data.drop (16 + 8 * j)).take 8)
  let s := (List.range 8).foldl (fun s j => csrPut s (glinkAddr (8 * (src % 16) + j)) (BitVec.ofNat 64 (word j % 2 ^ 22))) s
  let served := ofLE ((data.drop 80).take 256)
  let ps := (List.range (data.length / 4 - 84)).map (fun i => (ofLE ((data.drop (336 + 4 * i)).take 2), ofLE ((data.drop (338 + 4 * i)).take 2)))
  let s := { s with servedBy := s.servedBy ++ ps.filter (fun e => !s.servedBy.any (fun x => x.1 == e.1)) }
  (List.range 2048).foldl (fun s d => if served.testBit d then csrSetF s (peerAddr d) 5 1 1 else s) s

/-- The module's device ID is served by its twin (R468). -/
def displace (s : State) : State :=
  if csrF s (twnCsr 0x10) 0 3 = 6 then s else raise (csrSetF s (twnCsr 0x10) 0 3 6) 0x6000 0x39 NOTE

/-- A training step of port `p` completes. `lowOk` and `highOk` are the healthy lane sets of step 2, the neighbour is what step 4 learns,
`served` what step 5 learns of the own device ID. -/
def trainStep (s : State) (p : Nat) (lowOk highOk : Bool) (dev port : Nat) (served : Bool) : State :=
  let l := linkOf s p
  match l.step with
  | 1 =>
    let w := widthOf lowOk highOk
    if w = 3 then portWidth (setLink s p { l with step := 0, width := 3 }) p 3 else setLink s p { l with step := 2, width := w }
  | 3 =>
    let s := csrSetF (csrSetF s (portAddr p) 4 11 dev) (portAddr p) 15 5 port
    if !s.shape.contains dev then raise (setPortState (setLink s p { l with step := 5 }) p 5) (0x4000 + p) 0x32 NOTE
    else if !cabled s p dev port then
      raise (fabErr (setPortState (setLink s p { l with step := 5 }) p 4) 4 p) (0x4000 + p) 0x32 NOTE
    else setLink s p { l with step := 4 }
  | 4 =>
    let s := setLink s p { l with step := 5 }
    let s := sendLinkMap (if portUp s p then s else portWidth s p l.width)
    if served then displace (csrSetF s (peerAddr (ownId s)) 5 1 1) else s
  | n => setLink s p { l with step := n + 1 }

def execLinkTrainingStep (p : BitVec 5) (lowOk highOk : Bool) (nbrDevice : BitVec 11) (nbrPort : BitVec 5) (served : Bool) (s : State) : Res :=
  let p := p.toNat
  if 24 ≤ p ∨ 5 ≤ (linkOf s p).step ∨ ((linkOf s p).step < 3 ∧ portState s p ≠ 1) then absent "the port is not in training"
  else .next (trainStep s p lowOk highOk nbrDevice.toNat nbrPort.toNat served)

/-- FAB_STATUS as it reads now (Table 16-10). -/
def fabStatus (s : State) : Word :=
  let mask (f : Nat → Bool) (n : Nat) : Nat := (List.range n).foldl (fun m i => m + bit (f i) * 2 ^ i) 0
  BitVec.ofNat 64 (mask (portUp s) 24 + mask (fun p => portState s p == 3) 24 * 2 ^ 24 + mask (fun c => csrF s (collStateAddr c) 0 1 == 1) 16 * 2 ^ 48)

end Sys2Proof.Machine
end

