-- ==== Sys2Proof/Machine/Twin.lean ====
section
/-! DEFINITION. The twin: what it is sent, what this module holds for it, losing it, taking over, and pairing (chapter 17). Steward records
travel in MIRROR packets to an address outside DRAM; the manual gives them no layout, and this model's begin with a type byte (log entry 35). -/

namespace Sys2Proof.Machine

/-! ### Records sent -/

/-- The sections of a plan that its twin needs (Table 17-2), as numbered byte strings. The object values of SYNC are among them, for R467
writes them for the twin's share. -/
def planSections (p : Plan) : List (Nat × List Byte) :=
  [(1, p.code.flatMap (fun c => leBytes 1 c.1 ++ leBytes 3 c.2.length ++ c.2)), (2, p.phases.flatMap (fun e => leBytes 32 e.toNat)),
   (3, p.preloads.flatMap (fun e => leBytes 16 e.toNat)), (4, p.pools.flatMap (fun e => leBytes 8 e.toNat)),
   (5, p.queues.flatMap (fun e => leBytes 16 e.toNat)), (6, p.lists.flatMap (fun e => leBytes 16 e.toNat)),
   (7, p.regions.flatMap (fun i => leBytes 2 i)), (8, p.delta.flatMap (fun e => leBytes 16 e.toNat)),
   (9, p.sync.flatMap (fun e => leBytes 16 e.toNat))]

/-- Cut bytes into pieces of at most 1,024. -/
def pieces1k : Nat → List Byte → List (List Byte)
  | 0, _ => []
  | f + 1, bs => if bs = [] then [] else bs.take 1024 :: pieces1k f (bs.drop 1024)

/-- Send a loaded plan to the twin. -/
def sendShadowPlan (s : State) (slot : Nat) : State :=
  match planOf s slot with
  | none => s
  | some p =>
    let head := leBytes 1 5 ++ leBytes 1 slot ++ leBytes 1 (bit p.nondet + 2 * bit p.fabric + 4 * bit p.twinContinue) ++ leBytes 1 0 ++
      leBytes 2 p.clusterMask ++ leBytes 2 p.split ++ leBytes 8 p.id.toNat ++ leBytes 8 p.seed.toNat
    let s := stewardMirror s head
    let s := (planSections p).foldl (fun s x =>
      (pieces1k (x.2.length / 1024 + 1) x.2).foldl (fun s b => stewardMirror s (leBytes 1 6 ++ leBytes 1 x.1 ++ leBytes 6 0 ++ b)) s) s
    stewardMirror s (leBytes 1 7 ++ leBytes 1 slot ++ leBytes 6 0 ++ leBytes 8 p.id.toNat)

/-- A run's plan slot, PLAN_ID and seed. (DESIGN CHOICE; log entry 35.) -/
def runRecord (s : State) (slot : Nat) (id seed : Word) : State :=
  stewardMirror s (leBytes 1 2 ++ leBytes 1 slot ++ leBytes 6 0 ++ leBytes 8 id.toNat ++ leBytes 8 seed.toNat)

/-- A volatile setting or policy parameter. (DESIGN CHOICE; log entry 35.) -/
def settingRecord (s : State) (num value : Nat) : State :=
  stewardMirror s (leBytes 1 8 ++ leBytes 1 0 ++ leBytes 2 num ++ leBytes 4 0 ++ leBytes 8 value)

/-! ### Records received -/

/-- Cut bytes into records of `n`. -/
def cutEvery (n : Nat) : Nat → List Byte → List (List Byte)
  | 0, _ => []
  | f + 1, bs => if bs.length < n ∨ n = 0 then [] else bs.take n :: cutEvery n f (bs.drop n)

def words (w n : Nat) (bs : List Byte) : List (BitVec w) := (cutEvery n bs.length bs).map (fun b => BitVec.ofNat w (ofLE b))

/-- The programs of a CODE section as it was sent. -/
def codeOf : Nat → List Byte → List (Nat × List Byte)
  | 0, _ => []
  | f + 1, bs =>
    if bs.length < 4 then []
    else
      let n := ofLE ((bs.drop 1).take 3)
      (ofLE (bs.take 1), (bs.drop 4).take n) :: codeOf f (bs.drop (4 + n))

/-- The shadow plan whose head and sections have come. (DESIGN CHOICE; log entry 35.) -/
def shadowPlan (rx : List (Nat × List Byte)) : Plan :=
  let sec (k : Nat) : List Byte := (assocGet rx k).getD []
  let h := sec 0
  let n (o k : Nat) : Nat := ofLE ((h.drop o).take k)
  { id := BitVec.ofNat 64 (n 8 8), nondet := (n 2 1).testBit 0, fabric := (n 2 1).testBit 1, seed := BitVec.ofNat 64 (n 16 8),
    clusterMask := n 4 2, phases := words 256 32 (sec 2), preloads := words 128 16 (sec 3), pools := words 64 8 (sec 4),
    queues := words 128 16 (sec 5), lists := words 128 16 (sec 6), code := codeOf (sec 1).length (sec 1),
    regions := (words 16 2 (sec 7)).map (·.toNat), attrs := [], delta := words 128 16 (sec 8), doorbells := [], sync := words 128 16 (sec 9),
    coll := [], tables := [], twinContinue := (n 2 1).testBit 2, split := n 6 2, run := none }

/-- Attributes a shadow is placed with: the twin's own mode where it fits here, else another (R456: the placement is this module's). -/
def shadowTries (s : State) (attr : Word) : List Word :=
  let size := getF attr 0 27
  let with_ (m t : Nat) : Word := setF (setF attr 28 2 m) 30 9 t
  let m := getF attr 28 2
  ([(m, if m < 2 then 0 else 511), (2, 511), (3, 511), (0, 0), (1, 0)].filter (fun x => sizeLegal s x.1 size)).map (fun x => with_ x.1 x.2)

/-- Place a shadow of the twin's region `idx`; one that stands is told the twin's new words only. `none` where it does not fit.
(DESIGN CHOICE; log entry 35.) -/
def placeShadow (s : State) (idx : Nat) (xaddr xattr : Word) : Option State :=
  let put (s : State) (x : Shadow) : State := { s with twin := { s.twin with shadows := s.twin.shadows.filter (fun y => y.idx != idx) ++ [x] } }
  match s.twin.shadows.find? (fun x => x.idx == idx && getF x.xattr 0 27 == getF xattr 0 27) with
  | some x => some (put s { x with xaddr := xaddr, xattr := xattr })
  | none =>
    let s := { s with twin := { s.twin with shadows := s.twin.shadows.filter (fun y => y.idx != idx) } }
    match (shadowTries s xattr).findSome? (findPlace s) with
    | some e =>
      let b := getF e.1 16 29 * 65536
      some (put (undefSpan s b (b + getF e.2 0 27 * 65536)) ⟨idx, xaddr, xattr, e.1, e.2, none⟩)
    | none => none

/-- A region that the twin gives back: at the index it had, with its attributes, and OWNER 8 (R469). -/
def regionBack (s : State) (idx : Nat) (xattr : Word) : Option State :=
  let s := if rgnValid s idx then csrSetF s (rgnAttr idx) 27 1 0 else s
  (shadowTries s (setF (setF xattr 27 1 0) 48 4 8)).findSome? (fun a => placeAt s idx a)

/-- A ledger record of the twin as it was sent (Table 20-6), tagged with its device. -/
def recOf (bs : List Byte) : LogRec :=
  let w := BitVec.ofNat 128 (ofLE (bs.take 16))
  let x := BitVec.ofNat 64 (ofLE ((bs.drop 24).take 8))
  { msg := { source := BitVec.ofNat 16 (getF w 0 16), kind := BitVec.ofNat 8 (getF w 16 8), level := BitVec.ofNat 2 (getF w 24 2),
             addrValid := getB w 26, injected := getB w 27, addr := BitVec.ofNat 56 (getF w 32 56), time := BitVec.ofNat 40 (getF w 88 40) },
    escalated := getB w 28, twin := true, level := getF w 24 2, time := ofLE ((bs.drop 16).take 8), seq := getF x 0 32, count := getF x 32 12,
    reported := getF x 44 2, slot := getF x 46 4, device := getF x 50 11 }

/-- The checkpoint a record holds: slot, ordinal, program index, open loops. -/
def checkpointOf (bs : List Byte) : Nat × Nat × Nat × List (Nat × Nat) :=
  let n (o k : Nat) : Nat := ofLE ((bs.drop o).take k)
  (n 1 1, n 4 4, n 16 8, (List.range (n 2 2)).map (fun i => (n (24 + 8 * i) 4, n (28 + 8 * i) 4)))

/-- The latest two checkpoints of a slot are held (Table 17-2). -/
def keepCheckpoint (l : List (Nat × Nat × Nat × List (Nat × Nat))) (c : Nat × Nat × Nat × List (Nat × Nat)) :
    List (Nat × Nat × Nat × List (Nat × Nat)) :=
  let same := l.filter (fun x => x.1 == c.1)
  l.filter (fun x => x.1 != c.1) ++ (same.drop (same.length - 1)) ++ [c]

/-- A steward record of the twin is taken; `none` where what it asks for does not fit. (DESIGN CHOICE; log entry 35.) -/
def takeRecord (s : State) (bs : List Byte) (psn : Bool) : Option State :=
  let n (o k : Nat) : Nat := ofLE ((bs.drop o).take k)
  let tw := s.twin
  let set (x : Twin) : Option State := some { s with twin := x }
  match n 0 1 with
  | 1 => set { tw with checkpoints := keepCheckpoint tw.checkpoints (checkpointOf bs) }
  | 2 => set { tw with runs := tw.runs.filter (fun r => r.1 != n 1 1) ++ [(n 1 1, BitVec.ofNat 64 (n 8 8), BitVec.ofNat 64 (n 16 8))]
                       checkpoints := tw.checkpoints.filter (fun c => c.1 != n 1 1) }
  | 3 => placeShadow s (n 2 2) (BitVec.ofNat 64 (n 8 8)) (BitVec.ofNat 64 (n 16 8))
  | 4 => set { tw with shadows := tw.shadows.filter (fun x => x.idx != n 2 2) }
  | 5 => set { tw with rx := [(0, bs)] }
  | 6 => set { tw with rx := assocPut tw.rx (n 1 1) ((assocGet tw.rx (n 1 1)).getD [] ++ bs.drop 8) }
  | 7 => set { tw with plans := tw.plans.filter (fun p => p.id.toNat != n 8 8) ++ [shadowPlan tw.rx], rx := [] }
  | 8 => set { tw with settings := assocPut tw.settings (n 2 2) (n 8 8) }
  | 9 => some { s with ledger := { s.ledger with backlog := s.ledger.backlog ++ [recOf (bs.drop 1)] } }
  | 10 => set { tw with plans := tw.plans.filter (fun p => p.id.toNat != n 8 8) }
  | 11 => regionBack s (n 2 2) (BitVec.ofNat 64 (n 16 8))
  | 12 =>
    if rgnValid s (n 2 2) ∧ n 8 8 + 64 ≤ rgnSize s (n 2 2) then
      some (countBytes (writeHome s (rgnBase s (n 2 2) + n 8 8) ((bs.drop 16).take 64) psn) 2 (n 2 2) (n 8 8) 64)
    else none
  | _ => some s

/-- The shadow that holds bytes `[a, a + n)` of the twin. -/
def shadowAt (s : State) (a n : Nat) : Option Shadow :=
  s.twin.shadows.find? (fun x => decide (getF x.xaddr 16 29 * 65536 ≤ a ∧ a + n ≤ (getF x.xaddr 16 29 + getF x.xattr 0 27) * 65536))

/-- The local address here of the twin's byte `a` in a shadow, which lies in the region it is installed at where it is. -/
def shadowAddr (s : State) (x : Shadow) (a : Nat) : Nat :=
  (match x.inst with
    | some i => rgnBase s i
    | none => getF x.addr 16 29 * 65536) + (a - getF x.xaddr 16 29 * 65536)

/-- A mirrored write reaches its shadow: the sectors are written and count in the remote-arrival share of their channels. -/
def shadowWrite (s : State) (x : Shadow) (a : Nat) (bs : List Byte) (psn : Bool) : State :=
  let o := a - getF x.xaddr 16 29 * 65536
  let live := liveChans s
  let s := (psnKeys o bs.length).foldl (fun s k =>
    csrAdd s (chanAddr (chanAt live (getF x.attr 28 2) (getF x.attr 30 9) (getF x.addr 45 19 * 65536) k).1 0x18) 64) s
  writeHome s (shadowAddr s x a) bs psn

/-! ### Taking over (R463, Table 17-4, R467) -/

/-- Step 4: a shadow becomes a region table entry with the attributes of the twin's entry; HOST has no effect (R464). -/
def installShadow (s : State) (x : Shadow) : State :=
  match x.inst, (List.range 4096).find? (fun i => !rgnValid s i) with
  | none, some i =>
    let attr := setF (setF (setF x.xattr 28 2 (getF x.attr 28 2)) 30 9 (getF x.attr 30 9)) 47 1 0
    let s := csrPut (csrPut s (rgnAddr i) x.addr) (rgnAttr i) (setF attr 27 1 1)
    { s with twin := { s.twin with shadows := s.twin.shadows.map (fun y => if y = x then { y with inst := some i } else y) } }
  | _, _ => s

/-- The twin's shadow plan for a plan of this module. -/
def shadowPlanOf (s : State) (id : Word) : Option Plan := s.twin.plans.find? (fun p => p.id == id)

/-- The last phase the twin completed in its run of a plan: its latest checkpoint. -/
def twinDone (s : State) (id : Word) : Option Nat :=
  match s.twin.runs.find? (fun r => r.2.1 == id) with
  | some r => ((s.twin.checkpoints.filter (fun c => c.1 == r.1)).getLast?).map (fun c => c.2.1)
  | none => none

/-- Step 6 for one run: it goes on for both modules, or stops with CONTAIN (R467). (DESIGN CHOICE; log entry 35.) -/
def continueRun (s : State) (slot : Nat) : State :=
  match activeRun s slot with
  | none => s
  | some (p, r) =>
    if !p.fabric then s
    else
      let stop (s : State) : State := planStop (raise (twinErr s 5) 0x6000 0x33 CONTAIN) slot 0x6000 0x33 0
      match shadowPlanOf s p.id with
      | none => stop s
      | some q =>
        if !q.twinContinue then stop s
        else
          let s := csrSetF { s with twin := { s.twin with swapped := some q } } (twnCsr 0x10) 14 1 1
          let done := twinDone s p.id
          if !r.begun then setRun s slot { r with share := 1 }
          else if !r.inPhase then setRun s slot { r with share := 1 }
          else if done = some r.ordinal then
            arriveFor (setRun s slot { r with share := 3 }) (twinId s)
          else if getF (p.phases.getD r.pc 0) 8 1 = 0 then stop (setRun s slot { r with share := 1 })
          else if r.drained then shareBegin (setRun s slot { r with share := 1 }) slot 4
          else setRun s slot { r with share := 1 }

/-- Requests to a module that its twin serves now: reads and writes go out again, atomics fail (R465). -/
def reissue (s : State) (dev : Nat) : State :=
  let mine := s.reqs.filter (fun r => r.dst == dev && !r.held && !r.discard)
  let s := (mine.filter (fun r => r.kind == kREAD || r.kind == kWRITE)).foldl (fun s r =>
    let s := { s with reqs := s.reqs.map (fun x => if x.tag = r.tag then { x with sentAt := s.now } else x) }
    (sendPkt s r.kind r.dst r.addr (r.len - 1) r.tag r.data r.poison r.lc).getD s) s
  (mine.filter (fun r => r.kind == kATOMIC)).foldl (fun s r => failReq s r eNO_TARGET) s

/-- Steps 3 to 6. Mirrors received are performed as they arrive, so step 3 finds none. -/
def takeoverGo (s : State) : State :=
  let x := twinId s
  let s := { s with twin := { s.twin with fencing := none, probing := none }, reqs := s.reqs.filter (fun r => r.kind != kFENCE) }
  let s := enterTwin s 4
  let s := mirrorsEnd s
  let s := s.twin.shadows.foldl installShadow s
  let s := (List.range 16).foldl (fun s c => panInvalNow s c (2 ^ 16 - 1)) s
  let s := raise s 0x6000 0x39 DEGRADE
  let s := { s with servedBy := s.servedBy.filter (fun e => e.1 != x) ++ [(x, ownId s)] }
  let s := csrSetF s (peerAddr x) 5 1 1
  let s := noticeAll s 5 0 x 0
  let s := reissue s x
  (activeSlots s).foldl continueRun s

/-- The twin is lost (R462). With AUTO clear mirroring stops, and the module waits for TWIN_TAKEOVER. (DESIGN CHOICE; log entry 35.) -/
def twinLost (s : State) : State :=
  if twinState s = 1 ∨ twinState s = 2 ∨ twinState s = 3 then
    let s := twinErr { s with twin := { s.twin with probing := none } } 1
    if csrF s (twnCsr 0) 1 1 = 1 then takeoverGo s else mirrorsEnd (enterTwin s 3)
  else s

/-- TWIN_TAKEOVER: the twin is fenced first, over port 23 where it is UP and over the fabric otherwise. -/
def fenceTwin (s : State) : State :=
  let x := twinId s
  let tag := s.nextTag
  let data := leBytes 8 (ownId s)
  let r : Req := { tag := tag, dst := x, kind := kFENCE, addr := 0, len := 8, data := data, poison := false, sentAt := s.now, cont := .fence,
                   discard := false, held := false }
  let s := { s with reqs := s.reqs ++ [r], nextTag := (tag + 1) % 2 ^ 24, twin := { s.twin with fencing := some s.now } }
  let s := twinErr s 1
  if portUp s 23 then sendTwin s kFENCE 0 7 tag data false else (sendPkt s kFENCE x 0 7 tag data false false).getD s

/-- The fence was not acknowledged within 1 ms: the takeover goes on without it. -/
def execFenceTimeout (time : Nat) (s : State) : Res :=
  match s.twin.fencing with
  | none => absent "no FENCE is outstanding"
  | some t => if time < s.now ∨ time < t + 1000000 then absent "the FENCE is not due" else .next (takeoverGo (atTime s time))

/-- FENCE, or a TAKEOVER notice naming this module: HALT in state TAKEN (R466). -/
def takenNow (s : State) : State :=
  let s := mirrorsEnd (enterTwin (twinErr s 4) 5)
  haltNow { s with twin := { s.twin with fencing := none, probing := none } } 0x6000 0x39 0

/-! ### Liveness (R462, R455) -/

def pairedNow (s : State) : Bool := twinState s == 1 || twinState s == 2

/-- Every BEAT_US, in Rest too: a BEAT notice on port 23; a period without a beat from the twin is counted. -/
def execTwinBeatTimer (time : Nat) (s : State) : Res :=
  let beat := csrF s (twnCsr 0x08) 0 16 * 1000
  if !pairedNow s ∨ halted s ∨ time < s.now ∨ time % beat ≠ 0 then absent "no twin beat is due"
  else
    let s := atTime s time
    let s := if s.twin.lastBeat + beat ≤ time then csrAdd s (twnCsr 0x58) 1 else s
    .next (sendTwin s kNOTICE 0 15 0 (noticeData 7 (twinState s) (ownId s) 0) false)

/-- No beat for MISS_US: a PROBE goes to the twin over the fabric. -/
def execTwinBeatMiss (time : Nat) (s : State) : Res :=
  if !pairedNow s ∨ halted s ∨ s.twin.probing.isSome ∨ time < s.now ∨ time < s.twin.lastBeat + csrF s (twnCsr 0x08) 16 16 * 1000 then
    absent "the twin has been heard, or is being probed"
  else
    let s := atTime s time
    let s := { s with twin := { s.twin with probing := some (s.now, false) } }
    .next ((sendPkt s kPROBE (twinId s) 0 0 s.nextTag [] false false).getD s)

/-- The probe was answered, and both modules go to SPLIT; or 1 ms passed without an answer, and the twin is lost. -/
def execTwinProbeResult (alive : Bool) (s : State) : Res :=
  match s.twin.probing with
  | none => absent "the twin is not being probed"
  | some (t, ok) =>
    if ok ≠ alive then absent "that is not the probe's outcome"
    else if alive then .next (splitNow s 2)
    else .next (twinLost (atTime s (t + 1000000)))

/-! ### Pairing (R454, R469) -/

/-- Copy the whole of a MIRRORED region to its shadow. -/
def copyAcross (s : State) (i : Nat) : State := mirrorSectors s [] i 0 (rgnSize s i) none

/-- Give a shadow back that this module serves: its entry and its bytes; what is here stays as a shadow (R469 steps 1 and 2). -/
def giveBack (s : State) (x : Shadow) : State :=
  match x.inst with
  | none => s
  | some i =>
    let b := rgnBase s i
    let s := stewardMirror s (leBytes 1 11 ++ leBytes 1 0 ++ leBytes 2 x.idx ++ leBytes 4 0 ++ leBytes 8 x.xaddr.toNat ++ leBytes 8 x.xattr.toNat)
    let s := (psnKeys b (rgnSize s i)).foldl (fun s k =>
      let bs := leBytes 1 12 ++ leBytes 1 0 ++ leBytes 2 x.idx ++ leBytes 4 0 ++ leBytes 8 (k - b) ++ memBytes s k 64
      let tag := s.nextTag
      let r : Req := { tag := tag, dst := twinId s, kind := kMIRROR, addr := 0x1C0000000000, len := bs.length, data := bs,
                       poison := psnAt s k, sentAt := s.now, cont := .mirror [] none, discard := false, held := false }
      let s := csrAdd { s with reqs := s.reqs ++ [r], nextTag := (tag + 1) % 2 ^ 24 } (twnCsr 0x40) 64
      sendTwin s kMIRROR 0x1C0000000000 (bs.length - 1) tag bs (psnAt s k)) s
    let s := csrSetF s (rgnAttr i) 27 1 0
    { s with twin := { s.twin with shadows := s.twin.shadows.map (fun y => if y.idx = x.idx then { y with inst := none } else y) } }

/-- Resynchronisation begins with the twin `x`: what is served goes back first, then this module's MIRRORED regions and plans go across. -/
def pairStart (s : State) (x : Nat) : State :=
  let serving := twinState s == 4
  let s := csrSetF (enterTwin s 1) (twnCsr 0x10) 3 11 x
  let s := { s with twin := { s.twin with lastBeat := s.now, probing := none } }
  let s :=
    if serving then
      let s := s.twin.shadows.foldl giveBack s
      let s := csrSetF { s with servedBy := s.servedBy.filter (fun e => e.1 != x) } (peerAddr x) 5 1 0
      let s := (List.range 16).foldl (fun s c => panInvalNow s c (2 ^ 16 - 1)) s
      noticeAll s 6 0 x 0
    else s
  let s := ((validRegions s).filter (rgnMirrored s)).foldl (fun s i => copyAcross (entryRecord s i) i) s
  (List.range 8).foldl sendShadowPlan s

/-- Pairing ends without success: both stay UNPAIRED, with no shadows (Table 18-13). -/
def pairCancel (s : State) : State :=
  let s := mirrorsEnd (enterTwin s 0)
  { s with twin := { Twin.init with lastBeat := s.twin.lastBeat } }

/-- Pairing is complete: nothing mirrored is unanswered. -/
def pairReady (s : State) : Bool := twinState s == 1 && !(s.reqs.any (fun r => r.kind == kMIRROR))

end Sys2Proof.Machine
end

