-- ==== Sys2Proof/Machine/LoadPlan.lean ====
section
/-! DEFINITION. Loading a checked image: regions placed, sections copied and relocated, table versions given, parameters set (R36, R58–R70,
R580). Where a check fails nothing is left of the load. -/

namespace Sys2Proof.Machine

/-- A slot for the plan: the one asked for, or the lowest free one. -/
def loadSlot (s : State) (want : Nat) : Chk Nat :=
  if want = 0xFF then
    match (List.range 8).find? (fun i => (planOf s i).isNone) with
    | some i => .ok i
    | none => .error (0x04, 0)
  else if (planOf s want).isSome then .error (0x03, want) else .ok want

/-- MEM_SPLIT of an image: its own, or the default. (DESIGN CHOICE; log entry 37.) -/
def imageSplit (im : Image) : Nat := (assocGet im.policy 0x39).getD (12 + 4 * 32 + 4 * 1024)

/-- Whether the twin places a shadow: this module's question and the twin's answer are one free bit of the model (log entry 35). -/
def twinRoom (s : State) (mirrored : Bool) : Bool × State :=
  if mirrored && mirroring s then
    let (w, s) := freshFree s
    (getB w 0, s)
  else (true, s)

/-- Check 7, regions: each request is placed with OWNER the slot, in order. After a map-out a FINE or STRIPE region takes the next size that the live
channels share evenly, as R413 gives it (R58). (DESIGN CHOICE; log entry 37.) -/
def placeAll (s : State) (slot : Nat) : List (BitVec 128) → List Nat → Chk (List Nat × State)
  | [], done => .ok (done, s)
  | r :: rs, done =>
    let attr : Word := BitVec.ofNat 64 (getF r 0 64)
    let (ok, s) := twinRoom s (getB r 45)
    if !ok then .error (0x04, 7)
    else match placeRegion s (setF (if getF attr 28 2 < 2 then setF attr 0 27 (roundUp (getF attr 0 27) (liveChans s).length) else attr) 48 4 slot) with
      | some (i, s) => placeAll s slot rs (done ++ [i])
      | none => .error (0x04, 7)

/-- A locator of a section with its plan region number replaced by the region's index (R63). -/
def relocated (idx : List Nat) (l : Word) : Word := if getF l 62 2 = 2 then setF l 44 12 (idx.getD (getF l 44 12) 0) else l

/-- A field of an entry that holds a locator, relocated. -/
def relocField {n : Nat} (idx : List Nat) (lo : Nat) (e : BitVec n) : BitVec n :=
  setF e lo 64 (relocated idx (BitVec.ofNat 64 (getF e lo 64))).toNat

/-- The steward stores bytes in a placed region, mirrored where the region is. -/
def putRegion (s : State) (i o : Nat) (bs : List Byte) : State := mirrorSectors (writeHome s (rgnBase s i + o) bs false) [] i o bs.length none

/-- ZERO: everything of the region reads as 0 before the copies (R62). -/
def zeroRegion (s : State) (i : Nat) : State :=
  mirrorSectors (zeroSpan s (rgnBase s i) (rgnBase s i + rgnSize s i)) [] i 0 (rgnSize s i) none

/-- RELOC entries, each locator as it stands after every copy (R63). -/
def relocAll (s : State) (idx : List Nat) (rs : List (Nat × Nat × Nat)) : Chk State := do
  let ls ← rs.mapM (fun x =>
    let i := idx.getD x.2.1 0
    let l : Word := BitVec.ofNat 64 (memNat s (rgnBase s i + x.2.2) 8)
    if locKind l ≠ 2 ∨ idx.length ≤ locIdx l then imageBad x.1 else .ok (i, x.2.2, leBytes 8 (relocated idx l).toNat))
  .ok (ls.foldl (fun s x => putRegion s x.1 x.2.1 x.2.2) s)

def verHeld (s : State) (id : Nat) : Option Nat := (List.range 8192).find? (fun v => csrF s (tblVer v) 0 2 != 0 && csrF s (tblVer v) 2 24 == id)
def verFree (s : State) : Option Nat := (List.range 8192).find? (fun v => csrF s (tblVer v) 0 2 == 0)
def verFreeCount (s : State) : Nat := ((List.range 8192).filter (fun v => csrF s (tblVer v) 0 2 == 0)).length

/-- Give the descriptor that locator `l` names, at `g`, the version slot `v` (R580 steps 2 and 3): one 64-byte write (R379). -/
def verGive (s : State) (slot v : Nat) (l : Word) (g : Tgt) (d : Desc) : State :=
  let s := csrPut s (tblVer v) (BitVec.ofNat 64 (1 + 4 * tdId d))
  let s := { s with verInfo := tabSet (fun _ => none) s.verInfo v (some ⟨l, slot⟩) }
  let bs := leBytes 64 (setF d 48 13 v).toNat
  match g with
  | .dram i o => putRegion s i o bs
  | .spad a => writeHome s a bs false
  | _ => s

/-- The descriptors that TABLES lists, judged and then given their slots (R580). -/
def tablesAll (s : State) (idx : List Nat) (slot : Nat) (ts : List (Nat × Word)) : Chk State := do
  let ds := ts.map (fun x =>
    let l := relocated idx x.2
    (x.1, l, BitVec.ofNat 512 (memNat s (rgnBase s (locIdx l) + locOff l) 64)))
  match ds.find? (fun x => !tdLegal x.2.2) with
  | some x => imageBad x.1
  | none => .ok ()
  match firstClash (fun (x y : Nat × Word × Desc) => tdId x.2.2 == tdId y.2.2) [] ds with
  | some _ => .error (0x0A, 0)
  | none => .ok ()
  match ds.findSome? (fun x => verHeld s (tdId x.2.2)) with
  | some v => .error (0x0A, v)
  | none => .ok ()
  .ok (ds.foldl (fun s x => match verFree s with
    | some v => verGive s slot v x.2.1 (.dram (locIdx x.2.1) (locOff x.2.1)) x.2.2
    | none => s) s)

/-- The plan as the steward keeps it. -/
def planOfImage (im : Image) (idx : List Nat) : Plan :=
  { id := im.head.id, nondet := im.head.nondet, fabric := im.head.fabric, seed := im.head.seed, clusterMask := im.head.clusterMask,
    phases := im.phases.map (fun e => if getF e 0 8 = 2 ∧ getB e 8 then relocField idx 64 e else e),
    preloads := im.preloads.map (relocField idx 0), pools := im.pools.map (relocated idx), queues := im.queues.map (relocField idx 64),
    lists := im.lists.map (relocField idx 64), code := im.code, regions := idx, attrs := im.reqs, delta := im.delta,
    doorbells := im.doorbells, sync := im.sync, coll := im.coll.map (fun c => (c.1, relocField idx 64 (relocField idx 128 c.2))),
    tables := im.tables.map (fun x => relocated idx x.2), twinContinue := (assocGet im.policy 0x38) == some 1, split := imageSplit im,
    run := none }

/-- Result payload of LOAD_PLAN (Table 18-7). -/
def loadResult (slot : Nat) (p : Plan) : List Byte :=
  leBytes 8 slot ++ leBytes 8 p.id.toNat ++
    (List.range 16).flatMap (fun b => leBytes 2 (match p.delta.find? (fun d => getF d 0 4 == b) with
      | some d => p.regions.getD (getF d 12 12) 0
      | none => 0xFFFF))

/-- Checks 7 and 8, with the regions placed and zeroed: their indices. (DESIGN CHOICE; log entry 37.) -/
def loadChecked (s : State) (want : Nat) (im : Image) : Chk (List Nat × State) := do
  let slot ← loadSlot s want
  let others := (List.range 8).filter (fun i => (planOf s i).isSome)
  let force := csrF s (memCsr 0 0x10) 0 15
  match others.head? with
  | some o => if imageSplit im ≠ force then .error (0x0A, o)
  | none => .ok ()
  if verFreeCount s < im.tables.length then .error (0x04, 7)
  let (idx, s) ← placeAll s slot im.reqs []
  if im.queues.any (fun q => !im.head.clusterMask.testBit (getF q 8 4)) then .error (0x04, 8)
  .ok (idx, (im.reqs.zip idx).foldl (fun s x => if getB x.1 64 then zeroRegion s x.2 else s) s)

/-- Copy the bytes of a DESC or DATA section that have come at image offset `lo` or beyond. -/
def copyPart (img : List Byte) (idx : List Nat) (lo : Nat) (s : State) (c : Sec) : State :=
  let a := max lo c.off
  let b := min img.length (c.off + c.n)
  if a < b then putRegion s (idx.getD c.region 0) (c.roff + (a - c.off)) ((img.drop a).take (b - a)) else s

/-- What follows the copies. (DESIGN CHOICE; log entry 37.) -/
def loadRest (s : State) (want : Nat) (im : Image) (idx : List Nat) : Chk (List Byte × State) := do
  let slot ← loadSlot s want
  let s ← relocAll s idx im.relocs
  let s ← tablesAll s idx slot im.tables
  let p := planOfImage im idx
  let s := p.delta.foldl (fun s d => putRegion s (idx.getD (getF d 12 12) 0) 0 (List.replicate 4096 0)) s
  let s := im.policy.foldl (fun s e => match paramOf e.1 with
    | some ⟨_, _, .plan⟩ => s
    | _ => settingRecord (setParam s e.1 e.2 true) e.1 e.2) s
  let s := if (List.range 8).any (fun i => (planOf s i).isSome) then s
    else (everyDie 0x10).foldl (fun s a => csrSetF s a 0 15 p.split) s
  .ok (loadResult slot p, sendShadowPlan (setPlan s slot (some p)) slot)

/-- LOAD_PLAN in whole mode. -/
def loadImage (s : State) (img : List Byte) (want : Nat) : Chk (List Byte × State) := do
  let h ← headCheck s img img.length
  digestCheck img
  let im ← imageCheck s img h
  let (idx, s) ← loadChecked s want im
  loadRest (im.copies.foldl (copyPart img idx 0) s) want im idx

/-! ### Ring mode (R37) -/

/-- Bytes of the image come: once the early sections are whole and their checks pass the regions are placed, and from then on each DESC and DATA
section is copied as its bytes come. (DESIGN CHOICE; log entry 37.) -/
def ringTake (s : State) (l : Load) (new : List Byte) : State :=
  let img := l.got ++ new
  let keep (s : State) (idx : List Nat) : State := { s with load := some { l with got := img, placed := idx } }
  match earlyOf s img l.bytes with
  | some (.ok im) =>
    if l.placed ≠ [] then keep (im.copies.foldl (copyPart img l.placed l.got.length) s) l.placed
    else match loadChecked s l.slot im with
      | .ok (idx, s) => keep (im.copies.foldl (copyPart img idx 0) s) idx
      | .error _ => keep s []
  | _ => keep s l.placed

/-- The regions placed for a ring-mode load are freed, and it is over. -/
def loadDrop (s : State) : State :=
  { (((s.load.map (·.placed)).getD []).foldl dropRegion s) with load := none }

/-- A ring-mode load whose bytes so far fail a check, or that is whole: its outcome. The digest is judged last (R36).
(DESIGN CHOICE; log entry 37.) -/
def ringEnd (s : State) (l : Load) : Option (Chk (List Byte × State)) :=
  if l.placed = [] then
    match earlyOf s l.got l.bytes with
    | some (.error e) => some (.error e)
    | some (.ok im) => (match loadChecked s l.slot im with
      | .error e => some (.error e)
      | .ok _ => none)
    | none => none
  else if l.got.length < l.bytes then none
  else some (do
    let h ← headCheck s l.got l.bytes
    let im ← imageCheck s l.got h
    digestCheck l.got
    loadRest s l.slot im l.placed)

end Sys2Proof.Machine
end

