-- ==== Sys2Proof/Machine/Packets.lean ====
section
/-! DEFINITION. Fabric packets arriving: the checks every packet meets, forwarding, and what each kind does at its destination
(R33, R427–R436, R442, R447, R448, R463–R466). -/

namespace Sys2Proof.Machine

/-! ### Answers -/

/-- Kinds that call for an answer (Table 16-4). -/
def asksAnswer (kind : Nat) : Bool :=
  [kREAD, kWRITE, kATOMIC, kSIGNAL, kTALLY, kPARTIAL, kMIRROR, kPROBE, kMGMT, kFENCE].contains kind

/-- An answer to a packet, under the device ID that the packet asked for; one that came on port 23 is answered there. -/
def reply (s : State) (h : Hdr) (kind : Nat) (data : List Byte) (psn : Bool) : State :=
  if h.port.toNat = 23 then sendTwin s kind 0 (data.length - 1) h.tag.toNat data psn
  else (sendFrom s h.dst.toNat kind h.src.toNat 0 (data.length - 1) h.tag.toNat data psn false).getD s

def replyErr (s : State) (h : Hdr) (code : Nat) : State := reply s h kERROR (leBytes 8 code) false

/-- A packet goes out on a port as it stands. -/
def putPort (s : State) (p : Nat) (x : Packet) : State := emitOut (countSlots s p x.kind x.data.length x.hop) (.packet x)

/-- ERROR OUTSIDE, back out of the port the packet came on (R424). (DESIGN CHOICE; log entry 33.) -/
def refuseOutside (s : State) (port src tag : Nat) : State :=
  let x : Packet := { kind := kERROR, src := ownId s, dst := src, port := some port, lc := false, poison := false, nonmin := false,
                      via := 0, len := 7, addr := 0, tag := tag, data := leBytes 8 eOUTSIDE }
  raise (putPort s port x) (0x5000 + src) 0x04 NOTE

/-! ### Forwarding (R429, R432–R434, R465) -/

/-- The way on for a packet with this header: first port, NONMIN and VIA. -/
def wayOn (s : State) (h : Hdr) : Option (Nat × Bool × Nat) :=
  let d := servedDev s h.dst.toNat
  let g := ownId s / 16
  let via := h.via.toNat
  let min : Option (Nat × Bool × Nat) := (route s d).map (fun r => match r.2 with
    | some v => (r.1, true, v)
    | none => (r.1, h.nonmin, via))
  if h.nonmin && g != via && g != d / 16 then
    match groupPort s via with
    | some p => some (p, true, via)
    | none => min
  else min

/-- A packet for another module goes on, one hop further. -/
def forward (s : State) (h : Hdr) (kind : Nat) (data : List Byte) : State :=
  if h.hop.toNat = 7 then discardAt s h.port.toNat
  else match wayOn s h with
    | none => if asksAnswer kind then replyErr s h eNO_TARGET else discardAt s h.port.toNat
    | some (p, nm, v) =>
      putPort s p { kind := kind, src := h.src.toNat, dst := h.dst.toNat, port := some p, lc := h.lc, poison := h.poison, nonmin := nm, via := v,
                    len := h.len.toNat, addr := h.addr.toNat, tag := h.tag.toNat, data := data, hop := h.hop.toNat + 1 }

/-! ### The checks every packet meets -/

/-- Kinds that only a module at work sends; a peer held HALTED that sends one has been reset (DESIGN CHOICE: the manual does not say when a
peer leaves HALTED; log entry 38). -/
def aliveKind (kind : Nat) : Bool :=
  [kREAD, kWRITE, kATOMIC, kSIGNAL, kTALLY, kBAR_ARRIVE, kPARTIAL, kCOLL, kPROBE, kMGMT].contains kind

/-- The module hears from a peer (R447). (DESIGN CHOICE; log entries 33, 38.) -/
def heard (s : State) (d : Nat) (alive : Bool) : State :=
  let st := csrF s (peerAddr d) 0 2
  if st = 2 ∨ (st = 3 ∧ alive) then csrSetF s (peerAddr d) 0 2 0 else s

/-- The fabric block answers nothing: a reset is under way, or the main rails are off (R447). (DESIGN CHOICE; log entry 33.) -/
def deaf (s : State) : Bool := s.resetting != 0 || !s.pins.mains

/-- The module is addressed as the twin it serves (R464). (DESIGN CHOICE; log entry 36.) -/
def asTwin (s : State) (dst : Nat) : Bool := dst != ownId s && servedDev s dst == ownId s

/-- The malformed packet is discarded and counted (R427). -/
def malformed (s : State) (p : Nat) : State := raise (discardAt s p) (0x4000 + p) 0x04 NOTE

/-- A packet that reaches its destination: Rest holds it and wakes (R544), HALT and DISPLACED answer requests with NO_TARGET (R448, R468), and
otherwise it has its effect. (DESIGN CHOICE; log entry 36.) -/
def deliver (i : Instr) (h : Hdr) (kind : Nat) (s : State) (eff : State → Res) : Res :=
  let vc := vcOf kind
  if s.rest ≠ 0 ∧ (vc = 1 ∨ vc = 2 ∨ vc = 4 ∨ vc = 5) then .next (holdWake s [i])
  else
    let s := heard s h.src.toNat (aliveKind kind)
    let idle := halted s || (twinState s == 6 && kind != kMIRROR)
    if idle && asksAnswer kind && kind != kPROBE && kind != kFENCE then .next (replyErr s h eNO_TARGET)
    else if halted s && (kind == kBAR_ARRIVE || kind == kCOLL) then .next s
    else eff s

/-- Port 23 carries VC0 and VC4 alone, and VC4 travels on no other port (R422). -/
def wrongPort (p kind : Nat) : Bool := if p = 23 then vcOf kind != 0 && vcOf kind != 4 else vcOf kind == 4

/-- A packet that this module sent for the twin it serves, or the answer to one (log entry 36). -/
def loops (s : State) (src dst : Nat) : Bool := (asTwin s dst && src == ownId s) || (dst == ownId s && asTwin s src)

/-- The way of packet `i` through the module. `data` is what follows the header, and `lenOk` says that LEN agrees with it.
(DESIGN CHOICE; log entry 33.) -/
def gate (i : Instr) (h : Hdr) (kind : Nat) (data : List Byte) (lenOk : Bool) (s : State) (eff : State → Res) : Res :=
  let p := h.port.toNat
  let dst := h.dst.toNat
  if 24 ≤ p then
    (if loops s h.src.toNat dst && !deaf s then deliver i h kind s eff else absent "no such port")
  else if !portUp s p then absent "the port carries no traffic"
  else if deaf s then .next s
  else if !h.wellFormed || !lenOk || wrongPort p kind then .next (malformed s p)
  else if !s.shape.contains h.src.toNat then .next (refuseOutside s p h.src.toNat h.tag.toNat)
  else if dst = ownId s ∨ asTwin s dst then deliver i h kind s eff
  else if p = 23 then .next (malformed s p)
  else .next (forward s h kind data)

/-- LEN of a kind without data, and of `n` bytes of data. -/
def lenIs (h : Hdr) (n : Nat) : Bool := h.len.toNat == n - 1

/-! ### What a peer may reach (R33, R111, R464) -/

/-- Where a peer's request falls. -/
inductive PeerTgt where
  | dram (i o : Nat)
  | spad (a : Nat)
  deriving DecidableEq, Repr

/-- The target of a peer's access, or the ERROR code it is refused with. (DEDUCED; log entry 59.) -/
def peerTgt (s : State) (h : Hdr) (n : Nat) (write : Bool) : Except Nat PeerTgt :=
  let a := h.addr.toNat
  let region (i o : Nat) : Except Nat PeerTgt :=
    if !rgnPeer s i || (write && !rgnWritable s i) then .error eREFUSED else .ok (.dram i o)
  if asTwin s h.dst.toNat then
    match shadowAt s a n with
    | some x => match x.inst with
      | some i => region i (a - getF x.xaddr 16 29 * 65536)
      | none => .error eNO_TARGET
    | none => .error eNO_TARGET
  else if a < spareTop s then
    match regionOf s a n with
    | some i => region i (a - rgnBase s i)
    | none => .error eREGION_MISS
  else if sramBase ≤ a ∧ a + n ≤ sramTop then
    match sramTgt a n with
    | .ok (.spad b) => .ok (.spad b)
    | _ => .error eREFUSED
  else .error eREFUSED

/-- A request is refused: ERROR, and a NOTE of the module. A request for X that X's shadows do not cover is only answered. -/
def refusePeer (s : State) (h : Hdr) (code : Nat) : State :=
  let s := replyErr s h code
  if code = eNO_TARGET then s else raise s (0x5000 + h.src.toNat) 0x04 NOTE (some (globalOf s h.addr.toNat))

/-- A request answered for the twin is counted (Table 17-7). -/
def servedCount (s : State) (h : Hdr) : State := if asTwin s h.dst.toNat then csrAdd s (twnCsr 0x50) 1 else s

/-- The answer to a write or atomic: at once, or when its mirrors are acknowledged (Table 17-3 step 5). -/
def answerOrOwe (s : State) (h : Hdr) (key kind : Nat) (data : List Byte) : State :=
  let out := s.reqs.any (fun r => match r.cont with
    | .mirror _ k => k == some key
    | _ => false)
  if out then
    { s with owed := s.owed ++ [{ key := key, dst := h.src.toNat, kind := kind, tag := h.tag.toNat, data := data, poison := false }] }
  else reply s h kind data false

/-- A read that a peer or the host makes: bytes and poison mark, with the checks of stored data made (R282, R404), and counted among the remote
arrivals (R327). -/
def remoteRead (s : State) (g : Tgt) (n : Nat) : List Byte × Bool × State :=
  let (bad, s) := tgtScan s g n .clean
  let a := tgtAddr s g
  (memBytes s a n, psnIn s a n || bad != [], match g with
    | .dram i o => countBytes s 2 i o n
    | _ => s)

def execPktRead (h : Hdr) (s : State) : Res :=
  gate (.pktRead h) h kREAD [] true s (fun s =>
    let n := h.len.toNat + 1
    match peerTgt s h n false with
    | .error c => .next (refusePeer s h c)
    | .ok (.dram i o) =>
      let (bs, psn, s) := remoteRead s (.dram i o) n
      .next (servedCount (reply s h kREAD_RESP bs psn) h)
    | .ok (.spad a) =>
      let (bs, psn, s) := remoteRead s (.spad a) n
      .next (reply s h kREAD_RESP bs psn))

def execPktWrite (h : Hdr) (data : List Byte) (s : State) : Res :=
  gate (.pktWrite h data) h kWRITE data (lenIs h data.length && data != []) s (fun s =>
    match peerTgt s h data.length true with
    | .error c => .next (refusePeer s h c)
    | .ok (.dram i o) =>
      let key := s.nextTag
      .next (servedCount (answerOrOwe (chanWrite s [] i o data h.poison 2 (some key) h.lc) h key kACK []) h)
    | .ok (.spad a) => .next (reply (engineWrite s a data h.poison) h kACK [] false))

/-- An atomic on a word of DRAM for a peer: nothing is updated in a poisoned sector (R174). -/
def peerAtomic (s : State) (h : Hdr) (i o aop : Nat) (w64 signed want : Bool) (opnd cmp : Nat) : State :=
  let n := if w64 then 8 else 4
  let (bad, s) := tgtScan s (.dram i o) n .clean
  let a := rgnBase s i + o
  let old := memNat s a n
  if psnAt s a || bad != [] then replyErr s h ePOISONED
  else
    let key := s.nextTag
    let s := chanWrite s [] i o (leBytes n (atomNew aop w64 signed old opnd cmp (opnd % (8 * n)))) false 2 (some key) h.lc
    if want then answerOrOwe s h key kATOMIC_RESP (leBytes 8 old) else answerOrOwe s h key kACK []

def execPktAtomic (h : Hdr) (aop : BitVec 4) (w64 signed wantOld : Bool) (opnd cmp : BitVec 64) (s : State) : Res :=
  let data := leBytes 1 aop.toNat ++ leBytes 1 (bit w64 + 2 * bit signed + 4 * bit wantOld) ++ leBytes 6 0 ++ leBytes 8 opnd.toNat ++
    leBytes 8 cmp.toNat
  gate (.pktAtomic h aop w64 signed wantOld opnd cmp) h kATOMIC data true s (fun s =>
    let n := if w64 then 8 else 4
    match peerTgt s h n true with
    | .error c => .next (refusePeer s h c)
    | .ok (.dram i o) =>
      if h.addr.toNat % n ≠ 0 ∨ 8 < aop.toNat then .next (refusePeer s h eREFUSED)
      else .next (servedCount (peerAtomic s h i o aop.toNat w64 signed wantOld opnd.toNat cmp.toNat) h)
    | .ok (.spad _) => .next (refusePeer s h eREFUSED))

/-! ### Answers to this module's requests -/

def execPktReadResp (h : Hdr) (data : List Byte) (s : State) : Res :=
  gate (.pktReadResp h data) h kREAD_RESP data (lenIs h data.length && data != []) s (fun s =>
    .next (answered s h.port.toNat h.tag.toNat (fun r => r.kind == kREAD && r.len == data.length) (fun s r => dataCont s r data h.poison)))

def execPktAtomicResp (h : Hdr) (old : BitVec 64) (s : State) : Res :=
  gate (.pktAtomicResp h old) h kATOMIC_RESP (leBytes 8 old.toNat) true s (fun s =>
    .next (answered s h.port.toNat h.tag.toNat (fun r => r.kind == kATOMIC) (fun s r => dataCont s r (leBytes 8 old.toNat) h.poison)))

/-- Kinds that an ACK answers (Table 16-4). -/
def ackKind (kind : Nat) : Bool := asksAnswer kind && kind != kREAD && kind != kPROBE

def execPktAck (h : Hdr) (s : State) : Res :=
  gate (.pktAck h) h kACK [] (lenIs h 0) s (fun s =>
    .next (answered s h.port.toNat h.tag.toNat (fun r => ackKind r.kind) (fun s r => if r.kind = kFENCE then takeoverGo s else ackCont s r)))

def execPktError (h : Hdr) (code : BitVec 8) (s : State) : Res :=
  gate (.pktError h code) h kERROR (leBytes 8 code.toNat) true s (fun s =>
    .next (answered s h.port.toNat h.tag.toNat (fun _ => true) (fun s r => failCont s r code.toNat)))

/-! ### Synchronisation from peers (R280, R313) -/

def execPktSignal (h : Hdr) (tile : BitVec 8) (sem : BitVec 12) (amount : BitVec 32) (s : State) : Res :=
  gate (.pktSignal h tile sem amount) h kSIGNAL (syncData tile.toNat sem.toNat amount.toNat) true s (fun s =>
    if asTwin s h.dst.toNat then .next (refusePeer s h eNO_TARGET)
    else if 256 ≤ sem.toNat then .next (replyErr s h eSYNC_MISUSE)
    else match semSignal s tile.toNat sem.toNat amount.toNat with
      | some s => .next (reply s h kACK [] false)
      | none => .next (replyErr (synMisuse s tile.toNat 0 sem.toNat 2) h eSYNC_MISUSE))

def execPktTally (h : Hdr) (tile : BitVec 8) (ctr : BitVec 12) (amount : BitVec 32) (s : State) : Res :=
  gate (.pktTally h tile ctr amount) h kTALLY (syncData tile.toNat ctr.toNat amount.toNat) true s (fun s =>
    if asTwin s h.dst.toNat then .next (refusePeer s h eNO_TARGET)
    else if 64 ≤ ctr.toNat then .next (replyErr s h eSYNC_MISUSE)
    else match tallyAdd s tile.toNat ctr.toNat amount.toNat with
      | some s => .next (reply s h kACK [] false)
      | none => .next (replyErr (synMisuse s tile.toNat 1 ctr.toNat 3) h eSYNC_MISUSE))

/-- A copy that comes to the first member of a group from another group is forwarded to its group-mates (R444). (DESIGN CHOICE; log entry 14.) -/
def spreadArrive (s : State) (h : Hdr) (data : List Byte) : State :=
  let d := h.dst.toNat
  let mates := groupMembers s d
  if h.src.toNat / 16 = d / 16 ∨ mates.head? ≠ some d then s
  else (mates.filter (fun m => m != d && servedDev s m != ownId s)).foldl
    (fun s m => forward s { h with dst := BitVec.ofNat 11 m, nonmin := false, via := 0 } kBAR_ARRIVE data) s

def execPktBarArrive (h : Hdr) (ctx : BitVec 5) (gen : BitVec 2) (slot : BitVec 3) (s : State) : Res :=
  let data := arriveData ctx.toNat gen.toNat slot.toNat
  gate (.pktBarArrive h ctx gen slot) h kBAR_ARRIVE data true s (fun s => .next (fabArrive (spreadArrive s h data) ctx.toNat h.src.toNat gen.toNat))

/-- A partial row for a merge context of a tile (R200, R201). The row of a PARTIAL is one record in this model, whatever its length. -/
def execPktPartial (h : Hdr) (tile : BitVec 8) (row : List Byte) (s : State) : Res :=
  gate (.pktPartial h tile row) h kPARTIAL row true s (fun s =>
    if asTwin s h.dst.toNat then .next (refusePeer s h eNO_TARGET)
    else match combMerge s tile.toNat row h.poison with
      | (true, s) => .next (reply s h kACK [] false)
      | (false, s) => .next (replyErr s h ePARTIAL_REFUSED))

/-! ### Collectives (R440–R443) -/


/-- Packet and own run of a context disagree (R442). (DESIGN CHOICE; log entry 56.) -/
def collMismatch (s : State) : State :=
  let s := fabErr (raise s 0x3200 0x34 CONTAIN) 5 0
  match fabricSlot s with
  | some i => planStop s i 0x3200 0x34 0
  | none => s

/-- DESIGN CHOICE; log entry 33. -/
def execPktColl (h : Hdr) (ctx : BitVec 4) (seq : BitVec 8) (op redop : BitVec 4) (elems : BitVec 40) (stage : BitVec 2) (first : BitVec 40)
    (data : List Byte) (s : State) : Res :=
  let bytes := leBytes 1 ctx.toNat ++ leBytes 1 seq.toNat ++ leBytes 1 (op.toNat + 16 * redop.toNat) ++ leBytes 1 stage.toNat ++
    leBytes 6 elems.toNat ++ leBytes 6 first.toNat ++ data
  gate (.pktColl h ctx seq op redop elems stage first data) h kCOLL bytes (lenIs h bytes.length) s (fun s =>
    let c := ctx.toNat
    let p : CollPkt := { src := h.src.toNat, ctx := c, seq := seq.toNat, stage := stage.toNat, first := first.toNat, psn := h.poison, data := data }
    let d := collDesc s c
    match fabricSlot s with
    | none =>
      if (List.range 8).any (fun i => ((planOf s i).map (·.fabric)).getD false) then .next { s with collHeld := s.collHeld ++ [p] }
      else .next (discardAt s h.port.toNat)
    | some _ =>
      if cdOp d ≠ op.toNat ∨ cdRed d ≠ redop.toNat ∨ cdElems d ≠ elems.toNat then .next (collMismatch s)
      else match s.colls.find? (fun x => x.ctx == c && x.seq == seq.toNat) with
        | some x =>
          let r := collTake s d x p
          .next (collPut r.1 r.2)
        | none => .next { s with collHeld := s.collHeld ++ [p] })

/-- Consecutive elements with one poison mark, as runs: first element, bytes, mark. -/
def outRuns : List (Nat × List Byte × Bool) → List (Nat × List Byte × Bool) → Nat → List (Nat × List Byte × Bool)
  | [], acc, _ => acc.reverse
  | (k, bs, p) :: rest, (f, ds, q) :: acc, e =>
    if k = e ∧ p = q then outRuns rest ((f, ds ++ bs, q) :: acc) (k + 1) else outRuns rest ((k, bs, p) :: (f, ds, q) :: acc) (k + 1)
  | (k, bs, p) :: rest, [], _ => outRuns rest [(k, bs, p)] (k + 1)

/-- The elements a module writes, and where the first lies in its output. -/
def collOutElems (s : State) (d : Desc) : List Nat × Nat :=
  if cdOp d = 3 then (sliceElems s (cdElems d) (ownId s), sliceLo s (cdElems d) (rankOf s (ownId s))) else (List.range (cdElems d), 0)

/-- The output of a collective is written; poisoned elements raise CONTAIN once (R440). (DESIGN CHOICE; log entry 56.) -/
def collWrite (s : State) (c : Coll) (d : Desc) : State :=
  let e := collOutElems s d
  let b := cdOutB d
  let l := BitVec.ofNat 64 (getF d 128 64)
  let vals := e.1.map (fun k => let v := (assocGet c.out k).getD (0, false); (k, leBytes b v.1, v.2))
  let s := (outRuns vals [] 0).foldl (fun s r =>
    chanWrite s [32 * (1000000 + c.ctx)] (locIdx l) (locOff l + (r.1 - e.2) * b) r.2.1 r.2.2 1 none) s
  if vals.any (fun v => v.2.2) then raise s 0x3200 0x15 CONTAIN else s

/-- The module's own output is complete: it is written, and once every write is performed the context counts the completion and begins its next
collective. -/
def execCollectiveDone (ctx : BitVec 4) (s : State) : Res :=
  let x := ctx.toNat
  match s.colls.find? (fun c => c.ctx == x && decide (4 ≤ c.stage)) with
  | none => absent "no output of the context is complete"
  | some c =>
    let d := collDesc s x
    let s := if c.stage = 4 then collPut (collWrite s c d) { c with stage := 5 } else s
    if agentPending s (32 * (1000000 + x)) then .next s
    else
      let s := csrSetF { s with colls := s.colls.filter (fun y => y.ctx != x) } (collStateAddr x) 0 1 0
      .next (collBegin (tallyOrErr s (getF d 320 8) (getF d 328 6) 1) x)

/-! ### Mirrors, probes, steward messages and fencing -/

/-- A mirrored write, or a steward record, of the twin (R457, R460). -/
def execPktMirror (h : Hdr) (data : List Byte) (s : State) : Res :=
  gate (.pktMirror h data) h kMIRROR data (lenIs h data.length && data != []) s (fun s =>
    if !pairedNow s then .next (replyErr s h eNO_TARGET)
    else if h.addr.toNat = 0x1C0000000000 then
      match takeRecord s data h.poison with
      | some s => .next (reply s h kACK [] false)
      | none => .next (replyErr s h eREGION_MISS)
    else match shadowAt s h.addr.toNat data.length with
      | some x => .next (reply (shadowWrite s x h.addr.toNat data h.poison) h kACK [] false)
      | none => .next (splitNow (replyErr s h eREGION_MISS) 3))

def execPktProbe (h : Hdr) (s : State) : Res :=
  gate (.pktProbe h) h kPROBE [] (lenIs h 0) s (fun s => .next (reply s h kPROBE_ACK [] false))

def execPktProbeAck (h : Hdr) (s : State) : Res :=
  gate (.pktProbeAck h) h kPROBE_ACK [] (lenIs h 0) s (fun s =>
    let d := h.src.toNat
    let s := { s with probes := s.probes.filter (fun p => p.1 != d) }
    match s.twin.probing with
    | some (t, false) => if d = twinId s then .next { s with twin := { s.twin with probing := some (t, true) } } else .next s
    | _ => .next s)

/-- Messages the steward keeps until a later command takes them: a move notice and MOVES_DONE. (DESIGN CHOICE; log entry 33.) -/
def keptMsg (data : List Byte) : Bool := ofLE (data.take 1) == 0x12 || ofLE (data.take 1) == 0x15

/-- DESIGN CHOICE; log entry 33. -/
def execPktMgmt (h : Hdr) (data : List Byte) (s : State) : Res :=
  gate (.pktMgmt h data) h kMGMT data (lenIs h data.length && data != []) s (fun s =>
    let d := h.src.toNat
    if asTwin s h.dst.toNat then .next (refusePeer s h eNO_TARGET)
    else if Config.mgmtDepth < s.mgmtIn.length then .next (replyErr s h eBUSY)
    else if keptMsg data then .next (reply { s with mgmtIn := s.mgmtIn ++ [(d, data)] } h kACK [] false)
    else
      let s := reply s h kACK [] false
      .next (if ofLE (data.take 1) = 0x40 then takeLinkMap s d data else mgmtTake s d data))

/-- FENCE: the module acknowledges and enters HALT in state TAKEN (R463, R466). (DESIGN CHOICE; log entry 33.) -/
def execPktFence (h : Hdr) (fencer : BitVec 11) (s : State) : Res :=
  gate (.pktFence h fencer) h kFENCE (leBytes 8 fencer.toNat) true s (fun s =>
    if asTwin s h.dst.toNat then .next (refusePeer s h eNO_TARGET) else .next (takenNow (reply s h kACK [] false)))

/-! ### Peers lost (R447–R449) -/

/-- A twin answers for the device. -/
def twinAnswers (s : State) (d : Nat) : Bool := csrF s (peerAddr d) 5 1 == 1 || s.servedBy.any (fun e => e.1 == d)

/-- A module of the shape is lost and no twin answers for it: the FABRIC plan stops with CONTAIN (R449). -/
def peerLost (s : State) (d : Nat) : State :=
  if !s.shape.contains d ∨ twinAnswers s d then s
  else match fabricSlot s with
    | some i => planStop (fabErr (raise s (0x5000 + d) 0x33 CONTAIN) 6 0) i (0x5000 + d) 0x33 0
    | none => s

def markDown (s : State) (d : Nat) : State :=
  if csrF s (peerAddr d) 0 2 = 3 then s else peerLost (csrSetF s (peerAddr d) 0 2 2) d

/-- A request unanswered for REQ_TIMEOUT fails, and its target is probed (R447). Mirrors and FENCE have their own rules. -/
def execReqTimeout (tag : BitVec 24) (time : Nat) (s : State) : Res :=
  match reqOf s tag.toNat with
  | none => absent "no request has the tag"
  | some r =>
    let due := r.sentAt + csrF s (fabCsr 0) 13 14 * 1000000
    if r.held ∨ r.kind = kMIRROR ∨ r.kind = kFENCE ∨ csrF s (peerAddr r.dst) 0 2 = 1 ∨ time < s.now ∨ time < due then
      absent "the request has not timed out"
    else
      let s := failReq (fabErr (atTime s time) 7 0) r eNO_TARGET
      if s.probes.any (fun p => p.1 == r.dst) then .next s
      else .next { (sendPkt s kPROBE r.dst 0 0 s.nextTag [] false false).getD s with probes := s.probes ++ [(r.dst, s.now)] }

/-- No PROBE_ACK within 1 ms: the target is DOWN, and the shape is told. -/
def execProbeTimeout (target : BitVec 11) (time : Nat) (s : State) : Res :=
  let d := target.toNat
  match s.probes.find? (fun p => p.1 == d) with
  | none => absent "the device is not being probed"
  | some (_, t) =>
    if time < s.now ∨ time < t + 1000000 then absent "the probe is not due"
    else
      let s := atTime s time
      .next (markDown (noticeAll { s with probes := s.probes.filter (fun p => p.1 != d) } 2 0 d 0) d)

/-! ### Notices (R445–R449, R463–R466) -/

/-- A notice of a peer reaches the module. One from outside the shape is refused with ERROR (R424), by the port it came on: which port that was, the
row does not say. (DESIGN CHOICE; log entry 33.) -/
def noticed (s : State) (src : Nat) (alive : Bool) (eff : State → State) : Res :=
  if src = ownId s then absent "the sender is no peer"
  else if deaf s then .next s
  else if !s.shape.contains src then let (w, s) := freshFree s; .next (refuseOutside s (w.toNat % 24) src 0)
  else .next (eff (heard s src alive))

/-- SLOW until 5 ms after the last notice (R446). -/
def execNoticeSlow (src : BitVec 11) (cause : BitVec 8) (time : Nat) (s : State) : Res :=
  let d := src.toNat
  if time < s.now then absent "the time has passed"
  else noticed s d true (fun s =>
    let s := atTime s time
    let s := csrSetF (csrSetF s (peerAddr d) 0 2 1) (peerAddr d) 2 3 cause.toNat
    { s with slowAt := tabSet (fun _ => 0) s.slowAt d time })

def execSlowExpire (peer : BitVec 11) (time : Nat) (s : State) : Res :=
  let d := peer.toNat
  if csrF s (peerAddr d) 0 2 ≠ 1 ∨ time < s.now ∨ time < tabGet (fun _ => 0) s.slowAt d + 5000000 then absent "the peer's SLOW state does not end"
  else .next (csrSetF (csrSetF (atTime s time) (peerAddr d) 0 2 0) (peerAddr d) 2 3 0)

def execNoticeDown (src subject : BitVec 11) (s : State) : Res :=
  noticed s src.toNat false (fun s => if subject.toNat = ownId s then s else markDown s subject.toNat)

/-- The peer is HALTED: requests to it fail at once, and a paired module takes over (R448, R462). -/
def execNoticeHalt (src : BitVec 11) (s : State) : Res :=
  let d := src.toNat
  noticed s d false (fun s =>
    let s := csrSetF s (peerAddr d) 0 2 3
    let s := if d = twinId s then twinLost s else s
    let s := if twinAnswers s d then s
      else (s.reqs.filter (fun r => r.dst == d && r.kind != kMIRROR && r.kind != kFENCE)).foldl (fun s r => failReq s r eNO_TARGET) s
    peerLost s d)

/-- A peer aborted a run: the run of that PLAN_ID stops here (R448). -/
def execNoticeAbort (src : BitVec 11) (planId : BitVec 64) (s : State) : Res :=
  let d := src.toNat
  noticed s d true (fun s =>
    match (activeSlots s).filter (fun i => ((planOf s i).map (·.id)) == some planId) with
    | [] => s
    | slots => slots.foldl (fun s i => planStop s i (0x5000 + d) 0x27 0) (fabErr (raise s (0x5000 + d) 0x27 CONTAIN) 8 0))

/-- The sender serves the subject now. Where each of two twins says so of the other, the lower device ID's notice is kept. -/
def serveNow (s : State) (src subject : Nat) : State :=
  let s := { s with servedBy := s.servedBy.filter (fun e => e.1 != subject && e.1 != src) ++ [(subject, src)],
                    probes := s.probes.filter (fun p => p.1 != subject) }
  reissue (csrSetF (csrSetF s (peerAddr src) 5 1 0) (peerAddr subject) 5 1 1) subject

def execNoticeTakeover (src subject : BitVec 11) (s : State) : Res :=
  let d := src.toNat
  let x := subject.toNat
  noticed s d true (fun s =>
    if x = ownId s then
      (if twinState s = 4 ∧ twinId s = d ∧ ownId s < d then s else takenNow s)
    else if s.servedBy.any (fun e => e.1 == d && e.2 == x) && decide (x < d) then s
    else serveNow s d x)

def execNoticeTakeoverEnd (src subject : BitVec 11) (s : State) : Res :=
  let x := subject.toNat
  noticed s src.toNat true (fun s =>
    csrSetF (csrSetF { s with servedBy := s.servedBy.filter (fun e => e.1 != x) } (peerAddr x) 5 1 0) (peerAddr x) 0 2 0)

/-- A beat of the twin on port 23. A beat that tells of SPLIT ends mirroring here too. -/
def execNoticeBeat (src : BitVec 11) (twinSt : BitVec 8) (time : Nat) (s : State) : Res :=
  if !portUp s 23 ∨ time < s.now then absent "port 23 carries no traffic, or the time has passed"
  else noticed s src.toNat true (fun s =>
    let s := atTime s time
    if src.toNat ≠ twinId s ∨ !pairedNow s then s
    else
      let s := { s with twin := { s.twin with lastBeat := time, probing := none } }
      if twinSt.toNat = 3 then splitNow s 2 else s)

end Sys2Proof.Machine
end

