-- ==== Sys2Proof/Machine/Keys.lean ====
section
/-! DEFINITION. The innkeeper's keys: HKDF with SHA-384 (RFC 5869) and the values derived from the seed (R558–R560). -/

namespace Sys2Proof.Machine

/-- HMAC with SHA-384 and a key of at most a block. -/
def hmac384 (key m : List Byte) : List Byte :=
  let k := key ++ List.replicate (128 - key.length) 0
  sha384 (k.map (fun b => b ^^^ 0x5C) ++ sha384 (k.map (fun b => b ^^^ 0x36) ++ m))

/-- The blocks of HKDF's expansion from block `i` on, `prev` the one before. -/
def hkdfBlocks (prk info : List Byte) : Nat → Nat → List Byte → List Byte
  | 0, _, _ => []
  | f + 1, i, prev => let t := hmac384 prk (prev ++ info ++ leBytes 1 i); t ++ hkdfBlocks prk info f (i + 1) t

/-- `n` bytes derived from a key under a label, without a salt. (DESIGN CHOICE, UNVERIFIED; log entry 66.) -/
def hkdf384 (ikm label : List Byte) (n : Nat) : List Byte :=
  (hkdfBlocks (hmac384 (List.replicate 48 0) ikm) label (n / 48 + 1) 1 []).take n

def asciiBytes (t : String) : List Byte := t.toList.map (fun c => BitVec.ofNat 8 c.toNat)

/-- The seed and what is derived from it. The manual gives the lengths of the SLH-DSA seeds and of the cache key, and neither those of the DRBG seed and
of the store key nor the salt. (DESIGN CHOICE; log entry 66.) -/
def keySet (seed : BitVec 256) : KeySet :=
  let v (label : String) (n : Nat) : List Byte := hkdf384 (leBytes 32 seed.toNat) (asciiBytes label) n
  { seed := seed, drbg := v "JX-RSA-ID" 48, slh := v "JX-SLH-ID" 72, store := v "JX-STORE" 32, cache := v "JX-CACHE" 32 }

/-- The innkeeper reconstructs the seed and has its keys; `good` where a copy of the key cache verifies. Keys generated again are the same, and a cache
that fails on both devices loses the vendor's certificates (R560). (DESIGN CHOICE, UNVERIFIED; log entry 66.) -/
def keysUp (s : State) (good : Bool) : State :=
  let c := s.mgmt.cache
  let s := { s with mgmt := { s.mgmt with cache := { c with certs := c.certs && good }, keys := some (keySet (Config.pufSeed c.helper)) } }
  if good then s else raise (csrSetF s (inkCsr 0) 2 1 1) 0xA001 0x52 NOTE

/-- The secret of an identity key: of scheme 0 the DRBG seed, of scheme 1 the key seeds. -/
def idSecret (s : State) (scheme : Nat) : List Byte :=
  match s.mgmt.keys with
  | some k => if scheme = 0 then k.drbg else k.slh
  | none => []

end Sys2Proof.Machine
end

