-- ==== Sys2Proof/Machine/Reset.lean ====
section
/-! DEFINITION. Resets, boot, Rest and the supply events that remove power (R505–R508, R531–R548, R553–R555, R569–R573). A reset's strength:
1 DEVICE_RESET, 2 PERST#, 3 MODULE_RESET#, 4 main power removal, 5 AUX power-on. -/

namespace Sys2Proof.Machine

/-! ### What survives (Table 21-6) -/

/-- Whether a register keeps its value through a reset. The registers of settings are loaded from the settings store afterwards; the region
table is kept apart. (DESIGN CHOICE; log entry 49.) -/
def keepCsr (lvl a : Nat) : Bool :=
  if memCsr 0 0 ≤ a ∧ a < memCsr 4 0 then
    let o := (a - memCsr 0 0) % 0x100000
    0x80000 ≤ o || (0x10000 ≤ o && o % 0x100 == 0)
  else if fabCsr 0x100 ≤ a ∧ a < fabCsr 0x600 then lvl ≤ 2
  else if hstCsr 0xF0000 ≤ a ∧ a < hstCsr 0x100000 then lvl ≤ 1
  else if hstCsr 0x1000 ≤ a ∧ a < hstCsr 0x2000 then lvl ≤ 1
  else if a = hstCsr 0x80008 then lvl ≤ 4
  else if inkCsr 0 ≤ a then lvl ≤ 4 || a == inkCsr 0x08 || a == inkCsr 0x10
  else false

/-- Host regions keep their entries (DEVICE_RESET and PERST#). (DESIGN CHOICE; log entry 49.) -/
def keepRegion (s : State) (i : Nat) : Bool := rgnValid s i && rgnOwner s i == 8

/-- The registers after a reset, before the settings store. -/
def keepCsrs (s : State) (lvl : Nat) : Tab Word :=
  s.csr.filter (fun e =>
    if rgnAddr 0 ≤ e.1 ∧ e.1 < rgnAddr 4096 then decide (lvl ≤ 2) && keepRegion s ((e.1 - rgnAddr 0) / 16) else keepCsr lvl e.1)

/-- The ledger after a reset: what is in flash or on its way there stays; the die ring stays through DEVICE_RESET and PERST#. -/
def ledgerAfter (l : Ledger) (lvl : Nat) : Ledger :=
  { Ledger.init with
    ring := if lvl ≤ 2 then l.ring else []
    nextSeq := if lvl ≤ 4 then l.nextSeq else 0
    backlog := l.backlog
    flash := l.flash
    flashNext := l.flashNext }

/-- The main domain loses its state. Tile and cluster state, plans, tables, the fabric's and the twin's state go whatever the reset; DRAM is
lost from MODULE_RESET# up. (DESIGN CHOICE; log entry 49.) -/
def clearMain (s : State) (lvl : Nat) : State :=
  let s := undefSpan s sramBase sramTop
  let s := if 3 ≤ lvl then undefSpan s 0 dramTop else s
  let csr := keepCsrs s lvl
  let s := { State.reset with
    pending := s.pending
    now := if lvl ≤ 4 then s.now else 0
    freeCtr := s.freeCtr
    outbox := s.outbox
    mem := s.mem
    undef := s.undef
    poison := s.poison
    ueSectors := s.ueSectors
    patrol := if lvl ≤ 4 then s.patrol else []
    badSpares := s.badSpares
    ceTrack := if lvl ≤ 4 then s.ceTrack else []
    csr := csr
    taskCtr := s.taskCtr
    nextTag := s.nextTag
    links := if lvl ≤ 2 then s.links else []
    ledger := ledgerAfter s.ledger lvl
    runCtr := s.runCtr
    pcie := if lvl ≤ 1 then s.pcie else none
    cmd := if lvl ≤ 1 then s.cmd else none
    oobCmd := if lvl ≤ 1 then s.oobCmd else none
    mbxPay := if lvl ≤ 1 then s.mbxPay else []
    mbxGen := if lvl ≤ 1 then s.mbxGen else 0
    boot := s.boot
    mgmt := if lvl ≤ 4 then s.mgmt else { s.mgmt with flashQ := [], pldm := none, eid := 0, oobReady := [], kicks := [], confirmAt := [], keys := none }
    pins := { s.pins with ready := false, heartbeat := false, heartbeatOn := false } }
  let s := csrPut s (hstCsr 0x80008) (BitVec.ofNat 64 (getF (csrGet s (hstCsr 0x80008)) 32 32 * 2 ^ 32))
  if 3 ≤ lvl then (List.range 384).foldl (fun s c => csrSetF s (chanAddr c 0) 2 2 0) (csrSetF s (inkCsr 0x08) 8 3 0) else s

/-! ### Stopping without draining (Table 18-11 steps 2–5) -/

/-- Writes that wait in the merging buffers reach memory (R417; step 3 of Table 18-11). -/
def flushAll (s : State) : State := (List.range 16).foldl (fun s c => flushWhere s c (fun _ => true)) s

/-- Every run ends ABORTED: what the interrupted phases wrote is undefined, and the shape is told (R43, R448). -/
def abortRuns (s : State) : State :=
  let slots := activeSlots s
  let ids := slots.filterMap (fun i => (planOf s i).map (·.id))
  let s := flushAll s
  let s := (s.dirty.filter (fun d => slots.contains d.1)).foldl (fun s d => undefSpan s d.2.1 d.2.2) s
  let s := fenceReqs (stopAll { s with dirty := [] } 6)
  ids.foldl (fun s id => noticeAll s 4 0 (ownId s) id) s

/-- Objects of the stopped plans are at their INIT values again, and the pantries of their clusters are invalidated (step 5). -/
def abortObjects (s : State) (slots : List Nat) : State :=
  slots.foldl (fun s i => match planOf s i with
    | some p => invalPlan (if p.fabric then collInit (syncInit s p) p else syncInit s p) p
    | none => s) s

/-! ### The innkeeper's records -/

/-- The innkeeper records an event in the flash log, with the main domain's power gone or its reset held (R505, R507, R508, R524). -/
def innkeeperHalt (s : State) (src kind : Nat) : State :=
  let m : Msg := { source := BitVec.ofNat 16 src, kind := BitVec.ofNat 8 kind, level := 3, addrValid := false, injected := false, addr := 0,
                   time := BitVec.ofNat 40 s.now }
  let l := s.ledger
  let r : LogRec := { msg := m, escalated := false, twin := false, level := 3, time := s.now, seq := l.nextSeq, count := 1, reported := 3, slot := 15,
                      device := ownId s }
  assertAlert { s with ledger := { l with backlog := l.backlog ++ [r], nextSeq := (l.nextSeq + 1) % 2 ^ 32 } }

/-! ### DEVICE_RESET and PERST# (Table 21-2) -/

/-- What a channel does before it enters self-refresh (R417): every queued write and every retirement in progress is completed. -/
def quiesce (s : State) : State :=
  let s := flushAll s
  let q := s.retireQ
  q.foldl (fun s e => retirePage s e.1 e.2) { s with retireQ := [] }

/-- Steps 1 to 6, up to what training learns again: the module answers nothing until the sequence ends. (DESIGN CHOICE; log entry 49.) -/
def resetBegin (s : State) (kind : Nat) : State :=
  let s := quiesce (abortRuns (heartOff { s with pins := { s.pins with ready := false } }))
  let s := { clearMain s kind with resetting := kind }
  trainAgain (loadShape (applySettings (applyMapOut s).2))

/-- A watchdog period of each steward core begins as the steward starts (R549). (DESIGN CHOICE; log entry 39.) -/
def stewardStart (s : State) : State :=
  csrSetF { s with mgmt := { s.mgmt with kicks := (List.range 4).map (fun c => (c, s.now)) } } (inkCsr 0x18) 18 4 0

/-- READY and HEARTBEAT. (DESIGN CHOICE; log entry 63.) -/
def readyNow (s : State) : State := heartOn { s with pins := { s.pins with ready := true } }

/-- The mailbox shows a result (R478); MBX_VEC is raised when enabled. -/
def mbxDone (s : State) (tag code detail len : Nat) : State :=
  let s := csrPut s (hstCsr 0x1018) (BitVec.ofNat 64 (code + len * 2 ^ 8 + detail % 2 ^ 32 * 2 ^ 32))
  let s := csrPut s (hstCsr 0x1010) (BitVec.ofNat 64 (2 + tag * 2 ^ 32))
  let s := csrPut s (hstCsr 0x1020) (BitVec.ofNat 64 100)
  if csrF s (hstCsr 0x18) 6 1 = 1 then raiseMsix s (csrF s (hstCsr 0x18) 0 6) else s

/-- An answer of the out-of-band mailbox is ready for the bus owner: code, tag, detail and payload (R563, R570). (DESIGN CHOICE; log entry 42.) -/
def oobAnswer (s : State) (tag code detail : Nat) (p : List Byte) : State :=
  let r := leBytes 1 code ++ leBytes 2 tag ++ leBytes 1 0 ++ leBytes 4 detail ++ p
  assertAlert { s with mgmt := { s.mgmt with oobReady := s.mgmt.oobReady ++ [r] } }

/-- Step 7, and step 4's outcome: whether the steward image agrees with the boot measurement is not the model's to know (log entry 39).
(DESIGN CHOICE; log entry 49.) -/
def execDeviceResetDone (s : State) : Res :=
  if s.resetting = 0 ∨ s.boot ≠ 0 then absent "no DEVICE_RESET or PERST# sequence is in progress"
  else
    let kind := s.resetting
    let (v, s) := freshFree s
    let code := if v.toNat % 2 = 0 then 0 else 0x12
    let s := readyNow (stewardStart { s with resetting := 0 })
    let s := match s.oobCmd with
      | some c =>
        let s := { s with oobCmd := none }
        if kind = 1 ∧ c.opcode = 0x81 then
          oobAnswer s c.tag code 0 []
        else s
      | none => s
    match s.cmd with
    | some c =>
      let s := { s with cmd := none }
      .next (if kind = 1 ∧ c.opcode = 0x81 then mbxDone s c.tag code 0 0 else csrPut s (hstCsr 0x1010) (BitVec.ofNat 64 (c.tag * 2 ^ 32)))
    | none => .next s

/-- PERST# runs the sequence from its assertion; a boot in progress goes on (R532, R536). -/
def execPerstAssert (s : State) : Res :=
  if s.pins.perst then absent "PERST# is asserted already"
  else
    let s := { s with pins := { s.pins with perst := true } }
    let s := { s with pcie := none }
    .next (if s.boot = 0 then resetBegin s 2 else s)

/-- The PCIe link trains: how far is not the module's to choose, within Table 18-1. A rate below 6.0 or a width below x16 is a NOTE (R472).
(DESIGN CHOICE; log entry 63.) -/
def trainPcie (s : State) : State :=
  let (w, s) := freshFree s
  let gen := 4 + w.toNat / 2 % 3
  let lanes := if w.toNat % 2 = 0 then 16 else 8
  let s := { s with pcie := some (gen, lanes) }
  if gen < 6 ∨ lanes < 16 then raise s 0x7000 0x35 NOTE else s

/-- The endpoint trains again where the main domain has reached that stage. -/
def execPerstRelease (s : State) : Res :=
  if !s.pins.perst then absent "PERST# is not asserted"
  else
    let s := { s with pins := { s.pins with perst := false } }
    .next (if s.pins.mains ∧ (s.boot = 0 ∨ s.boot = 6 ∨ s.boot = 7) then trainPcie s else s)

/-! ### Stronger resets -/

/-- The main rails are removed: the module stays off until the input is qualified again (boot stage 2). (DESIGN CHOICE; log entry 49.) -/
def mainsOff (s : State) : State :=
  let s := clearMain s 4
  { s with pins := { s.pins with mains := false, pwrfail := true }, boot := if s.boot = 1 then 1 else 2,
           mgmt := { s.mgmt with confirmAt := s.mgmt.confirmAt.filter (fun c => !c.1) } }

/-- MODULE_RESET#: the whole main domain restarts at boot stage 3 once `held` is over. (DESIGN CHOICE; log entry 49.) -/
def moduleReset (s : State) (held : Bool) : State :=
  { clearMain s 3 with boot := if held then 8 else 3 }

def execModuleResetAssert (s : State) : Res :=
  if s.pins.moduleReset then absent "MODULE_RESET# is asserted already"
  else
    let s := { s with pins := { s.pins with moduleReset := true } }
    .next (if s.pins.pwrEn ∧ s.boot ≠ 1 ∧ s.boot ≠ 2 then moduleReset s true else s)

def execModuleResetRelease (s : State) : Res :=
  if !s.pins.moduleReset then absent "MODULE_RESET# is not asserted"
  else .next { s with pins := { s.pins with moduleReset := false }, boot := if s.boot = 8 then 3 else s.boot }

def execPwrEnAssert (s : State) : Res :=
  if s.pins.pwrEn ∨ !s.pins.aux then absent "PWR_EN is asserted already, or AUX is absent"
  else .next { s with pins := { s.pins with pwrEn := true } }

/-- PWRFAIL#, R417 where the module is up, and the rails removed (R569). -/
def execPwrEnRelease (s : State) : Res :=
  if !s.pins.pwrEn ∨ !s.pins.aux then absent "PWR_EN is not asserted, or AUX is absent"
  else
    let s := { s with pins := { s.pins with pwrEn := false } }
    .next (if s.pins.mains then mainsOff (if s.boot = 0 then quiesce s else s) else s)

/-- AUX stays below 10.8 V: everything is off (R573). -/
def execAuxLoss (s : State) : Res :=
  if !s.pins.aux then absent "AUX is absent already"
  else
    let s := mainsOff s
    let s := (s.mgmt.flashQ.filterMap (fun j => match j with
      | .image k _ => some k
      | _ => none)).foldl (fun s k => if k < 4 then setSlotState s k 0 else s) s
    .next { s with pins := { s.pins with aux := false, ready := false, thermtrip := false, alert := false }, boot := 8 }

/-! ### Boot (Table 21-3, R554, R555) -/

/-- The slot of an image type that boots: the PENDING one, else the ACTIVE one, else a fallback. -/
def bootSlot (s : State) (bundle : Bool) : Option Nat :=
  let ks := if bundle then [2, 3] else [0, 1]
  (ks.find? (fun k => slotState s k == 2)).orElse (fun _ => (ks.find? (fun k => slotState s k == 3)).orElse (fun _ =>
    ks.find? (fun k => slotState s k == 1)))

/-- The start of a boot's stage of an image type: a PENDING image must be confirmed within its time. -/
def stageStart (s : State) (bundle : Bool) : State :=
  match bootSlot s bundle with
  | none => s
  | some k =>
    let b := s.mgmt.booted
    let m := { s.mgmt with booted := if bundle then (b.1, k) else (k, b.2), confirmAt := s.mgmt.confirmAt.filter (fun c => c.1 != bundle) }
    let due := s.now + (if bundle then 30000000000 else 5000000000)
    { s with mgmt := if slotState s k = 2 then { m with confirmAt := m.confirmAt ++ [(bundle, due)] } else m }

/-- The image in the slot that was booting is given up, and the other slot boots from the image's own stage. -/
def fallBack (s : State) (bundle : Bool) (cause : Nat) : State :=
  match bootSlot s bundle with
  | none => s
  | some k =>
    let s := csrSetF (csrSetF (setSlotState s k 0) (inkCsr 0x08) 8 1 1) (inkCsr 0x08) 9 2 cause
    let s := raise s 0xA000 0x51 NOTE
    let s := { s with mgmt := { s.mgmt with confirmAt := s.mgmt.confirmAt.filter (fun c => c.1 != bundle) } }
    if bundle then
      (if (bootSlot s true).isSome then { s with boot := 3 } else { s with boot := 4 })
    else stageStart { s with boot := 1 } false

/-- A boot from a slot is confirmed: a PENDING image becomes the ACTIVE one and raises the counter (R554); a fallback that serves is ACTIVE. -/
def confirmBoot (s : State) (bundle : Bool) : State :=
  let s := { s with mgmt := { s.mgmt with confirmAt := s.mgmt.confirmAt.filter (fun c => c.1 != bundle) } }
  match bootSlot s bundle with
  | none => s
  | some k =>
    let ty := if bundle then 2 else 1
    let o := if k % 2 = 0 then k + 1 else k - 1
    if slotState s k = 2 then
      let v := (imageIn s k).secver
      let s := setSecCounter s ty v
      let s := if slotState s o = 3 then setSlotState s o (if (imageIn s o).secver = v then 1 else 0) else s
      setSlotState s k 3
    else if slotState s k = 1 then setSlotState s k 3
    else s

/-- Everything after 12 V AUX comes (R537, R540): the time base starts again. Flash keeps what it holds. -/
def auxOn (s : State) : State :=
  let s := clearMain s 5
  stageStart { s with pins := { s.pins with aux := true, mains := false, pwrfail := true, thermtrip := false, alert := false }, boot := 1 } false

def execAuxPowerOn (s : State) : Res :=
  if s.pins.aux then absent "AUX is present" else .next (auxOn s)

/-- Stage 1 ends: the innkeeper runs. Whether the key cache verified is not the model's to know (R560).
(DESIGN CHOICE, UNVERIFIED; log entries 39, 66.) -/
def innkeeperUp (s : State) : State :=
  let (v, s) := freshFree s
  confirmBoot { keysUp s (v.toNat % 2 == 0) with boot := 2 } false

/-- Stage 5: memory is trained, with the channels that failed mapped out; tables persist; pending map-outs are applied (R412). -/
def memoryUp (s : State) (failed : List Nat) : State :=
  (applyMapOut (failed.foldl (fun s c => if c < 384 then proposeChan s c 2 else s) s)).2

/-- A boot stage is complete. A verification that fails sends the boot to the other slot; with no slot left the stage stays. -/
def execBootStageDone (ok : Bool) (failed : List (BitVec 9)) (s : State) : Res :=
  if !s.pins.aux then absent "AUX is absent"
  else match s.boot with
  | 1 =>
    if (bootSlot s false).isNone then absent "no innkeeper image verifies"
    else .next (if ok then innkeeperUp s else fallBack s false 1)
  | 2 => if ok ∧ s.pins.pwrEn then .next { s with boot := 3 } else absent "the input is not qualified"
  | 3 =>
    if ok ∧ s.pins.pwrEn ∧ !s.pins.moduleReset then
      .next (stageStart { s with pins := { s.pins with mains := true, pwrfail := false }, boot := 4 } true)
    else absent "the rails are not sequenced"
  | 4 =>
    if (bootSlot s true).isNone then absent "no steward image verifies"
    else .next (if ok then stewardStart { s with boot := 5 } else fallBack s true 1)
  | 5 =>
    if ok then
      let s := (List.range 24).foldl trainBegin (loadShape { memoryUp s (failed.map (·.toNat)) with boot := 6 })
      .next (if s.pins.perst then s else trainPcie s)
    else absent "memory training does not end so"
  | 6 => if ok then .next { s with boot := 7 } else absent "link training never holds back READY"
  | _ => absent "no boot stage is in progress"

/-- Stage 7. -/
def execBootReady (s : State) : Res :=
  if s.boot ≠ 7 then absent "the boot is not at stage 7"
  else .next (readyNow (confirmBoot (applySettings { s with boot := 0 }) true))

/-- A PENDING image was not confirmed in time (R555). -/
def execBootConfirmTimeout (bundle : Bool) (time : Nat) (s : State) : Res :=
  match s.mgmt.confirmAt.find? (fun c => c.1 == bundle) with
  | none => absent "no boot waits to be confirmed"
  | some c =>
    if time < s.now ∨ time < c.2 ∨ !s.pins.aux then absent "the boot may still be confirmed"
    else
      let s := atTime s time
      .next (fallBack (if bundle then clearMain s 3 else s) bundle 2)

/-! ### Supply and thermal trips -/

/-- A sensor at 125 °C removes the main rails (R505). -/
def execThermtrip (sensor : BitVec 7) (s : State) : Res :=
  if !s.pins.mains ∨ 96 ≤ sensor.toNat then absent "the main rails are off, or there is no such sensor"
  else
    let s := mainsOff s
    .next (innkeeperHalt { s with pins := { s.pins with thermtrip := true } } 0x9001 0x43)

/-- The 48 V input falls below 36 V (R507). (DESIGN CHOICE; log entry 63.) -/
def execPowerFail (time : Nat) (s : State) : Res :=
  if !s.pins.mains ∨ s.gov.failAt.isSome ∨ time < s.now then absent "the main rails are off, or failing already"
  else
    let s := atTime s time
    let s := if s.boot = 0 then quiesce s else s
    .next { s with pins := { s.pins with pwrfail := true }, gov := { s.gov with failAt := some time } }

/-- The hold-up of 2 ms ends, or the regulators' own lockout acts before that. (DESIGN CHOICE; log entry 63.) -/
def execHoldupEnd (time : Nat) (s : State) : Res :=
  match s.gov.failAt with
  | none => absent "the input has not failed"
  | some t =>
    if time < s.now ∨ (t + 2000000 < time ∧ s.now ≤ t + 2000000) then absent "the hold-up ends earlier"
    else .next (innkeeperHalt (mainsOff (atTime s time)) 0x9000 0x45)

/-- VCORE below 0.50 V for 1 µs: the main domain restarts (R508). -/
def execVcoreSupervisor (s : State) : Res :=
  if !s.pins.mains ∨ s.boot = 8 then absent "the main domain is off, or held in reset"
  else .next (innkeeperHalt (moduleReset s s.pins.moduleReset) 0x9002 0x46)

/-! ### The steward's watchdog (R549) -/

def execWatchdogExpiry (core : BitVec 2) (time : Nat) (s : State) : Res :=
  let c := core.toNat
  let due := tabGet (fun _ => 0) s.mgmt.kicks c + csrF s (inkCsr 0x18) 4 14 * 1000000
  let runs := s.pins.mains && (s.boot == 0 || s.boot == 5 || s.boot == 6 || s.boot == 7) && s.rest == 0 && s.resetting == 0
  if !runs ∨ getB (csrGet s (inkCsr 0x18)) (18 + c) ∨ time < s.now ∨ time < due then absent "the watchdog does not expire"
  else
    let s := csrSetF (atTime s time) (inkCsr 0x18) (18 + c) 1 1
    .next (raise s (0x8000 + c) 0x50 DEGRADE)

/-! ### Rest (R541–R547) -/

/-- Registers of tiles and clusters that Rest keeps or that are written again from the volatile settings: DSP_CTRL, the trace registers and
PAN_CTRL. -/
def restKeeps (a : Nat) : Bool :=
  if a < clusterCsr 0 0 ∨ clusterCsr 16 0 ≤ a then clusterCsr 16 0 ≤ a
  else
    let o := (a - clusterCsr 0 0) % 0x10000
    o == 0 || o == 0x4000 || (a < clusterCsr 1 0 && (o == 0x20 || o == 0x28 || o == 0x30))

/-- Entry: tiles and clusters lose their state, memory is in self-refresh. (DESIGN CHOICE; log entries 1, 50.) -/
def enterRest (s : State) : State :=
  let s := quiesce s
  let s := undefSpan s sramBase sramTop
  { s with
    csr := s.csr.filter (fun e => restKeeps e.1)
    tiles := []
    staged := []
    disps := []
    pans := []
    suspended := []
    ended := []
    semQ := []
    tallyQ := []
    notifyLast := []
    barArr := []
    barRel := []
    groupWait := []
    partials := []
    idleSince := none
    rest := 1 }

/-- The module may enter Rest: awake, READY, no plan running, not in HALT. (DESIGN CHOICE; log entry 50.) -/
def restFree (s : State) : Bool := s.boot == 0 && s.resetting == 0 && s.rest == 0 && !halted s && activeSlots s == [] && s.load.isNone

/-- The host places the function in D3hot; Rest follows once no plan runs (R473). (DESIGN CHOICE; log entry 50.) -/
def execD3hotEntry (s : State) : Res :=
  if s.dstate ≠ 0 ∨ s.boot ≠ 0 ∨ !s.pins.mains ∨ s.pins.perst then absent "the function is not in D0"
  else
    let s := { s with dstate := 3 }
    .next (if restFree s ∧ s.cmd.isNone ∧ s.oobCmd.isNone then enterRest s else s)

/-- A step with no command waiting: 1 ns passes; a module in D3hot whose last plan has ended enters Rest. (DESIGN CHOICE; log entry 1.) -/
def idleStep (s : State) : State :=
  if s.dstate = 3 ∧ restFree s ∧ s.cmd.isNone ∧ s.oobCmd.isNone then enterRest s else passTime s 1

/-- A wake event; a function in D3hot returns to D0 (R544). (DESIGN CHOICE; log entry 50.) -/
def execRestWake (s : State) : Res :=
  if s.rest = 1 then .next { s with rest := 2, dstate := 0 }
  else if s.dstate = 3 then .next { s with dstate := 0 }
  else absent "the module is awake"

end Sys2Proof.Machine
end

