-- ==== Sys2Proof/Machine/Mailbox.lean ====
section
/-! DEFINITION. The host mailbox and the out-of-band mailbox: their payload, accepting a command, checking its request, and giving its result
(R478–R484, R563). What each command does is in Commands.lean. -/

namespace Sys2Proof.Machine

/-! ### Reaching the module -/

/-- The host reaches BAR0 and BAR2: the link is trained, the function is in D0 and no PERST# sequence is in progress.
(DESIGN CHOICE; log entry 50.) -/
def hostUp (s : State) : Bool :=
  s.pins.mains && !s.pins.perst && (s.boot == 0 || s.boot == 6 || s.boot == 7) && s.resetting != 2 && s.dstate == 0

/-- An access that wakes a resting module is held, and served once the module has left Rest (R544). (DESIGN CHOICE; log entry 50.) -/
def afterRest (held : List Instr) (s : State) (eff : Res) : Res := if s.rest = 0 then eff else .next (holdWake s held)

/-- HST_STATUS as it reads (Table 18-3). (DESIGN CHOICE; log entry 6.) -/
def hstStatus (s : State) : Word :=
  let mask (f : Nat → Bool) : Nat := (List.range 8).foldl (fun m i => m + bit (f i) * 2 ^ i) 0
  BitVec.ofNat 64 (bit s.pins.ready + bit (halted s) * 2 + bit (s.rest != 0) * 4 + bit s.aborting * 8 + mask (fun i => planActive (planOf s i)) * 2 ^ 4 +
    mask (fun i => (planOf s i).isSome) * 2 ^ 12)

/-! ### Payload (R482) -/

/-- DESIGN CHOICE; log entry 51. -/
def payByte (s : State) (i : Nat) : Byte := tabGet (fun i => if s.mbxGen = 0 then 0 else Config.freeByte s.mbxGen i) s.mbxPay i
def payBytes (s : State) (n : Nat) : List Byte := (List.range n).map (payByte s)

/-- Bytes written to the payload. -/
def payPut (s : State) (off : Nat) : List Byte → State
  | [] => s
  | b :: bs => payPut { s with mbxPay := tabInsert s.mbxPay off b } (off + 1) bs

/-- The payload holds a result; what lies beyond it is undefined. -/
def payResult (s : State) (bs : List Byte) : State :=
  { s with mbxPay := (List.range bs.length).zip bs, mbxGen := s.freeCtr, freeCtr := s.freeCtr + 1 }

/-! ### Requests (R483) -/

/-- `n` bytes at `off` of a payload, as a number. -/
def pay (p : List Byte) (off n : Nat) : Nat := ofLE ((p.drop off).take n)

/-- The first byte of a payload that is not 0 and belongs to no field. -/
def firstRsv (used : List (Nat × Nat)) : Nat → List Byte → Option Nat
  | _, [] => none
  | i, b :: bs => if b != 0 && !used.any (fun u => decide (u.1 ≤ i ∧ i < u.1 + u.2)) then some i else firstRsv used (i + 1) bs

/-- A request's form: its fields, as offset and length. DETAIL of a refusal is the length of a short request, or the offset of the reserved
byte (log entry 40). -/
def badForm (used : List (Nat × Nat)) (p : List Byte) : Option Nat :=
  if p.length < used.foldl (fun m u => max m (u.1 + u.2)) 0 then some p.length else firstRsv used 0 p

/-- What a command does when it begins or goes on: it completes with code, detail and result payload, or it is busy. -/
inductive OpRes where
  | done (code detail : Nat) (pay : List Byte) (s : State)
  | busy (s : State)

def okRes (s : State) (p : List Byte) : OpRes := .done 0 0 p s
def errRes (s : State) (code detail : Nat) : OpRes := .done code detail [] s
/-- DESIGN CHOICE; log entry 40. -/
def badPay (s : State) (off : Nat) : OpRes := errRes s 0x02 off
def notNow (s : State) (detail : Nat) : OpRes := errRes s 0x03 detail

/-- The request has the fields `used`, and then `eff` judges them. (DESIGN CHOICE; log entries 40, 46.) -/
def withForm (s : State) (c : Cmd) (used : List (Nat × Nat)) (eff : List Byte → OpRes) : OpRes :=
  match badForm used c.payload with
  | some off => badPay s off
  | none => eff c.payload

/-- The first running plan's slot. -/
def runningSlot (s : State) : Option Nat := (activeSlots s).head?

def displaced (s : State) : Bool := twinState s == 6

/-- DETAIL of DEVICE_FAULT: the sequence number of the ledger's latest record (log entry 40). -/
def lastEntry (s : State) : Nat := (s.ledger.nextSeq + 2 ^ 32 - 1) % 2 ^ 32

/-! ### Results (R478) -/

/-- A command of either path completes with a result. -/
def finish (s : State) (c : Cmd) (code detail : Nat) (p : List Byte) : State :=
  if c.oob then oobAnswer { s with oobCmd := none } c.tag code detail p
  else mbxDone (payResult { s with cmd := none } p) c.tag code detail p.length

/-- The command goes on being busy, as it now stands. -/
def keepCmd (s : State) (c : Cmd) : State := if c.oob then { s with oobCmd := some c } else { s with cmd := some c }

/-- What a command in progress has come to. (DESIGN CHOICE; log entries 40, 46.) -/
def settle (c : Cmd) : OpRes → State
  | .done code detail p s => finish s c code detail p
  | .busy s => s

/-- The command of either path that the steward runs. -/
def running (s : State) : Option Cmd :=
  match s.cmd, s.oobCmd with
  | some a, some b => if a.started then some a else if b.started then some b else none
  | some a, none => if a.started then some a else none
  | none, some b => if b.started then some b else none
  | none, none => none

/-- The command that the steward takes next. -/
def waiting (s : State) : Option Cmd := s.cmd.orElse (fun _ => s.oobCmd)

/-- PROGRESS and STATUS as a command is accepted: BUSY with its tag. -/
def mbxBusy (s : State) (tag : Nat) : State :=
  csrPut (csrPut s (hstCsr 0x1010) (BitVec.ofNat 64 (1 + tag * 2 ^ 32))) (hstCsr 0x1020) 0

def newCmd (s : State) (op tag : Nat) (p : List Byte) (oob : Bool) : Cmd :=
  { opcode := op, tag := tag, payload := p, oob := oob, started := false, since := s.now, rounds := [], errs := [], firstFail := none }

end Sys2Proof.Machine
end

