-- ==== Sys2Proof/Machine/Commands.lean ====
section
/-! DEFINITION. What each mailbox command does (Tables 18-7 and 18-8). `op…` begins a command, and `end…` completes a long one. Request
checks come first, in the order of the payload; where a check fails nothing has changed (R484). -/

namespace Sys2Proof.Machine

/-! ### Identity and status -/

def opIdentify (s : State) (c : Cmd) : OpRes :=
  withForm s c [] (fun _ => okRes s (leBytes 4 0x10 ++ leBytes 4 (fwWord s) ++ leBytes 8 Config.serial.toNat ++ leBytes 2 (ownId s) ++
    leBytes 6 (liveChans s).length ++ leBytes 8 (regionTop s) ++ leBytes 8 (spareTop s) ++ leBytes 4 (imageIn s s.mgmt.booted.2).secver))

/-- QUERY_RUN's state code of a slot. -/
def runState (s : State) (slot : Nat) : Nat := ((runOf s slot).map (fun x => x.2.state)).getD 0

def opGetStatus (s : State) (c : Cmd) : OpRes :=
  withForm s c [] (fun _ => okRes s (leBytes 8 (hstStatus s).toNat ++ (List.range 8).flatMap (fun i => leBytes 1 (runState s i)) ++
    leBytes 1 (if halted s then 3 else maxLevel s) ++ leBytes 3 (twinState s) ++ leBytes 2 (capW s)))

/-- A sensor record (Table 19-3); `none` for a sensor that is excluded. -/
def sensorRec (group k unit : Nat) (x : Option (Int × Nat)) : List Byte :=
  leBytes 4 (k + group * 2 ^ 16 + unit * 2 ^ 20 + bit x.isSome * 2 ^ 24) ++ leBytes 4 (ofSigned 32 ((x.map (·.1)).getD 0)) ++ leBytes 8 ((x.map (·.2)).getD 0)

/-- A value that no command of the model reports, as the part measures it now. -/
def sensed (s : State) (group k : Nat) : Option (Int × Nat) := some ((Config.sensor group k s.now).toInt, s.now)

/-- A die temperature in m°C. -/
def sensedTemp (s : State) (group k n : Nat) : Option (Int × Nat) :=
  if s.gov.excluded.contains n then none
  else match tabGet (fun _ => none) s.gov.sensors n with
    | some (x, t) => some (10 * x, t)
    | none => sensed s group k

/-- The worst MR4 code of a package: the first with the highest stage. -/
def worstMr4 (s : State) (k : Nat) : Nat :=
  ((List.range 3).map (fun i => csrF s (chanAddr (4 * k + i + 1) 0) 17 5)).foldl
    (fun w x => if Config.mr4Stage w < Config.mr4Stage x then x else w) (csrF s (chanAddr (4 * k) 0) 17 5)

/-- The records of a sensor group (Table 19-4). -/
def sensorGroup (s : State) (g : Nat) : List Byte :=
  let i (n : Nat) : Int := (n : Int)
  match g with
  | 0 => (List.range 64).flatMap (fun k => sensorRec 0 k 0 (sensedTemp s 0 k k))
  | 1 => (List.range 32).flatMap (fun k => sensorRec 1 k 0 (sensedTemp s 1 k (64 + k)))
  | 2 => (List.range 96).flatMap (fun k => sensorRec 2 k 4 (some (i (worstMr4 s k), s.now / 4000000 * 4000000)))
  | 3 => (List.range 36).flatMap (fun k => sensorRec 3 k (if k % 3 = 0 then 1 else if k % 3 = 1 then 2 else 0) (sensed s 3 k))
  | 4 => (List.range 6).flatMap (fun k => match k, s.gov.powerHist with
      | 2, p :: _ => sensorRec 4 2 3 (some (1000 * i p, s.now / 50000 * 50000))
      | 3, _ :: _ => sensorRec 4 3 3 (some (1000 * i (csrF s (govCsr 0x18) 10 11), s.now / 50000 * 50000))
      | _, _ => sensorRec 4 k (if k = 2 ∨ k = 3 then 3 else if k % 2 = 0 then 1 else 2) (sensed s 4 k))
  | 5 => (List.range 2).flatMap (fun k => sensorRec 5 k 0 (sensed s 5 k))
  | _ => sensorRec 6 0 1 (some (i (csrF s (govCsr 0x18) 0 10), s.now)) ++ sensorRec 6 1 6 (sensed s 6 1) ++
      (List.range 5).flatMap (fun k => sensorRec 6 (2 + k) 5 (some (i (csrF s (govCsr 0x20) (7 * k) 7 * 1000 / 64), s.now))) ++
      sensorRec 6 7 3 (some (1000 * i (capW s), s.now))

/-- DEDUCED; log entry 57. -/
def opGetTelemetry (s : State) (c : Cmd) : OpRes :=
  withForm s c [(0, 8)] (fun p =>
    if 2 ^ 7 ≤ pay p 0 8 then badPay s 0
    else okRes s (((List.range 7).filter (fun g => (pay p 0 8).testBit g)).flatMap (sensorGroup s)))

/-! ### Plans -/

/-- The local address of `n` bytes that a locator names in a host-owned HOST region. (DESIGN CHOICE; log entry 30.) -/
def hostSpan (s : State) (l : Word) (n : Nat) (write : Bool) : Option Nat :=
  let i := locIdx l
  if locKind l = 2 ∧ locRsv l = 0 ∧ rgnValid s i ∧ rgnHost s i ∧ rgnOwner s i = 8 ∧ locOff l + n ≤ rgnSize s i ∧ (!write ∨ rgnWritable s i) then
    some (rgnBase s i + locOff l) else none

def opLoadPlan (s : State) (c : Cmd) : OpRes :=
  withForm s c [(0, 8), (8, 8), (16, 1), (17, 1), (24, 8)] (fun p =>
    let loc : Word := BitVec.ofNat 64 (pay p 0 8)
    let n := pay p 8 8
    let ring := pay p 24 8
    if n = 0 then badPay s 8
    else if 8 ≤ pay p 16 1 ∧ pay p 16 1 ≠ 0xFF then badPay s 16
    else if 2 ≤ pay p 17 1 then badPay s 17
    else if pay p 17 1 = 0 ∧ ring ≠ 0 then badPay s 24
    else if pay p 17 1 = 1 ∧ (ring % 65536 ≠ 0 ∨ ring < 0x4000000) then badPay s 24
    else if displaced s then notNow s 0xFF
    else if (hostSpan s loc (if pay p 17 1 = 1 then ring else n) false).isNone then errRes s 0x05 0
    else
      let s := csrPut (csrPut s (hstCsr 0x28) 0) (hstCsr 0x30) 0
      .busy (if pay p 17 1 = 1 then
        { s with load := some { loc := loc, bytes := n, slot := pay p 16 1, ring := ring, got := [], lastAdvance := s.now } } else s))

def loadOutcome (s : State) (r : Chk (List Byte × State)) : OpRes :=
  match r with
  | .ok (bs, t) => okRes { t with load := none } bs
  | .error e => errRes (loadDrop s) e.1 e.2

/-- The image is whole: it is checked and loaded. In ring mode a check that fails earlier ends the command as soon as it can be made. -/
def endLoadPlan (s : State) (c : Cmd) : Option OpRes :=
  match s.load with
  | some l => (ringEnd s l).map (loadOutcome s)
  | none =>
    let n := pay c.payload 8 8
    match hostSpan s (BitVec.ofNat 64 (pay c.payload 0 8)) n false with
    | some a => some (loadOutcome s (loadImage s (memBytes s a n) (pay c.payload 16 1)))
    | none => some (errRes s 0x05 0)

/-- A command whose request is a plan slot. -/
def withSlot (s : State) (c : Cmd) (eff : Nat → Plan → OpRes) : OpRes :=
  withForm s c [(0, 1)] (fun p =>
    if 8 ≤ pay p 0 1 then badPay s 0
    else match planOf s (pay p 0 1) with
      | some x => eff (pay p 0 1) x
      | none => errRes s 0x05 0)

def opUnloadPlan (s : State) (c : Cmd) : OpRes :=
  withSlot s c (fun slot p => if planActive (some p) then notNow s slot else okRes (unloadPlan s slot) [])

/-- A run as it starts. -/
def freshRun (seed : Word) : Run :=
  { seed := seed, state := 1, ordinal := 0, begun := false, pc := 0, loops := [], inPhase := false, drained := false,
    stopReq := false, lists := [], held := [], barGen := 0, cacheMask := 0, invalMask := 0, preloads := [], released := false, pools := [],
    faultSource := 0, faultCause := 0, faultAddr := 0, sealed := [], share := 0 }

/-- Regions a plan names: its own, and those of this module that its preload and pool tables reach by KIND 3 locators; `write` asks for those it may
write, which are its WRITABLE ones and those of its pools (Table 2-10, R375). (DESIGN CHOICE; log entry 30.) -/
def planRegions (s : State) (p : Plan) (write : Bool) : List Nat :=
  let far (ls : List Word) : List Nat :=
    (ls.filter (fun l => locKind l == 3 && locDev l == ownId s)).filterMap (fun l => regionOf s (locLocal l) 1)
  (if write then p.regions.filter (rgnWritable s) else p.regions ++ far (p.preloads.map (fun e => BitVec.ofNat 64 (getF e 0 64)))) ++ far p.pools

/-- The slot of a running plan that uses a region, or 0xFF where the load in progress reads it (R107). (DESIGN CHOICE; log entry 30.) -/
def regionUser (s : State) (i : Nat) : Option Nat :=
  match (activeSlots s).find? (fun k => ((planOf s k).map (fun p => (planRegions s p false).contains i)).getD false) with
  | some k => some k
  | none => match s.load with
    | some l => if locIdx l.loc = i then some 0xFF else none
    | none => none

/-- One of two plans writes a region that the other reads or writes (R39). -/
def regionClash (s : State) (p q : Plan) : Bool :=
  (planRegions s p true).any (planRegions s q false).contains || (planRegions s q true).any (planRegions s p false).contains

/-- The slot of a running plan that has a doorbell page of this one. -/
def doorbellClash (s : State) (p : Plan) : Option Nat :=
  p.doorbells.findSome? (fun e => if getF (csrGet s (dbBind (getF e 0 8))) 0 2 ≠ 0 then some (getF (csrGet s (dbBind (getF e 0 8))) 22 4) else none)

/-- The run begins: objects, queues, instruction stores, doorbells and collective contexts are set up, and pantries are empty (R65, R281,
R288, R300, R354, R438). (DESIGN CHOICE; log entry 27.) -/
def runStart (s : State) (slot : Nat) (p : Plan) (seed : Word) : State :=
  let s := loadCode (queueInit (syncInit s p) slot p) p
  let s := invalPlan (doorbellInit s slot p) p
  let s := setPlan { s with runCtr := s.runCtr + 1 } slot (some { p with run := some (freshRun seed) })
  let s := runRecord s slot p.id seed
  if !p.fabric then s
  else
    let s := collInit s p
    if p.coll.all (fun e => collUsable s e.2) then s else planStop (raise s 0x3200 0x20 CONTAIN) slot 0x3200 0x20 0

/-- DESIGN CHOICE; log entry 46. -/
def opRun (s : State) (c : Cmd) : OpRes :=
  withForm s c [(0, 1), (1, 1), (8, 8)] (fun q =>
    let slot := pay q 0 1
    if 8 ≤ slot then badPay s 0
    else if 2 ≤ pay q 1 1 then badPay s 1
    else match planOf s slot with
      | none => errRes s 0x05 0
      | some p =>
        if displaced s then notNow s 0xFF
        else if planActive (some p) then notNow s slot
        else if 4 ≤ (activeSlots s).length then notNow s 0xFF
        else match (activeSlots s).find? (fun i => match planOf s i with
            | some o => (o.clusterMask &&& p.clusterMask) != 0 || regionClash s o p
            | none => false) with
          | some i => errRes s 0x0A i
          | none => match doorbellClash s p with
            | some i => errRes s 0x0A i
            | none =>
              let n := s.runCtr
              okRes (runStart s slot p (if pay q 1 1 = 1 then BitVec.ofNat 64 (pay q 8 8) else p.seed)) (leBytes 8 n))

/-- DESIGN CHOICE; log entry 46. -/
def opStop (s : State) (c : Cmd) : OpRes :=
  withSlot s c (fun slot _ => match activeRun s slot with
    | some (_, r) => okRes (setRun s slot { r with stopReq := true, state := 2 }) []
    | none => notNow s slot)

/-- DESIGN CHOICE; log entry 27. -/
def opQueryRun (s : State) (c : Cmd) : OpRes :=
  withSlot s c (fun slot p => match runOf s slot with
    | some (_, r) => okRes s (leBytes 1 r.state ++ leBytes 3 (bit p.nondet) ++ leBytes 4 r.ordinal ++ leBytes 2 r.faultSource ++ leBytes 6 r.faultCause ++
        leBytes 7 r.faultAddr)
    | none => okRes s (List.replicate 23 0))

/-! ### Regions and tables -/

def opAllocRegion (s : State) (c : Cmd) : OpRes :=
  withForm s c [(0, 8), (8, 1), (10, 2), (12, 1), (13, 1)] (fun p =>
    let size := pay p 0 8
    let mode := pay p 8 1
    if 4 ≤ mode then badPay s 8
    else if !targetLegal mode (pay p 10 2) false then badPay s 10
    else if 16 ≤ pay p 12 1 then badPay s 12
    else if 32 ≤ pay p 13 1 then badPay s 13
    else if 2 ^ 27 ≤ size ∨ !sizeLegal s mode size then badPay s 0
    else if displaced s then notNow s 0xFF
    else
      let attr : Word := BitVec.ofNat 64 (size + mode * 2 ^ 28 + pay p 10 2 * 2 ^ 30 + pay p 12 1 * 2 ^ 39 + pay p 13 1 * 2 ^ 43 + 8 * 2 ^ 48)
      let (ok, t) := twinRoom s (getB attr 45)
      if !ok then errRes t 0x04 0
      else match placeRegion t attr with
        | some (i, t) => okRes t (leBytes 8 i ++ leBytes 8 (rgnBase t i))
        | none => errRes t 0x04 0)

/-- DESIGN CHOICE; log entry 46. -/
def opFreeRegion (s : State) (c : Cmd) : OpRes :=
  withForm s c [(0, 2)] (fun p =>
    let i := pay p 0 2
    if 4096 ≤ i then badPay s 0
    else if !rgnValid s i ∨ rgnOwner s i ≠ 8 then errRes s 0x05 0
    else if rgnMirrored s i ∧ displaced s then notNow s 0xFF
    else match regionUser s i with
      | some k => notNow s k
      | none => okRes (dropRegion s i) [])

/-- The steps of Table 14-4: version slot `v` for the new descriptor `d` that `l` names, at `g`, of the plan in `slot`, then the old slot retires. -/
def publish (s : State) (l : Word) (g : Tgt) (d : Desc) (v old slot : Nat) : State := verRetire (verGive s slot v l g d) old

/-- Where a table descriptor lies: in a region or a scratchpad (R379). -/
def tableTgt (s : State) (l : Word) : Option Tgt :=
  match locTgt s l 64 false with
  | .ok (.dram i o) => some (.dram i o)
  | .ok (.spad a) => some (.spad a)
  | _ => none

/-- DESIGN CHOICE; log entry 46. -/
def opTablePublish (s : State) (c : Cmd) : OpRes :=
  withForm s c [(0, 8), (64, 64)] (fun p =>
    let l : Word := BitVec.ofNat 64 (pay p 0 8)
    let d : Desc := BitVec.ofNat 512 (pay p 64 64)
    if locKind l = 0 ∨ locKind l = 3 ∨ !locBits l ∨ l.toNat % 64 ≠ 0 then badPay s 0
    else if displaced s then notNow s 0xFF
    else match tableTgt s l with
    | none => errRes s 0x05 0
    | some g =>
      let old : Desc := BitVec.ofNat 512 (memNat s (tgtAddr s g) 64)
      let ov := tdVslot old
      if !verLive s ov (tdId old) then errRes s 0x0B ov
      else match verHeld s (tdId d) with
        | some v => errRes s 0x0A v
        | none =>
          if !tdLegal d then badPay s 64
          else
            let slot := ((tabGet (fun _ => none) s.verInfo ov).map (·.plan)).getD 15
            match verFree s with
            | none => errRes s 0x04 0
            | some v =>
              if tdWritable old ∧ planActive (planOf s slot) then notNow s slot
              else okRes (publish s l g d v ov slot) (leBytes 2 v))

/-! ### Settings -/

def opSetCap (s : State) (c : Cmd) : OpRes :=
  withForm s c [(0, 2)] (fun p =>
    let w := pay p 0 2
    if 600 ≤ w ∧ w ≤ 1500 then okRes (settingRecord (csrSetF s (govCsr 0x08) 0 11 w) 0x0100 w) [] else badPay s 0)

def opSetPolicy (s : State) (c : Cmd) : OpRes :=
  withForm s c [(0, 2), (8, 8), (16, 1), (17, 1)] (fun p =>
    let n := pay p 0 2
    let v := pay p 8 8
    let (fr, th) := (pay p 16 1, pay p 17 1)
    let plan := (paramOf n).any (fun x => x.home == .plan)
    if n ≠ 0xFFFF ∧ ((paramOf n).isNone ∨ plan) then badPay s 0
    else if n ≠ 0xFFFF ∧ !paramLegal s n v then badPay s 8
    else if 16 ≤ fr ∨ (fr &&& th) ≠ 0 then badPay s 16
    else if 16 ≤ th then badPay s 17
    else
      let s := if n = 0xFFFF then s else settingRecord (setParam s n v false) n v
      okRes (setFreeze s fr th) [])

/-- Flash work holds a command off (R492), or the flash is isolated (Table 20-4). -/
def flashHeld (s : State) : Bool := s.mgmt.flashQ != [] || s.ledger.isoFlash

/-- DESIGN CHOICE; log entry 46. -/
def opSetPersistent (s : State) (c : Cmd) : OpRes :=
  withForm s c [(0, 2)] (fun p =>
    let n := pay p 0 2
    if n ≠ 0xFFFF ∧ !settingNums.contains n then badPay s 0
    else if n ≠ 0xFFFF ∧ !settingAllowed s n then errRes s 0x0F 0
    else if flashHeld s then notNow s 0xFF
    else
      let nums := if n = 0xFFFF then settingNums.filter (settingAllowed s) else [n]
      let jobs := nums.map (fun k => FlashJob.setting (recordFor s k).1 (recordFor s k).2)
      .busy { s with mgmt := { s.mgmt with flashQ := jobs, flashBad := false } })

/-- The job writes a settings record. -/
def isSetting : FlashJob → Bool
  | .setting _ _ => true
  | .image _ _ => false

def endSetPersistent (s : State) : Option OpRes :=
  if s.mgmt.flashQ.any isSetting then none else some (if s.mgmt.flashBad then errRes s 0x12 (lastEntry s) else okRes s [])

/-! ### Log, faults, trace -/

/-- The entries of a ring of `n` records that ends before index `next`, oldest first, with their index. -/
def ringOrder (l : Tab (Option LogRec)) (n next : Nat) : List (Nat × LogRec) :=
  let k := next % n
  let up := l.filterMap (fun e => if k ≤ e.1 then e.2.map (fun r => (next - k + e.1 - n, r)) else none)
  up ++ l.filterMap (fun e => if e.1 < k then e.2.map (fun r => (next - k + e.1, r)) else none)

def opReadLog (s : State) (c : Cmd) : OpRes :=
  withForm s c [(0, 1), (4, 4), (8, 4)] (fun p =>
    let n := pay p 8 4
    if 2 ≤ pay p 0 1 then badPay s 0
    else if (if c.oob then 31 else 511) < n then badPay s 8
    else
      let all := if pay p 0 1 = 0 then ringOrder s.ledger.ring 4096 s.ledger.nextSeq else ringOrder s.ledger.flash 65536 s.ledger.flashNext
      let recs := (all.filter (fun e => decide (pay p 4 4 ≤ e.1))).take n
      let next := ((recs.getLast?).map (fun e => e.1 + 1)).getD (pay p 4 4)
      okRes s (leBytes 4 recs.length ++ leBytes 12 (next % 2 ^ 32) ++ recs.flatMap (fun e => recBytes e.2)))

/-- DESIGN CHOICE; log entry 46. -/
def opClearFault (s : State) (c : Cmd) : OpRes :=
  withForm s c [(0, 2), (2, 1)] (fun p => okRes (ackClass s (pay p 0 2) (pay p 2 1) true) [])

def opInjectFault (s : State) (c : Cmd) : OpRes :=
  withForm s c [(0, 2), (2, 1), (4, 4)] (fun p =>
    if !([0x10, 0x11, 0x12, 0x30].contains (pay p 2 1)) then badPay s 2
    else if csrF s (ldgCsr 0) 1 1 = 0 then errRes s 0x0F 0
    else okRes (armInj s (pay p 0 2) (pay p 2 1) (pay p 4 4)) [])

/-- The access is one to DRAM of this module. -/
def inDram : Except AccErr Tgt → Bool
  | .ok (.dram _ _) => true
  | _ => false

def opTraceCtrl (s : State) (c : Cmd) : OpRes :=
  withForm s c [(0, 8), (8, 1), (9, 1), (10, 1)] (fun p =>
    let l : Word := BitVec.ofNat 64 (pay p 0 8)
    let (fl, sz, sm) := (pay p 8 1, pay p 9 1, pay p 10 1)
    if l.toNat % 4096 ≠ 0 then badPay s 0
    else if 4 ≤ fl then badPay s 8
    else if (sz < 7 ∨ 31 < sz) ∧ (sz ≠ 0 ∨ fl.testBit 0) then badPay s 9
    else if 16 < sm then badPay s 10
    else if fl.testBit 0 && !inDram (locTgt s l (32 * 2 ^ sz) true) then errRes s 0x05 0
    else
      let s := csrPut (csrPut s (clusterCsr 0 0x20) l) (clusterCsr 0 0x28) (BitVec.ofNat 64 (fl + sz * 4 + sm * 2 ^ 7))
      okRes (if fl.testBit 0 then traceLostFlush (csrPut s (clusterCsr 0 0x30) 0) else s) [])

/-! ### Memory -/

def bitmapChans (p : List Byte) (off : Nat) : List Nat := (List.range 384).filter (fun ch => (pay p off 48).testBit ch)

/-- A round of MEM_TEST: the generators of its channels run one pattern. (DESIGN CHOICE; log entry 41.) -/
def testRound (s : State) (c : Cmd) (pattern : Nat) : State :=
  let p := c.payload
  (bitmapChans p 16).foldl (fun s ch =>
    tgStart (csrPut s (chanAddr ch 0x40) (BitVec.ofNat 64 (pattern + 2 * 2 ^ 5 + pay p 0 1 * 2 ^ 8 + (pay p 2 1 - 1) * 2 ^ 10))) ch) s

/-- Round after round; with none left the totals. (DESIGN CHOICE; log entry 41.) -/
def testNext (s : State) (c : Cmd) : OpRes :=
  match c.rounds with
  | r :: rs => .busy (testRound (keepCmd s { c with rounds := rs }) c r)
  | [] => okRes s ((List.range 384).flatMap (fun ch => leBytes 4 (tabGet (fun _ => 0) c.errs ch)) ++ leBytes 8 (c.firstFail.getD 0))

/-- DESIGN CHOICE; log entry 41. -/
def opMemTest (s : State) (c : Cmd) : OpRes :=
  withForm s c [(0, 1), (1, 1), (2, 1), (16, 48)] (fun p =>
    if 2 ≤ pay p 0 1 then badPay s 0
    else if 64 ≤ pay p 1 1 then badPay s 1
    else if pay p 2 1 = 0 ∨ 64 < pay p 2 1 then badPay s 2
    else match runningSlot s with
      | some i => notNow s i
      | none =>
        let s := if pay p 0 1 = 1 then undefSpan ((validRegions (unloadAll s)).foldl dropRegion (unloadAll s)) 0 dramTop else s
        testNext s { c with rounds := (List.range 6).filter (fun k => (pay p 1 1).testBit k) })

/-- The channels' results of a round join the totals. The first failing address is MEM_TG_FAIL with the channel above it (log entry 41). -/
def endMemTest (s : State) (c : Cmd) : Option OpRes :=
  let chans := bitmapChans c.payload 16
  if chans.any (fun ch => csrF s (chanAddr ch 0x48) 0 1 == 1) then none
  else
    let c := chans.foldl (fun (c : Cmd) ch =>
      let n := csrF s (chanAddr ch 0x48) 32 32
      let fail := (csrGet s (chanAddr ch 0x50)).toNat
      let first := if c.firstFail.isNone ∧ fail.testBit 39 then some (fail % 2 ^ 40 + ch * 2 ^ 40) else c.firstFail
      { c with errs := tabSet (fun _ => 0) c.errs ch (min (tabGet (fun _ => 0) c.errs ch + n) (2 ^ 32 - 1)), firstFail := first }) c
    some (testNext s c)

/-- DESIGN CHOICE; log entry 46. -/
def opMemRemap (s : State) (c : Cmd) : OpRes :=
  withForm s c [(0, 48)] (fun p => match runningSlot s with
    | some i => notNow s i
    | none =>
      if pay p 0 48 = 0 then .busy s else okRes ((bitmapChans p 0).foldl (fun s ch => proposeChan s ch 3) s) (leBytes 8 0))

/-- The pending map-outs are applied; this is the commit point of Table 18-13. -/
def endMemRemap (s : State) : Option OpRes :=
  let x := applyMapOut s
  some (okRes x.2 (leBytes 8 x.1.length ++ x.1.flatMap (leBytes 2)))

/-! ### Fabric and twin -/

/-- DESIGN CHOICE; log entry 46. -/
def opLinkTrain (s : State) (c : Cmd) : OpRes :=
  withForm s c [(0, 4)] (fun p =>
    if 2 ^ 24 ≤ pay p 0 4 then badPay s 0
    else .busy (((List.range 24).filter (fun k => (pay p 0 4).testBit k)).foldl trainBegin s))

/-- The named ports have been trained, or 6 s have passed. (DESIGN CHOICE; log entry 46.) -/
def endLinkTrain (s : State) (c : Cmd) : Option OpRes :=
  let ports := (List.range 24).filter (fun k => (pay c.payload 0 4).testBit k)
  if ports.any (fun k => portState s k == 1) && decide (s.now < c.since + 6000000000) then none
  else
    let w := fabStatus s
    some (okRes s (leBytes 4 (getF w 0 24) ++ leBytes 4 (getF w 24 24)))

/-- The leading 4 bytes of the SHA-384 digest of the bitmap of device IDs (Table 16-10). -/
def shapeHash (bitmap : List Byte) : Nat := ofLE ((sha384 bitmap).take 4)

/-- DESIGN CHOICE; log entry 46. -/
def opSetFabricId (s : State) (c : Cmd) : OpRes :=
  withForm s c [(0, 2), (2, 2), (4, 1), (64, 256)] (fun p =>
    let id := pay p 0 2
    let map := (p.drop 64).take 256
    let ids := (List.range 2048).filter (fun d => (ofLE map).testBit d)
    if pay p 2 2 = 0 ∨ 2048 < pay p 2 2 then badPay s 2
    else if pay p 4 1 = 0 ∨ 128 < pay p 4 1 ∨ ((List.range 128).filter (fun g => ids.any (fun d => d / 16 == g))).length ≠ pay p 4 1 then badPay s 4
    else if ids.length ≠ pay p 2 2 then badPay s 64
    else if !ids.contains id then badPay s 0
    else match (List.range 8).find? (fun i => (planOf s i).isSome) with
      | some i => notNow s i
      | none =>
        let w := id + pay p 2 2 * 2 ^ 11 + pay p 4 1 * 2 ^ 23 + 2 ^ 31 + shapeHash map * 2 ^ 32
        let s := csrPut { s with shape := ids } (fabCsr 0x08) (BitVec.ofNat 64 w)
        .busy (trainAgain (csrSetF s (peerAddr id) 5 1 0)))

/-- Identity exchange and route installation have run on every port that answers, or their 50 ms have passed. A module whose new device ID no
twin serves leaves DISPLACED (R468). (DESIGN CHOICE; log entry 46.) -/
def endSetFabricId (s : State) (c : Cmd) : Option OpRes :=
  let open_ := (List.range 24).any (fun p => 3 ≤ (linkOf s p).step && (linkOf s p).step != 5 && portState s p != 0 && portState s p != 1)
  if open_ && decide (s.now < c.since + 50000000) then none
  else
    let s := if displaced s ∧ csrF s (peerAddr (ownId s)) 5 1 = 0 then enterTwin s 0 else s
    some (okRes s (leBytes 4 (csrF s (fabCsr 0x08) 32 32)))

/-- The first condition of R454 that does not hold here. -/
def pairFails (s : State) (x : Nat) : Nat :=
  if !portUp s 23 ∨ csrF s (portAddr 23) 4 11 ≠ x ∨ (twinState s = 4 ∧ x ≠ twinId s) then 1
  else if x / 16 ≠ ownId s / 16 ∨ !s.shape.contains x then 2
  else 0

/-- The twin is asked whether R454's conditions hold for it too: until it has answered, the command has one round to go. (DESIGN CHOICE; log entries
35, 46.) -/
def opTwinPair (s : State) (c : Cmd) : OpRes :=
  withForm s c [(0, 2)] (fun p =>
    let x := pay p 0 2
    if 2048 ≤ x then badPay s 0
    else match runningSlot s with
      | some i => notNow s i
      | none =>
        let own := pairFails s x
        if own ≠ 0 then errRes s 0x0E own else .busy (keepCmd s { c with rounds := [x] }))

/-- The twin's answer, which is not the model's to know, ends the command or begins the resynchronisation; that done, the modules are paired.
(DESIGN CHOICE; log entry 35.) -/
def endTwinPair (s : State) (c : Cmd) : Option OpRes :=
  match c.rounds with
  | x :: _ =>
    let (w, s) := freshFree s
    let far := if w.toNat % 8 ≤ 5 then w.toNat % 8 else 0
    some (if far ≠ 0 then errRes s 0x0E far else .busy (pairStart (keepCmd s { c with rounds := [] }) x))
  | [] => if pairReady s then some (okRes (enterTwin s 2) []) else none

def opTwinTakeover (s : State) (c : Cmd) : OpRes :=
  withForm s c [(0, 2)] (fun p =>
    let x := pay p 0 2
    if 2048 ≤ x then badPay s 0
    else if displaced s then notNow s 0xFF
    else if twinState s < 1 ∨ 3 < twinState s ∨ x ≠ twinId s then errRes s 0x0E 0
    else .busy (fenceTwin s))

def endTwinTakeover (s : State) : Option OpRes := if s.twin.fencing.isSome then none else some (okRes s [])

/-! ### Firmware -/

/-- The reserved bits, type, format and length of an image's header (Table 22-2), checked in order; DETAIL is the byte offset.
(DESIGN CHOICE; log entry 47.) -/
def fwHeader (img : List Byte) : Chk Unit := do
  chk (decide (128 ≤ img.length)) 0
  chk (imgN img 0 4 == 0x4B4E4958) 0
  chk (decide (1 ≤ imgN img 4 1 ∧ imgN img 4 1 ≤ 3)) 4
  chk (imgN img 5 1 == 1) 5
  chk (imgN img 12 4 / 4 == 0) 12
  chk (decide (roundUp (128 + imgN img 16 8) 64 + 17040 = img.length)) 16
  chk (decide (imgN img 16 8 + 128 + 17040 ≤ (if imgN img 4 1 = 1 then 0x800000 else if imgN img 4 1 = 2 then 0x6000000 else 0x400000))) 16
  chk (imgN img 72 56 == 0) 72

/-- Steps 1 to 4 of R553, for an image as staged. (DESIGN CHOICE; log entry 47.) -/
def fwChecks (s : State) (img : List Byte) : Chk Unit := do
  fwHeader img
  let hd := img.take 128
  let body := (img.drop 128).take (imgN img 16 8)
  let sb := img.drop (img.length - 17040)
  let (rk, lk) := (sb.take 384, (sb.drop 384).take 48)
  let key := imgN img 12 1 % 4
  if sha384 (rk ++ lk) ≠ leBytes 48 (Config.romKey key).toNat ∨ Config.revoked key then .error (0x0C, 3)
  if imgN img 10 2 < secCounter s (imgN img 4 1) then .error (0x0D, secCounter s (imgN img 4 1))
  if sha384 body ≠ (img.drop 24).take 48 then .error (0x08, 24)
  let a := Config.verify 0 rk hd ((sb.drop 432).take 384)
  let b := Config.verify 1 lk hd (sb.drop 816)
  if !a ∨ !b then .error (0x0C, if !a ∧ !b then 3 else if !a then 1 else 2)

/-- The slot of an image type that is not ACTIVE; where neither is, the one that does not run. -/
def fwTarget (s : State) (ty : Nat) : Nat :=
  if ty = 3 then 4
  else
    let a := if ty = 1 then 0 else 2
    let run := if ty = 1 then s.mgmt.booted.1 else s.mgmt.booted.2
    if slotState s a = 3 then a + 1 else if slotState s (a + 1) = 3 then a else if run = a then a + 1 else a

/-- A checked image is written to its slot, which is INVALID until that has ended. -/
def fwWrite (s : State) (img : List Byte) : State :=
  let k := fwTarget s (imgN img 4 1)
  let x : FwImage := ⟨s.mgmt.stamps + 1, imgN img 10 2, imgN img 6 4⟩
  let m := { s.mgmt with stamps := s.mgmt.stamps + 1, flashQ := s.mgmt.flashQ ++ [.image k x] }
  let s := { s with mgmt := m }
  if k < 4 then setSlotState s k 0 else s

/-- DESIGN CHOICE; log entry 47. -/
def opFwUpdate (s : State) (c : Cmd) : OpRes :=
  withForm s c [(0, 8), (8, 8)] (fun p =>
    let n := pay p 8 8
    if n = 0 then badPay s 8
    else if s.mgmt.pldm.isSome ∨ flashHeld s then notNow s 0xFF
    else match hostSpan s (BitVec.ofNat 64 (pay p 0 8)) n false with
      | none => errRes s 0x05 0
      | some a => match fwChecks s (memBytes s a n) with
        | .error e => errRes s e.1 e.2
        | .ok _ => .busy (keepCmd (fwWrite { s with mgmt := { s.mgmt with flashBad := false } } (memBytes s a n)) { c with rounds := [fwTarget s (pay (memBytes s a n) 4 1), pay (memBytes s a n) 10 2] }))

/-- The slot is written, or its write failed. (DESIGN CHOICE; log entry 47.) -/
def endFwUpdate (s : State) (c : Cmd) : Option OpRes :=
  if s.mgmt.flashQ ≠ [] then none
  else some (if s.mgmt.flashBad then errRes s 0x12 (lastEntry s)
    else okRes s (leBytes 4 (c.rounds.getD 0 0 % 2) ++ leBytes 4 (c.rounds.getD 1 0)))

/-- The attestation report (Table 22-4). (DESIGN CHOICE; log entry 47.) -/
def attestReport (s : State) (nonce : List Byte) : List Byte :=
  let m (k stamp : Nat) : List Byte := leBytes 48 (Config.measure k stamp).toNat
  let set := settingNums.flatMap (fun n => (settingWords s n).flatMap (fun w => leBytes 2 n ++ leBytes 8 w.toNat))
  let flags := csrF s (inkCsr 0x20) 4 1 + csrF s (ldgCsr 0) 1 1 * 2 + csrF s (inkCsr 0x08) 8 1 * 4
  let (ik, sw) := s.mgmt.booted
  let top := leBytes 4 0x54544158 ++ leBytes 4 1 ++ leBytes 8 17440 ++ leBytes 8 Config.serial.toNat ++ leBytes 2 (ownId s) ++ leBytes 1 0x10 ++
    leBytes 5 flags ++ nonce ++ leBytes 8 s.now ++ leBytes 2 (secCounter s 1) ++ leBytes 2 (secCounter s 2) ++ leBytes 20 (secCounter s 3) ++
    m 0 0 ++ m 1 (imageIn s ik).stamp ++ m 2 (imageIn s sw).stamp ++ m 3 (imageIn s sw).stamp ++ m 4 (imageIn s 4).stamp ++ sha384 set ++
    leBytes 4 (imageIn s ik).version ++ leBytes 12 (fwWord s) ++ (List.range 384).map (Config.pubByte 0 (idSecret s 0)) ++
    (List.range 48).map (Config.pubByte 1 (idSecret s 1))
  top ++ (List.range 384).map (Config.sigByte 0 (idSecret s 0) top) ++ (List.range 16224).map (Config.sigByte 1 (idSecret s 1) top)

/-- ATTEST. Over the out-of-band path the report is read in parts: one at offset 0, or with another nonce, is made anew (R563). -/
def opAttest (s : State) (c : Cmd) : OpRes :=
  withForm s c (if c.oob then [(0, 32), (32, 8), (40, 4)] else [(0, 32), (32, 8)]) (fun p =>
    let nonce := p.take 32
    if flashHeld s then notNow s 0xFF
    else if c.oob then
      let o := pay p 40 4
      if 17440 ≤ o then badPay s 40
      else
        let r := if o ≠ 0 ∧ (s.mgmt.report.drop 32).take 32 = nonce then s.mgmt.report else attestReport s nonce
        okRes { s with mgmt := { s.mgmt with report := r } } ((r.drop o).take 1024)
    else
      let l : Word := BitVec.ofNat 64 (pay p 32 8)
      match hostSpan s l 32768 true with
      | none => errRes s 0x05 0
      | some _ => okRes (putRegion s (locIdx l) (locOff l) (attestReport s nonce)) (leBytes 4 17440))

/-! ### Rest and reset -/

def opEnterRest (s : State) (c : Cmd) : OpRes :=
  withForm s c [] (fun _ => match runningSlot s with
    | some i => notNow s i
    | none => okRes s [])

def opDeviceReset (s : State) (c : Cmd) : OpRes := withForm s c [] (fun _ => .busy (resetBegin s 1))

/-! ### All of them -/

/-- Commands that run in HALT (R481). (DESIGN CHOICE; log entry 46.) -/
def haltRuns (op : Nat) : Bool := [0x01, 0x02, 0x03, 0x40, 0x71, 0x81].contains op
/-- Commands that the out-of-band path does not have (R563). -/
def oobLacks (op : Nat) : Bool := [0x10, 0x12, 0x22, 0x20, 0x43, 0x70, 0x42].contains op

/-- The command of an opcode (Table 18-7). -/
def opTable (op : Nat) : Option (State → Cmd → OpRes) :=
  match op with
  | 0x01 => some opIdentify
  | 0x02 => some opGetStatus
  | 0x03 => some opGetTelemetry
  | 0x10 => some opLoadPlan
  | 0x11 => some opUnloadPlan
  | 0x12 => some opRun
  | 0x13 => some opStop
  | 0x14 => some opQueryRun
  | 0x20 => some opAllocRegion
  | 0x21 => some opFreeRegion
  | 0x22 => some opTablePublish
  | 0x30 => some opSetCap
  | 0x31 => some opSetPolicy
  | 0x32 => some opSetPersistent
  | 0x40 => some opReadLog
  | 0x41 => some opClearFault
  | 0x42 => some opInjectFault
  | 0x43 => some opTraceCtrl
  | 0x50 => some opMemTest
  | 0x51 => some opMemRemap
  | 0x60 => some opLinkTrain
  | 0x61 => some opSetFabricId
  | 0x62 => some opTwinPair
  | 0x63 => some opTwinTakeover
  | 0x70 => some opFwUpdate
  | 0x71 => some opAttest
  | 0x80 => some opEnterRest
  | 0x81 => some opDeviceReset
  | _ => none

/-- A command begins. -/
def runOp (s : State) (c : Cmd) : OpRes :=
  match opTable c.opcode with
  | none => errRes s 0x01 c.opcode
  | some f =>
    if c.oob && oobLacks c.opcode then errRes s 0x01 c.opcode
    else if halted s && !haltRuns c.opcode then errRes s 0x10 0
    else f s c

/-- What is undone of a command that is cancelled (Table 18-13). (DESIGN CHOICE; log entry 48.) -/
def cancelCmd (s : State) (c : Cmd) : State :=
  match c.opcode with
  | 0x10 => loadDrop s
  | 0x50 => (bitmapChans c.payload 16).foldl (fun s ch => if csrF s (chanAddr ch 0x48) 0 1 = 1 then csrPut s (chanAddr ch 0x48) 0 else s) s
  | 0x62 => if c.rounds = [] then pairCancel s else s
  | 0x70 => { s with mgmt := { s.mgmt with flashQ := [] } }
  | 0x32 => { s with mgmt := { s.mgmt with flashQ := s.mgmt.flashQ.take 1 ++ (s.mgmt.flashQ.drop 1).filter (fun j => !isSetting j) } }
  | _ => s

/-- The end of a long command, where its work has been done. A command caught by HALT completes with HALTED. (DESIGN CHOICE; log entry 46.) -/
def endOp (s : State) (c : Cmd) : Option OpRes :=
  if halted s && !haltRuns c.opcode then some (errRes (cancelCmd s c) 0x10 0)
  else match c.opcode with
  | 0x10 => endLoadPlan s c
  | 0x32 => endSetPersistent s
  | 0x50 => endMemTest s c
  | 0x51 => endMemRemap s
  | 0x60 => endLinkTrain s c
  | 0x61 => endSetFabricId s c
  | 0x62 => endTwinPair s c
  | 0x63 => endTwinTakeover s
  | 0x70 => endFwUpdate s c
  | _ => none

/-! ### Taking commands (R478, R479) -/

/-- The steward takes the waiting command, where it runs none and is awake. ENTER_REST has its result before the module rests; a command that
waits then is a wake event (R542). (DESIGN CHOICE; log entry 46.) -/
def takeNext (s : State) : State :=
  if (running s).isSome ∨ s.rest ≠ 0 ∨ s.resetting ≠ 0 ∨ s.aborting then s
  else match waiting s with
    | none => s
    | some c =>
      let c := { c with started := true, since := s.now }
      let r := runOp (keepCmd s c) c
      let t := settle c r
      match r with
      | .done 0 _ _ _ =>
        if c.opcode = 0x80 then (if (waiting t).isSome then { enterRest t with rest := 2 } else enterRest t) else t
      | _ => t

/-- The steward goes on until it is busy or has nothing to do: at most one command of each path waits. -/
def takeAll (s : State) : State := takeNext (takeNext s)

/-- The doorbell: the command in MBX_CMD is accepted, or refused and counted (R478, R539, Table 18-11 step 1). -/
def mbxRing (s : State) : State :=
  if s.boot ≠ 0 ∨ s.resetting ≠ 0 ∨ s.aborting ∨ csrF s (hstCsr 0x1010) 0 2 = 1 then csrAdd s (hstCsr 0x1028) 1
  else
    let a := hstCsr 0x1000
    let tag := csrF s a 32 16
    takeAll { mbxBusy s tag with cmd := some (newCmd s (csrF s a 0 8) tag (payBytes s (csrF s a 8 15)) false) }

end Sys2Proof.Machine
end

