-- ==== Sys2Proof/Machine/HostIf.lean ====
section
/-! DEFINITION. The host interface: what the doorbells, the abort page, the ring-mode load and the BAR2 aperture do, and the ends of
commands and of an ABORT (R37, R301, R361, R475–R480, R489–R492). Writes of BAR0 registers come to these through Regs.lean. -/

namespace Sys2Proof.Machine

/-! ### Ring-mode load (R37) -/

/-- The steward reads what the host has written to the ring. -/
def loadFeed (s : State) : State :=
  match s.load with
  | none => s
  | some l =>
    let base := rgnBase s (locIdx l.loc) + locOff l.loc
    let upto := min (csrGet s (hstCsr 0x28)).toNat l.bytes
    let have_ := l.got.length
    let new := (List.range (upto - have_)).map (fun k => memByte s (base + (have_ + k) % l.ring))
    let s := ringTake s { l with lastAdvance := if new = [] then l.lastAdvance else s.now } new
    csrPut s (hstCsr 0x30) (BitVec.ofNat 64 (max have_ upto))

/-- 10 s without new bytes while the steward waits for them: the load gives up. -/
def execLoadStalled (time : Nat) (s : State) : Res :=
  match s.load, running s with
  | some l, some c =>
    if c.opcode ≠ 0x10 ∨ s.aborting ∨ (ringEnd s l).isSome ∨ l.bytes ≤ l.got.length ∨ time < s.now ∨ time < l.lastAdvance + 10000000000 then
      absent "the load has not stalled"
    else
      let s := loadDrop (atTime s time)
      .next (takeAll (finish s c 0x13 (min (l.got.length / 1048576) (2 ^ 32 - 1)) []))
  | _, _ => absent "no ring-mode load runs"

/-! ### Completion (R478) -/

/-- A long command has done its work. -/
def execMailboxComplete (s : State) : Res :=
  match running s with
  | none => absent "the steward runs no command"
  | some c =>
    if s.aborting ∨ s.resetting ≠ 0 then absent "ABORT or a reset has the command"
    else match endOp s c with
      | some r => .next (takeAll (settle c r))
      | none => absent "the command has not done its work"

/-! ### The abort page (R489–R492) -/

/-- Steps 1 to 5 of Table 18-11. (DESIGN CHOICE; log entry 48.) -/
def abortBegin (s : State) : State :=
  let slots := activeSlots s
  abortObjects (abortRuns (csrSetF { s with aborting := true } (hstCsr 0x80008) 0 1 1)) slots

/-- A write of HST_ABORT. (DESIGN CHOICE; log entry 48.) -/
def abortWrite (s : State) (key : Nat) : State :=
  if s.boot ≠ 0 ∨ s.resetting ≠ 0 then s
  else if key ≠ 0x41425254 then raise s 0x7000 0x04 NOTE
  else if s.aborting then csrSetF s (hstCsr 0x80008) 1 15 (min (csrF s (hstCsr 0x80008) 1 15 + 1) (2 ^ 15 - 1))
  else abortBegin s

/-- Step 6: the running command ends ABORTED, and the mailbox is IDLE whatever it was. How far the command
was is a matter of timing (R493): a free value. (DESIGN CHOICE; log entry 48.) -/
def abortCommands (s : State) : State :=
  let s := match running s with
    | some c => cancelCmd s c
    | none => s
  let (w, s) := freshFree s
  let percent := w.toNat % 101
  let s := match s.oobCmd with
    | some c => if c.started then finish s c 0x11 percent [] else s
    | none => s
  let tag := csrF s (hstCsr 0x1010) 32 16
  let s := match s.cmd with
    | some _ => csrPut (payResult { s with cmd := none } []) (hstCsr 0x1018) (BitVec.ofNat 64 (0x11 + percent * 2 ^ 32))
    | none => s
  csrPut s (hstCsr 0x1010) (BitVec.ofNat 64 (tag * 2 ^ 32))

/-- Steps 6 and 7. (DESIGN CHOICE; log entry 48.) -/
def execAbortComplete (s : State) : Res :=
  if !s.aborting then absent "no ABORT is in progress"
  else
    let s := raise (abortCommands s) 0x7000 0x28 NOTE
    let n := (csrF s (hstCsr 0x80008) 32 32 + 1) % 2 ^ 32
    let s := csrSetF (csrSetF { s with aborting := false } (hstCsr 0x80008) 32 32 n) (hstCsr 0x80008) 0 1 0
    let s := evqPost s 0x08 0 0 n 0
    let s := if csrF s (hstCsr 0x18) 14 1 = 1 then raiseMsix s (csrF s (hstCsr 0x18) 8 6) else s
    .next (takeAll s)

/-! ### The BAR2 aperture (R475–R477) -/

/-- The local address of a BAR2 offset. -/
def bar2Addr (s : State) (off : Nat) : Nat := csrF s (hstCsr 0x10) 0 9 * 2 ^ 36 + off

/-- Where a served access falls: a HOST region, by index and offset, or a scratchpad. -/
def bar2Tgt (s : State) (a n : Nat) (write : Bool) : Option Tgt :=
  match localTgt s a n write with
  | .ok (.dram i o) => if rgnHost s i then some (.dram i o) else none
  | .ok (.spad x) => some (.spad x)
  | _ => none

/-- A refused access: a NOTE, and its address in HST_ERR unless one is recorded. (DESIGN CHOICE; log entry 51.) -/
def bar2Refuse (s : State) (a : Nat) (write : Bool) : State :=
  let s := raise s 0x7002 0x04 NOTE (some a)
  if csrF s (hstCsr 0x20) 46 1 = 1 then s else csrPut s (hstCsr 0x20) (BitVec.ofNat 64 (a % 2 ^ 45 + bit write * 2 ^ 45 + 2 ^ 46))

/-- The host reaches memory: BAR2 accesses wait while a reset is in progress. -/
def bar2Up (s : State) : Bool := hostUp s && s.resetting == 0

/-- DESIGN CHOICE; log entry 51. -/
def execBar2Read (off : BitVec 36) (len : Nat) (s : State) : Res :=
  if !bar2Up s then absent "the host does not reach BAR2"
  else afterRest [.bar2Read off len] s
    (let a := bar2Addr s off.toNat
     match bar2Tgt s a len false with
     | some g => let (bs, psn, s) := remoteRead s g len; .next (emitOut s (.bar2Data bs psn))
     | none => .next (emitOut (bar2Refuse s a false) (.bar2Data (List.replicate len 0xFF) false)))

/-- DESIGN CHOICE; log entry 51. -/
def execBar2Write (off : BitVec 36) (bytes : List Byte) (ep : Bool) (s : State) : Res :=
  if !bar2Up s then absent "the host does not reach BAR2"
  else afterRest [.bar2Write off bytes ep] s
    (let a := bar2Addr s off.toNat
     match bar2Tgt s a bytes.length true with
     | some (.dram i o) => .next (chanWrite s [hostAgent] i o bytes ep 2 none)
     | some (.spad x) => .next (writeHome s x bytes ep)
     | _ => .next (bar2Refuse s a true))

/-! ### Payload and acknowledgement (Table 18-4) -/

/-- A host write to the payload. (DESIGN CHOICE; log entry 51.) -/
def payWrite (s : State) (off : Nat) (bs : List Byte) : State :=
  if csrF s (hstCsr 0x1010) 0 2 = 1 then raise s 0x7001 0x03 NOTE else payPut s off bs

/-- MBX_STATUS.ACK. -/
def mbxAckEff (s : State) : State := if csrF s (hstCsr 0x1010) 0 2 = 2 then csrSetF s (hstCsr 0x1010) 0 2 0 else s

/-- A host write to the payload, in whole 4-byte words; other accesses are discarded (R9). -/
def execMbxPayloadWrite (off : BitVec 14) (bytes : List Byte) (s : State) : Res :=
  if !hostUp s ∨ 16384 < off.toNat + bytes.length then absent "the host does not reach the payload there"
  else if off.toNat % 4 ≠ 0 ∨ bytes.length % 4 ≠ 0 then .next s
  else .next (payWrite s off.toNat bytes)

end Sys2Proof.Machine
end

