-- ==== Sys2Proof/Machine/Regs.lean ====
section
/-! DEFINITION. Reading and writing registers: who reaches which, what a write does beside its fields, and what the derived registers read
(R9–R12, R28, R273 and the register section of each chapter). -/

namespace Sys2Proof.Machine

/-! ### Reading -/

/-- Status registers of a tile's blocks. -/
def tcrStatus (s : State) (t : Nat) : Word :=
  let c := coreOf s t
  BitVec.ofNat 64 (bit c.task.isSome + 2 * bit c.blocked.isSome + 4 * bit c.issueWait)

/-- INK_STATUS: FLASH_BUSY and PLDM_ACTIVE as they are. -/
def inkStatus (s : State) : Word :=
  setF (setF (csrGet s (inkCsr 0)) 0 1 (bit (s.mgmt.flashQ != [] || s.ledger.backlog != []))) 1 1 (bit s.mgmt.pldm.isSome)

/-- A memory controller's register at offset `o`, of stored value `w`: MEM_STATUS is derived, and so is MEM_CH_STATE.SCRUB_LAG (R406). -/
def memRead (s : State) (p o : Nat) (w : Word) : Word :=
  if o = 8 then memStatus s p
  else if 0x10000 ≤ o ∧ o < 0x16000 ∧ o % 0x100 = 0 then setF w 22 1 (bit (scrubLag s (96 * p + (o - 0x10000) / 0x100)))
  else w

/-- What the register at `a` reads, for tile `t` where a core reads it. (DESIGN CHOICE; log entry 6.) -/
def regRead (s : State) (t : Nat) (a : Nat) : Word :=
  let x := a - 0x180000000000
  if a < 0x180000000000 then 0
  else if x < 0x1000000 then
    let k := x / 0x10000
    match x % 0x10000 with
    | 0x0008 => tcrStatus s k
    | 0x2008 => fgrStatus s k
    | 0x3008 => cmbStatus s k
    | 0x4008 => mxeStatus s k
    | 0x5008 => vecStatus s k
    | 0x6008 => prtStatus s k
    | 0x8000 => synStatus s k
    | _ => csrGet s a
  else if x < 0x1100000 then
    let c := (x - 0x1000000) / 0x10000
    match x % 0x10000 with
    | 0x0008 => dspStatus s c
    | 0x0010 => dspSelf t
    | 0x4010 => panStatus s c
    | _ => csrGet s a
  else if x < 0x2000000 then csrGet s a
  else if x < 0x2400000 then memRead s ((x - 0x2000000) / 0x100000) (x % 0x100000) (csrGet s a)
  else if x < 0x3000000 then csrGet s a
  else if x < 0x3100000 then
    let o := x - 0x3000000
    if o = 0x18 then ldgStatus s
    else if 0x1000 ≤ o ∧ o < 0x5000 then ldgClass s ((o - 0x1000) / 16) (o % 16 == 8)
    else if 0x20000 ≤ o ∧ o < 0x40000 then dieRingWord s ((o - 0x20000) / 8)
    else csrGet s a
  else if a = fabCsr 0x10 then fabStatus s
  else if a = hstCsr 0 then hstId s
  else if a = hstCsr 8 then hstStatus s
  else if hstCsr 0x4000 ≤ a ∧ a < hstCsr 0x8000 then BitVec.ofNat 64 (ofLE ((List.range 8).map (fun k => payByte s (a - hstCsr 0x4000 + k))))
  else if hstCsr 0x10000 ≤ a ∧ a < hstCsr 0x14000 ∧ (a - hstCsr 0) % 0x40 = 0x18 then BitVec.ofNat 64 (dbValue s ((a - hstCsr 0x10000) / 0x40))
  else if a = stwCsr 0x40008 then tblStatus s
  else if a = inkCsr 0 then inkStatus s
  else csrGet s a

/-- A read of `size` bytes at `addr` by an agent: the whole register, the half that an aligned 32-bit access reaches, or 0 (R9). -/
def regReadAt (s : State) (t addr size : Nat) : Word :=
  match lanes addr size with
  | none => 0
  | some (lo, hi) => BitVec.ofNat 64 (getF (regRead s t (addr - addr % 8)) lo (hi - lo))

/-! ### Counters -/

/-- A block's control register with its CNT_CLR bit, and the counters that it clears, as address ranges. (DESIGN CHOICE; log entry 55.) -/
def cntClr (a : Nat) : Option (Nat × List (Nat × Nat)) :=
  let x := a - 0x180000000000
  if a < 0x180000000000 then none
  else if x < 0x1000000 then
    match x % 0x10000 with
    | 0x0000 => some (1, [(a + 0x80, 24)])
    | 0x2000 => some (20, [(a + 0x40, 56)])
    | 0x3000 => some (0, [(a + 0x40, 48)])
    | 0x4000 => some (0, [(a + 0x40, 40)])
    | 0x5000 => some (0, [(a + 0x40, 24)])
    | 0x6000 => some (0, [(a + 0x40, 32)])
    | _ => none
  else if x < 0x1100000 then
    match x % 0x10000 with
    | 0x0000 => some (2, [(a + 0x40, 24), (a + 0x100, 128)])
    | 0x4000 => some (2, [(a + 0x40, 56)])
    | _ => none
  else if 0x2000000 ≤ x ∧ x < 0x2400000 ∧ x % 0x100000 = 0 then
    some (0, (List.range 96).map (fun k => (a + 0x10000 + 0x100 * k + 8, 48)))
  else if a = ldgCsr 0 then some (0, [(a + 0x40, 56)])
  else if a = govCsr 0 then some (0, [(a + 0x40, 40)])
  else if a = fabCsr 0 then some (0, [(a + 0x8000, 0xC00)])
  else if a = twnCsr 0 then some (0, [(a + 0x40, 32)])
  else if a = stwCsr 0x40000 then some (0, [(a + 0x40, 40)])
  else none

/-! ### What a write does beside its fields -/

/-- Writes of tile registers: the watch and the notification slots. -/
def tileEff (old s : State) (t o : Nat) : State :=
  if o = 0x8010 then
    if csrF s (watchAddr t) 9 1 = 0 then s
    else watchCheck (setCore s t { coreOf s t with watchBy := (coreOf s t).task.map (·.id) }) t
  else if 0x8100 ≤ o ∧ o < 0x8180 ∧ o % 16 = 0 then
    let a := tileCsr t o
    if csrF s a 0 1 = 1 ∧ csrF old a 0 1 = 0 then
      { s with notifyLast := tabSet (fun _ => 0) s.notifyLast (t * 8 + (o - 0x8100) / 16) (tallyVal s t (csrF s a 8 6)) }
    else s
  else s

/-- Writes of host interface registers. `raw` holds the bits written. -/
def hstEff (old s : State) (o raw lo hi : Nat) : State :=
  let low : Bool := lo == 0
  if o = 0x28 then loadFeed s
  else if o = 0x1008 then (if raw % 2 = 1 then mbxRing s else s)
  else if o = 0x1010 then (if raw.testBit 2 then mbxAckEff s else s)
  else if o = 0x8008 then evqCfgEff s (csrF old evqCfg 0 1 == 1)
  else if o = 0x8010 then evqLostFlush s
  else if o = 0x80000 then (if low then abortWrite s (raw % 2 ^ 32) else s)
  else if 0x10000 ≤ o ∧ o < 0x14000 ∧ low then
    let d := (o - 0x10000) / 0x40
    if [0x00, 0x08, 0x20].contains (o % 0x40) then dbWrite s d (o % 0x40) (raw % 2 ^ 32) else s
  else if 0xF0000 ≤ o ∧ o < 0xF0400 ∧ o % 16 = 8 ∧ hi = 64 then
    -- a vector that is unmasked while its bit is pending is raised
    let v := (o - 0xF0000) / 16
    if csrF s (hstCsr o) 32 1 = 0 ∧ csrF s (hstCsr 0xF8000) v 1 = 1 then raiseMsix (csrSetF s (hstCsr 0xF8000) v 1 0) v else s
  else s

/-- A kick of the watchdogs of the cores in a mask (R549). -/
def wdogKick (s : State) (mask : Nat) : State :=
  { s with mgmt := { s.mgmt with kicks := (List.range 4).foldl (fun k c => if mask.testBit c then tabInsert k c s.now else k) s.mgmt.kicks } }

/-- What the write of the bits `raw` to register `a` does beside its fields; `old` is the state before it. (PRESUMED; log entry 52.) -/
def regEff (old s : State) (a raw lo hi : Nat) : State :=
  let s := match cntClr a with
    | some (b, rs) => if raw.testBit b then rs.foldl (fun s r => csrDrop s r.1 (r.1 + r.2)) s else s
    | none => s
  let x := a - 0x180000000000
  let w : Word := BitVec.ofNat 64 raw
  if x < 0x1000000 then tileEff old s (x / 0x10000) (x % 0x10000)
  else if x < 0x1100000 then
    let c := (x - 0x1000000) / 0x10000
    match x % 0x10000 with
    | 0x4000 => panCtrlEff s c (panEn old c)
    | 0x4008 => panInvalidateEff s c w
    | 0x4028 => panPreloadEff s c w
    | _ => s
  else if memCsr 0 0 ≤ a ∧ a < memCsr 4 0 then
    let o := x % 0x100000
    if 0x10000 ≤ o ∧ o < 0x16000 ∧ o % 0x100 = 0x40 ∧ raw.testBit 9 then
      (let ch := (x - 0x2000000) / 0x100000 * 96 + (o - 0x10000) / 0x100
       if csrF s (chanAddr ch 0x48) 0 1 = 1 then s else tgStart s ch)
    else s
  else if a = ldgCsr 0x20 then ldgAckEff s w
  else if a = ldgCsr 0x28 then ldgInjEff s (setF (csrGet s a) 40 1 (bit (raw.testBit 40)))
  else if hstCsr 0 ≤ a ∧ a < hstCsr 0x100000 then hstEff old s (a - hstCsr 0) raw lo hi
  else if a = stwCsr 0x40020 then (if lo = 0 then rdrCmd s (raw % 4) else s)
  else if a = inkCsr 0x18 then wdogKick s (raw % 16)
  else s

/-! ### Writing -/

/-- The agent writes what only the steward writes: the steward, and through JTAG LDG_CTRL under the fault injection scope (R564).
(DESIGN CHOICE; log entry 54.) -/
def stewardLike (s : State) (who : Agent) (a : Nat) : Bool :=
  match who with
  | .steward => true
  | .jtag => a == ldgCsr 0 && csrF s (inkCsr 0x20) 3 1 == 1
  | _ => false

/-- A register takes a write of bits `[lo, hi)`, with the NOTEs of R11 and of a field that the writer may not write. (DEDUCED; log entry 5.) -/
def fieldsPut (s : State) (a : Nat) (r : Reg) (stw : Bool) (v lo hi : Nat) : State :=
  let (w, bad, deny) := fieldsWrite s a r stw v lo hi
  let s := csrPut s a (BitVec.ofNat 64 w)
  let s := if bad then raise s (csrSource a) 0x01 NOTE (some a) else s
  if deny then raise s (csrSource a) 0x03 NOTE (some a) else s

/-- Bits `[lo, hi)` of a word in place, the others 0. -/
def inPlace (v lo hi : Nat) : Nat := v / 2 ^ lo % 2 ^ (hi - lo) * 2 ^ lo

/-- A write of the bits `[lo, hi)` of `v` to the 8-byte-aligned CSR address `a`. PAN_ZERO is written by tile cores (`panZeroBy`).
(DEDUCED; log entry 5.) -/
def regStore (s : State) (who : Agent) (a v lo hi : Nat) : State :=
  if hstCsr 0x4000 ≤ a ∧ a < hstCsr 0x8000 then
    payWrite s (a - hstCsr 0x4000 + lo / 8) (leBytes ((hi - lo) / 8) (v / 2 ^ lo))
  else match regAt a with
  | none => raise s (csrSource a) 0x02 NOTE (some a)
  | some r =>
    let stw := stewardLike s who a
    if r.perm = .none ∨ (r.perm = .steward ∧ !stw) then raise s (csrSource a) 0x03 NOTE (some a)
    else
      let x := a - 0x180000000000
      let o := x % 0x10000
      if 0x1000000 ≤ x ∧ x < 0x1100000 ∧ 0x2000 ≤ o ∧ o < 0x4000 ∧ o % 0x20 = 0x10 then
        -- DSP_WQ_PTR: TAIL alone is written, under R360
        (if hi = 64 then wqAdvance s ((x - 0x1000000) / 0x10000) ((o - 0x2000) / 0x20) (v / 2 ^ 32 % 2 ^ 32) else s)
      else if 0x1000000 ≤ x ∧ x < 0x1100000 ∧ o = 0x4018 then raise s 0x8000 0x04 NOTE (some a)
      else regEff s (fieldsPut s a r stw v lo hi) a (inPlace v lo hi) lo hi

/-- The steward firmware runs and writes registers. -/
def stewardUp (s : State) : Bool :=
  s.pins.mains && (s.boot == 0 || s.boot == 5 || s.boot == 6 || s.boot == 7) && s.resetting == 0 && s.rest == 0

/-- Registers whose write wakes a resting module (R544). (DESIGN CHOICE; log entry 50.) -/
def wakeReg (a : Nat) : Bool :=
  let o := a - hstCsr 0
  (decide (0x1000 ≤ o) && decide (o < 0x2000)) || (decide (0x10000 ≤ o) && decide (o < 0x14000)) || (decide (0x80000 ≤ o) && decide (o < 0x81000))

/-- A write of PAN_ZERO by the core of tile `t`: done, then `eff`; refused, the core fails; or waiting, with nothing changed, for an earlier
access of the core (R307, R353). (DESIGN CHOICE; log entry 55.) -/
def panZeroBy (s : State) (t : Nat) (v : Word) (eff : State → State) : State :=
  match panZeroEff s (t / 16) t v with
  | .ok s' => if panZeroWaits s t v then s else eff s'
  | .error cause => coreFail s t cause

/-- The write by an agent that reaches the register: `size` bytes at `addr`. Any access but an aligned one of 4 or 8 bytes is discarded.
(DEDUCED; log entries 4, 5.) -/
def regWrite (s : State) (who : Agent) (addr size : Nat) (v : Word) : State :=
  match lanes addr size with
  | none => s
  | some (lo, hi) => regStore s who (addr - addr % 8) (v.toNat % 2 ^ (hi - lo) * 2 ^ lo) lo hi

/-- A tile core reaches the registers of its own tile and cluster (R273). -/
def coreReaches (t addr : Nat) : Bool :=
  (decide (tileCsr t 0 ≤ addr) && decide (addr < tileCsr (t + 1) 0)) ||
    (decide (clusterCsr (t / 16) 0 ≤ addr) && decide (addr < clusterCsr (t / 16 + 1) 0))

/-- The steward writes a region table entry only while its VALID is clear, and clears VALID only when no running plan and no host transfer uses the
region (R107). -/
def rgnWriteOk (s : State) (a size : Nat) (v : Word) : Bool :=
  if stwCsr 0x80000 ≤ a ∧ a < stwCsr 0x90000 then
    let i := (a - stwCsr 0x80000) / 16
    !rgnValid s i || (a == rgnAttr i && size == 8 && v == setF (csrGet s a) 27 1 0 && (regionUser s i).isNone)
  else true

/-- A register write by an agent: absent where the agent does not reach the register. (DEDUCED, DESIGN CHOICE; log entries 4, 54.) -/
def agentWriteReg (who : Agent) (addr size : Nat) (v : Word) (s : State) : Res :=
  match who with
  | .host =>
    if !hostUp s ∨ addr < hstCsr 0 ∨ hstCsr 0x100000 ≤ addr then absent "the host reaches BAR0 alone, while its link is up"
    else if wakeReg addr then afterRest [.registerWrite who (BitVec.ofNat 45 addr) size v] s (.next (regWrite s who addr size v)) else .next (regWrite s who addr size v)
  | .steward => if stewardUp s && ((lanes addr size).isNone || rgnWriteOk s addr size v) then .next (regWrite s who addr size v) else absent "the steward does not run, or keeps the region table entry"
  | .core t =>
    if (coreOf s t.toNat).task.isNone ∨ !coreReaches t.toNat addr then absent "the core has no task, or does not reach the register"
    else if addr = clusterCsr (t.toNat / 16) 0x4018 ∧ size = 8 then .next (panZeroBy s t.toNat v id)
    else .next (regWrite s who addr size v)
  | .jtag =>
    if csrF s (inkCsr 0x20) 2 1 = 0 ∨ !s.pins.mains ∨ s.boot = 8 then absent "JTAG has no write scope, or the main domain is off"
    else if activeSlots s ≠ [] then .next (raise s 0x8000 0x04 NOTE (some addr))
    else .next (regWrite s who addr size v)

/-! ### Tile SRAM windows (R28, R29, R577) -/

/-- What a write of the steward or through JTAG to a tile SRAM window does. The debug-only windows keep the bytes as they come, while no plan runs;
what the units that own them make of such bytes the manual does not say, and RUN fills the instruction stores again (R281).
(DESIGN CHOICE; log entry 65.) -/
def windowPut (s : State) (a n : Nat) (v : Word) : State :=
  let refused := raise s 0x8000 0x04 NOTE (some (globalOf s a))
  match sramTgt a n with
  | .ok (.spad x) => writeHome s x (leBytes n v.toNat) false
  | .ok (.hole x) => noteHole s x
  | .error .straddle => refused
  | _ => if activeSlots s = [] then storeBytes s a (leBytes n v.toNat) else refused

/-- A write to a tile SRAM window by the steward, or through JTAG under its write scope. -/
def windowWrite (who : Agent) (a n : Nat) (v : Word) (s : State) : Res :=
  if n = 0 ∨ 8 < n then absent "no access has that size"
  else match who with
  | .steward => if stewardUp s then .next (windowPut s a n v) else absent "the steward does not run"
  | .jtag =>
    if csrF s (inkCsr 0x20) 2 1 = 0 ∨ !s.pins.mains ∨ s.boot = 8 then absent "JTAG has no write scope, or the main domain is off"
    else .next (windowPut s a n v)
  | _ => absent "the agent writes windows by other rows"

/-! ### The rows -/

/-- REGISTER_WRITE. An address outside CSR space and the tile SRAM windows names no such access at all. (DEDUCED; log entries 5, 65.) -/
def execRegisterWrite (who : Agent) (addr : BitVec 45) (size : Nat) (value : BitVec 64) (s : State) : Res :=
  if sramBase ≤ addr.toNat ∧ addr.toNat < sramTop then windowWrite who addr.toNat size value s
  else if !inCsrSpace addr.toNat then .fault (.illFormed "REGISTER_WRITE outside CSR space")
  else agentWriteReg who addr.toNat size value s

/-- COUNTER_CLEAR: CNT_CLR of a block is written, its control register's other fields as they are. (DESIGN CHOICE; log entry 55.) -/
def execCounterClear (who : Agent) (addr : BitVec 45) (s : State) : Res :=
  match cntClr addr.toNat with
  | some (b, _) => agentWriteReg who addr.toNat 8 (setF (csrGet s addr.toNat) b 1 1) s
  | none => absent "no CNT_CLR at that address"

/-- The CSR address of CSRR and CSRW (R273). -/
def csrAddr (t : Nat) (imm : BitVec 16) : Nat :=
  if getB imm 15 then clusterCsr (t / 16) (getF imm 0 13 * 8) else tileCsr t (getF imm 0 13 * 8)

def csrLegal (ra : BitVec 5) (imm : BitVec 16) : Bool := ra == 0 && getF imm 13 2 == 0

def execCsrr (t : BitVec 8) (rd ra : BitVec 5) (imm : BitVec 16) (s : State) : Res :=
  coreStep s t.toNat (csrLegal ra imm) [rd] (fun s =>
    let a := csrAddr t.toNat imm
    let v := if (regAt a).isSome then regReadAt s t.toNat a 8 else 0
    writeRd (if (regAt a).isSome then s else raise s (csrSource a) 0x02 NOTE (some a)) t.toNat rd v)

def execCsrw (t : BitVec 8) (rd ra : BitVec 5) (imm : BitVec 16) (s : State) : Res :=
  coreStep s t.toNat (csrLegal ra imm) [rd] (fun s =>
    let a := csrAddr t.toNat imm
    let v := getR (coreOf s t.toNat) rd
    if a = clusterCsr (t.toNat / 16) 0x4018 then panZeroBy s t.toNat v (fun s => retire s t.toNat)
    else retire (regStore s (.core t) a v.toNat 0 64) t.toNat)

def execPanInvalidate (who : Agent) (c : BitVec 4) (value : BitVec 64) (s : State) : Res := agentWriteReg who (clusterCsr c.toNat 0x4008) 8 value s
def execPanZero (t : BitVec 8) (loc : BitVec 64) (s : State) : Res := agentWriteReg (.core t) (clusterCsr (t.toNat / 16) 0x4018) 8 loc s
def execPanCtrlWrite (who : Agent) (c : BitVec 4) (value : BitVec 64) (s : State) : Res := agentWriteReg who (clusterCsr c.toNat 0x4000) 8 value s
def execPanPreload (who : Agent) (c : BitVec 4) (value : BitVec 64) (s : State) : Res := agentWriteReg who (clusterCsr c.toNat 0x4028) 8 value s
/-- DESIGN CHOICE; log entry 10. -/
def execLdgAck (who : Agent) (value : BitVec 64) (s : State) : Res := agentWriteReg who (ldgCsr 0x20) 8 value s
/-- LDG_INJ with ARM set. -/
def execLdgInjArm (who : Agent) (value : BitVec 64) (s : State) : Res := agentWriteReg who (ldgCsr 0x28) 8 (setF value 40 1 1) s
def execInkWdogKick (who : Agent) (value : BitVec 64) (s : State) : Res := agentWriteReg who (inkCsr 0x18) 8 value s
/-- MEM_TG_CFG with START set. -/
def execMemTgStart (who : Agent) (ch : BitVec 9) (cfg : BitVec 64) (s : State) : Res :=
  if 384 ≤ ch.toNat then absent "no such channel" else agentWriteReg who (chanAddr ch.toNat 0x40) 8 (setF cfg 9 1 1) s
/-- HST_EVQ_CFG with EN set. -/
def execEvqEnable (cfg : BitVec 64) (s : State) : Res := agentWriteReg .host (hstCsr 0x8008) 8 (setF cfg 0 1 1) s
def execEvqHeadWrite (head : BitVec 32) (s : State) : Res := agentWriteReg .host (hstCsr 0x8010) 4 (head.setWidth 64) s
def execHstLoadProdWrite (bytes : BitVec 64) (s : State) : Res := agentWriteReg .host (hstCsr 0x28) 8 bytes s
def execMbxAck (s : State) : Res := agentWriteReg .host (hstCsr 0x1010) 4 4 s
def execHstAbort (key : BitVec 32) (s : State) : Res := agentWriteReg .host (hstCsr 0x80000) 4 (key.setWidth 64) s
def execHstDbSignal (page : BitVec 8) (amount : BitVec 32) (s : State) : Res :=
  agentWriteReg .host (hstCsr (0x10000 + 0x40 * page.toNat)) 4 (amount.setWidth 64) s
def execHstDbTally (page : BitVec 8) (amount : BitVec 32) (s : State) : Res :=
  agentWriteReg .host (hstCsr (0x10008 + 0x40 * page.toNat)) 4 (amount.setWidth 64) s
def execHstDbWq (page : BitVec 8) (tail : BitVec 32) (s : State) : Res :=
  agentWriteReg .host (hstCsr (0x10020 + 0x40 * page.toNat)) 4 (tail.setWidth 64) s

end Sys2Proof.Machine
end

