-- ==== Sys2Proof/Machine/MbxRows.lean ====
section
/-! DEFINITION. The mailbox commands as the host gives them: MBX_CMD is written with the row's opcode, the request's length and its tag, and the
doorbell is rung; the request lies in the payload (R478, R483, Table 18-5). What each command does is in Commands.lean. -/

namespace Sys2Proof.Machine

/-- The host writes MBX_CMD and rings. -/
def mbxSend (op : Nat) (len : BitVec 15) (tag : BitVec 16) (s : State) : Res :=
  if !hostUp s then absent "the host does not reach the mailbox"
  else afterRest [.registerWrite .host (BitVec.ofNat 45 (hstCsr 0x1000)) 8 (BitVec.ofNat 64 (op + len.toNat * 2 ^ 8 + tag.toNat * 2 ^ 32)),
      .registerWrite .host (BitVec.ofNat 45 (hstCsr 0x1008)) 8 1] s
    (let s := regStore s .host (hstCsr 0x1000) (op + len.toNat * 2 ^ 8 + tag.toNat * 2 ^ 32) 0 64
     .next (regStore s .host (hstCsr 0x1008) 1 0 64))

def execIdentify (len : BitVec 15) (tag : BitVec 16) (s : State) : Res := mbxSend 0x01 len tag s
def execGetStatus (len : BitVec 15) (tag : BitVec 16) (s : State) : Res := mbxSend 0x02 len tag s
def execGetTelemetry (len : BitVec 15) (tag : BitVec 16) (s : State) : Res := mbxSend 0x03 len tag s
def execLoadPlan (len : BitVec 15) (tag : BitVec 16) (s : State) : Res := mbxSend 0x10 len tag s
def execUnloadPlan (len : BitVec 15) (tag : BitVec 16) (s : State) : Res := mbxSend 0x11 len tag s
def execRun (len : BitVec 15) (tag : BitVec 16) (s : State) : Res := mbxSend 0x12 len tag s
def execStop (len : BitVec 15) (tag : BitVec 16) (s : State) : Res := mbxSend 0x13 len tag s
def execQueryRun (len : BitVec 15) (tag : BitVec 16) (s : State) : Res := mbxSend 0x14 len tag s
def execAllocRegion (len : BitVec 15) (tag : BitVec 16) (s : State) : Res := mbxSend 0x20 len tag s
def execFreeRegion (len : BitVec 15) (tag : BitVec 16) (s : State) : Res := mbxSend 0x21 len tag s
def execTablePublish (len : BitVec 15) (tag : BitVec 16) (s : State) : Res := mbxSend 0x22 len tag s
def execSetCap (len : BitVec 15) (tag : BitVec 16) (s : State) : Res := mbxSend 0x30 len tag s
def execSetPolicy (len : BitVec 15) (tag : BitVec 16) (s : State) : Res := mbxSend 0x31 len tag s
def execSetPersistent (len : BitVec 15) (tag : BitVec 16) (s : State) : Res := mbxSend 0x32 len tag s
def execReadLog (len : BitVec 15) (tag : BitVec 16) (s : State) : Res := mbxSend 0x40 len tag s
def execClearFault (len : BitVec 15) (tag : BitVec 16) (s : State) : Res := mbxSend 0x41 len tag s
def execInjectFault (len : BitVec 15) (tag : BitVec 16) (s : State) : Res := mbxSend 0x42 len tag s
def execTraceCtrl (len : BitVec 15) (tag : BitVec 16) (s : State) : Res := mbxSend 0x43 len tag s
def execMemTest (len : BitVec 15) (tag : BitVec 16) (s : State) : Res := mbxSend 0x50 len tag s
def execMemRemap (len : BitVec 15) (tag : BitVec 16) (s : State) : Res := mbxSend 0x51 len tag s
def execLinkTrain (len : BitVec 15) (tag : BitVec 16) (s : State) : Res := mbxSend 0x60 len tag s
def execSetFabricId (len : BitVec 15) (tag : BitVec 16) (s : State) : Res := mbxSend 0x61 len tag s
def execTwinPair (len : BitVec 15) (tag : BitVec 16) (s : State) : Res := mbxSend 0x62 len tag s
def execTwinTakeover (len : BitVec 15) (tag : BitVec 16) (s : State) : Res := mbxSend 0x63 len tag s
def execFwUpdate (len : BitVec 15) (tag : BitVec 16) (s : State) : Res := mbxSend 0x70 len tag s
def execAttest (len : BitVec 15) (tag : BitVec 16) (s : State) : Res := mbxSend 0x71 len tag s
def execEnterRest (len : BitVec 15) (tag : BitVec 16) (s : State) : Res := mbxSend 0x80 len tag s
def execDeviceReset (len : BitVec 15) (tag : BitVec 16) (s : State) : Res := mbxSend 0x81 len tag s

end Sys2Proof.Machine
end

