-- ==== Sys2Proof/Machine/Mgmt.lean ====
section
/-! DEFINITION. The innkeeper's own interfaces: the SMBus alert, MCTP control, PLDM firmware update, the out-of-band mailbox, JTAG authorisation
and the flash (R550–R557, R562–R564, R570). -/

namespace Sys2Proof.Machine

/-- The innkeeper firmware runs. -/
def inkUp (s : State) : Bool := s.pins.aux && s.boot != 1

/-! ### SMBus alert (R570) -/

/-- This module's 7-bit address (R562). -/
def smbAddress : Nat := 0x10 + Config.moduleId.toNat

/-- The bus owner reads the Alert Response Address: the module answers with its address, ALERT# is released, and the answers that wait are
read (log entry 42). -/
def execAlertResponse (s : State) : Res :=
  if !inkUp s ∨ !s.pins.alert then absent "the module does not assert ALERT#"
  else
    let rs := s.mgmt.oobReady
    let s := { s with pins := { s.pins with alert := false }, mgmt := { s.mgmt with oobReady := [] } }
    .next (rs.foldl (fun s r => emitOut s (.oob r)) (emitOut s (.oob (leBytes 1 smbAddress))))

/-! ### MCTP control (R562). The messages' layouts are those of DSP0236, which the manual names (log entry 43) -/

/-- The answer to a control message, and the endpoint ID afterwards. (PRESUMED; log entry 43.) -/
def mctpAnswer (eid cmd : Nat) (d : List Byte) : List Byte × Nat :=
  let b (i : Nat) : Nat := ((d.getD i 0).toNat)
  let out (xs : List Nat) : List Byte := xs.flatMap (leBytes 1)
  match cmd with
  | 0x01 =>
    if d.length ≠ 2 then (out [3], eid)
    else if 2 ≤ b 0 ∨ b 1 < 8 ∨ b 1 = 0xFF then (out [2], eid)
    else (out [0, 0, b 1, 0], b 1)
  | 0x02 => if d.length ≠ 0 then (out [3], eid) else (out [0, eid, 0, 0], eid)
  | 0x04 =>
    if d.length ≠ 1 then (out [3], eid)
    else if b 0 = 1 then (out [0, 1] ++ leBytes 4 0x00F0F1F1, eid)
    else if b 0 = 0 ∨ b 0 = 0x7E ∨ b 0 = 0xFF then (out [0, 1] ++ leBytes 4 (Config.mctpVersion (b 0)).toNat, eid)
    else (out [0x80], eid)
  | 0x05 => if d.length ≠ 0 then (out [3], eid) else (out [0, 2, 0x01, 0x7E], eid)
  | 0x06 =>
    if d.length ≠ 1 then (out [3], eid)
    else if b 0 ≠ 0 then (out [2], eid)
    else (out [0, 0xFF, 0, Config.pciVendor.toNat / 256, Config.pciVendor.toNat % 256, 0, 0], eid)
  | _ => (out [5], eid)

/-- PRESUMED; log entry 43. -/
def execMctpControl (cmd : BitVec 8) (data : List Byte) (s : State) : Res :=
  if !inkUp s then absent "the innkeeper does not run"
  else
    let r := mctpAnswer s.mgmt.eid cmd.toNat data
    .next (emitOut { s with mgmt := { s.mgmt with eid := r.2 } } (.oob r.1))

/-! ### PLDM firmware update (R553, R556, R562). Commands, codes and layouts are those of DSP0267, which the manual names (log entry 44) -/

/-- A message to the update agent: command, then its data. -/
def pldmSend (s : State) (cmd : Nat) (data : List Byte) : State := emitOut s (.oob (leBytes 1 cmd ++ data))

/-- An answer with a completion code alone. (PRESUMED; log entry 44.) -/
def pldmCode (s : State) (cmd code : Nat) : State := pldmSend s cmd (leBytes 1 code)

def setPldm (s : State) (p : Option Pldm) : State := { s with mgmt := { s.mgmt with pldm := p } }

/-- RequestFirmwareData for what has not come yet, up to 1,024 bytes, or TransferComplete. (PRESUMED; log entry 44.) -/
def pldmPull (s : State) (p : Pldm) : State :=
  if p.got.length < p.size then
    pldmSend s 0x15 (leBytes 4 p.got.length ++ leBytes 4 (min (p.size - p.got.length) (min 1024 p.maxXfer)))
  else pldmSend s 0x16 (leBytes 1 0)

/-- The result code of VerifyComplete: R553's checks, of an image of the component's type. (PRESUMED; log entry 44.) -/
def pldmVerify (s : State) (p : Pldm) : Nat :=
  if imgN p.got 4 1 ≠ p.comp then 1
  else match fwChecks s p.got with
    | .ok _ => 0
    | .error e => if e.1 = 0x0D then 2 else if e.1 = 0x0C then 3 else 1

/-- The components with the versions of their present image. (PRESUMED; log entry 44.) -/
def pldmComponents (s : State) : List Byte :=
  leBytes 2 1 ++ leBytes 4 (imageIn s s.mgmt.booted.1).version ++ leBytes 2 2 ++ leBytes 4 (fwWord s) ++ leBytes 2 3 ++ leBytes 4 (imageIn s 4).version

/-- A message that the update agent sends outside update mode. -/
def pldmIdle (s : State) (cmd : Nat) (d : List Byte) : State :=
  match cmd with
  | 0x10 =>
    if d.length < 11 then pldmCode s cmd 3
    else if pay d 0 4 < 32 ∨ pay d 4 2 = 0 ∨ 3 < pay d 4 2 then pldmCode s cmd 2
    else if s.cmd.any (fun c => c.started && c.opcode == 0x70) then pldmCode s cmd 0x81
    else if s.ledger.isoFlash then pldmCode s cmd 0x8A
    else pldmSend (setPldm s (some ⟨1, pay d 0 4, 0, 0, [], false, false⟩)) cmd (leBytes 4 0)
  | _ => pldmCode s cmd (if [0x13, 0x14, 0x1A, 0x1C, 0x1D].contains cmd then 0x80 else 5)

/-- A message that the update agent sends while an update is under way. -/
def pldmActive (s : State) (p : Pldm) (cmd : Nat) (d : List Byte) : State :=
  let good := pay d 0 1 = 0
  match cmd with
  | 0x10 => pldmCode s cmd 0x81
  | 0x13 =>
    if p.stage ≠ 1 then pldmCode s cmd 0x84
    else if d.length < 3 then pldmCode s cmd 3
    else pldmSend (setPldm s (some { p with stage := 2 })) cmd (leBytes 3 0)
  | 0x14 =>
    if p.stage ≠ 2 then pldmCode s cmd 0x84
    else if d.length < 13 then pldmCode s cmd 3
    else if pay d 2 2 < 1 ∨ 3 < pay d 2 2 then pldmSend s cmd (leBytes 1 0 ++ leBytes 1 1 ++ leBytes 1 6 ++ leBytes 6 0)
    else
      let p := { p with stage := 3, comp := pay d 2 2, size := pay d 9 4, got := [], ended := false, ok := false }
      pldmPull (pldmSend (setPldm s (some p)) cmd (leBytes 9 0)) p
  | 0x15 =>
    if p.stage ≠ 3 ∨ p.size ≤ p.got.length then s
    else if !good ∨ d.length ≠ 1 + min (p.size - p.got.length) (min 1024 p.maxXfer) then pldmPull s p
    else
      let p := { p with got := p.got ++ d.drop 1 }
      pldmPull (setPldm s (some p)) p
  | 0x16 =>
    if p.stage ≠ 3 ∨ p.got.length < p.size then s
    else
      let r := pldmVerify s p
      pldmSend (setPldm s (some { p with stage := 4, ended := true, ok := r == 0 })) 0x17 (leBytes 1 r)
  | 0x17 =>
    if p.stage ≠ 4 ∨ !p.ok then s else fwWrite (setPldm s (some { p with stage := 5, ended := false, ok := false })) p.got
  | 0x18 => if p.stage ≠ 5 ∨ !p.ended ∨ !p.ok then s else setPldm s (some { p with stage := 2, got := [] })
  | 0x1A => if p.stage ≠ 2 then pldmCode s cmd 0x84 else pldmSend (setPldm s none) cmd (leBytes 3 0)
  | 0x1C =>
    if p.stage < 3 ∨ (p.stage = 5 ∧ !p.ended) then pldmCode s cmd 0x84 else pldmCode (setPldm s (some { p with stage := 2, got := [] })) cmd 0
  | 0x1D => if p.stage = 5 ∧ !p.ended then pldmCode s cmd 0x86 else pldmSend (setPldm s none) cmd (leBytes 10 0)
  | _ => pldmCode s cmd 5

/-- A message of the update agent: a command, or its answer to a request of the innkeeper. Inventory and status do not depend on the mode.
(PRESUMED; log entry 44.) -/
def execPldmUpdate (cmd : BitVec 8) (data : List Byte) (s : State) : Res :=
  if !inkUp s then absent "the innkeeper does not run"
  else
    let c := cmd.toNat
    .next
      (if c = 0x01 then
        pldmSend s c (leBytes 1 0 ++ leBytes 4 12 ++ leBytes 1 2 ++ leBytes 2 0 ++ leBytes 2 2 ++ leBytes 2 Config.pciVendor.toNat ++ leBytes 2 0x100 ++
          leBytes 2 2 ++ leBytes 2 0x0096)
      else if c = 0x02 then pldmSend s c (leBytes 1 0 ++ leBytes 4 0 ++ leBytes 2 3 ++ pldmComponents s)
      else if c = 0x1B then pldmSend s c (leBytes 1 0 ++ leBytes 1 ((s.mgmt.pldm.map (·.stage)).getD 0))
      else match s.mgmt.pldm with
        | none => pldmIdle s c data
        | some p => pldmActive s p c data)

/-! ### The out-of-band mailbox (R563) -/

/-- What the innkeeper serves without the steward. (DESIGN CHOICE; log entry 42.) -/
def inkServe (s : State) (c : Cmd) : OpRes :=
  if c.opcode = 0x01 then opIdentify s c
  else if c.opcode = 0x03 then opGetTelemetry s c
  else if c.opcode = 0x40 ∧ pay c.payload 0 1 = 1 then opReadLog s c
  else notNow s 0xFF

/-- DESIGN CHOICE; log entry 42. -/
def oobSettle (tag : Nat) : OpRes → State
  | .done code detail p s => oobAnswer s tag code detail p
  | .busy s => s

/-- A request; one that comes while another is served is answered NOT_NOW (log entry 42). -/
def execOobMailbox (opcode : BitVec 8) (tag : BitVec 16) (payload : List Byte) (s : State) : Res :=
  if !inkUp s then absent "the innkeeper does not run"
  else
    let c := newCmd s opcode.toNat tag.toNat payload true
    if !s.pins.ready then .next (oobSettle tag.toNat (inkServe s c))
    else afterRest [.oobMailbox opcode tag payload] s
      (.next (if s.oobCmd.isSome then oobAnswer s tag.toNat 3 0xFF [] else takeAll { s with oobCmd := some c }))

/-! ### JTAG (R564) -/

/-- The token: challenge, serial number, scope and key index, and a signature block over those 42 bytes. (DESIGN CHOICE; log entry 54.) -/
def tokenGood (s : State) (k : List Byte) : Bool :=
  let m := k.take 42
  let sb := k.drop 42
  let (rk, lk) := (sb.take 384, (sb.drop 384).take 48)
  decide (k.length = 42 + 17040) && m.take 32 == leBytes 32 (Config.challenge s.mgmt.challenges).toNat && pay m 32 8 == Config.serial.toNat &&
    decide (pay m 40 1 < 8) && decide (pay m 41 1 < 4) && !Config.revoked (pay m 41 1) &&
    sha384 (rk ++ lk) == leBytes 48 (Config.debugKey (pay m 41 1)).toNat &&
    Config.verify 0 rk m ((sb.drop 432).take 384) && Config.verify 1 lk m (sb.drop 816)

/-- A challenge is shown and a token comes back. (DESIGN CHOICE; log entry 54.) -/
def execJtagAuth (token : List Byte) (s : State) : Res :=
  if !inkUp s then absent "the innkeeper does not run"
  else
    let t := { s with mgmt := { s.mgmt with challenges := s.mgmt.challenges + 1 } }
    .next (if tokenGood s token then csrPut t (inkCsr 0x20) (BitVec.ofNat 64 (1 + pay token 40 1 * 2 + 16)) else raise t 0xA002 0x04 NOTE)

/-- A write of 0 to the AUTH register; EVER stays. -/
def execJtagDeauth (s : State) : Res :=
  if !inkUp s then absent "the innkeeper does not run" else .next (csrSetF (csrSetF s (inkCsr 0x20) 0 1 0) (inkCsr 0x20) 1 3 0)

/-! ### The flash (R527, R550, R553, R557) -/

/-- A record of the flash log is written. (DESIGN CHOICE; log entry 53.) -/
def flashLog (s : State) (r : LogRec) (rest : List LogRec) : State :=
  let l := s.ledger
  { s with ledger := { l with flash := tabSet (fun _ => none) l.flash (l.flashNext % 65536) (some r), flashNext := l.flashNext + 1, backlog := rest } }

/-- A flash write failed. (DESIGN CHOICE; log entry 53.) -/
def flashNote (s : State) : State := raise s 0xA001 0x52 NOTE

/-- An image is in its slot, which is PENDING; factory settings are in force from the next load on, and their counter is raised at once
(log entry 45). -/
def imageWritten (s : State) (k : Nat) (x : FwImage) : State :=
  let s := setImage s k x
  if k < 4 then setSlotState s k 2 else setSecCounter s 3 x.secver

/-- An image's write ends for the update that asked for it: ApplyComplete of PLDM, or the result of FW_UPDATE. (DESIGN CHOICE; log entry 45.) -/
def imageDone (s : State) (ok : Bool) : State :=
  match s.mgmt.pldm with
  | some p =>
    if p.stage = 5 then pldmSend (setPldm s (some { p with ended := true, ok := ok })) 0x18 (leBytes 1 (if ok then 0 else 1) ++ leBytes 2 0)
    else s
  | none => if ok then s else { s with mgmt := { s.mgmt with flashBad := true } }

/-- The flash work at the head ends: log records before settings and images. A record of the log that failed is written again. -/
def execFlashWriteDone (ok : Bool) (s : State) : Res :=
  if !inkUp s then absent "the innkeeper does not run"
  else match (if s.ledger.isoFlash then [] else s.ledger.backlog) with
  | r :: rest => .next (if ok then flashLog s r rest else flashNote s)
  | [] => match s.mgmt.flashQ with
    | [] => absent "no flash write is in progress"
    | job :: rest =>
      let s := { s with mgmt := { s.mgmt with flashQ := rest } }
      match job with
      | .setting n ws =>
        let m := s.mgmt
        .next (if ok then { s with mgmt := { m with settings := assocPut m.settings n ws, settingsSeq := m.settingsSeq + 1 } }
          else flashNote { s with mgmt := { m with flashBad := true } })
      | .image k x => .next (imageDone (if ok then imageWritten s k x else flashNote s) ok)

end Sys2Proof.Machine
end

