-- ==== Sys2Proof/Machine/Wake.lean ====
section
/-! DEFINITION. The end of Rest: what reached the resting module is served (R543–R545). -/

namespace Sys2Proof.Machine

/-- What a held command does once the module is awake. Only commands that wake a module are held. -/
def wokenEff (i : Instr) (s : State) : Res :=
  match i with
  | .registerWrite who addr size v => execRegisterWrite who addr size v s
  | .bar2Read off len => execBar2Read off len s
  | .bar2Write off bytes ep => execBar2Write off bytes ep s
  | .oobMailbox opcode tag payload => execOobMailbox opcode tag payload s
  | .pktRead h => execPktRead h s
  | .pktWrite h data => execPktWrite h data s
  | .pktAtomic h aop w64 signed wantOld opnd cmp => execPktAtomic h aop w64 signed wantOld opnd cmp s
  | .pktSignal h tile sem amount => execPktSignal h tile sem amount s
  | .pktTally h tile ctr amount => execPktTally h tile ctr amount s
  | .pktBarArrive h ctx gen slot => execPktBarArrive h ctx gen slot s
  | .pktPartial h tile row => execPktPartial h tile row s
  | .pktColl h ctx seq op redop elems stage first data => execPktColl h ctx seq op redop elems stage first data s
  | .pktMirror h data => execPktMirror h data s
  | .pktProbe h => execPktProbe h s
  | .pktMgmt h data => execPktMgmt h data s
  | .pktFence h fencer => execPktFence h fencer s
  | _ => .next s

/-- A held command is served; one that no longer reaches the module is lost. (DESIGN CHOICE; log entry 50.) -/
def serveWoken (s : State) (i : Instr) : State :=
  match wokenEff i s with
  | .next s' => s'
  | _ => s

/-- The exit from Rest is complete; a HALT event that came in Rest has its effect now (R543), what woke the module and what followed it is served in
its order (R544), and a command that waited is taken. (DESIGN CHOICE; log entry 50.) -/
def execRestExitDone (s : State) : Res :=
  if s.rest ≠ 2 then absent "the module is not leaving Rest"
  else
    let s := stewardStart { s with rest := 0 }
    let s := match s.ledger.haltNext with
      | some h => haltNow { s with ledger := { s.ledger with haltNext := none } } h.1 h.2.1 h.2.2
      | none => s
    .next (takeAll (s.woken.foldl serveWoken { s with woken := [] }))

end Sys2Proof.Machine
end

