-- ==== Sys2Proof/Machine/Dispatch.lean ====
section
/-! DEFINITION. The meaning of each command: one arm per constructor of `Instr`, in the order of the spec's table. -/

namespace Sys2Proof.Machine

def exec (i : Instr) (s : State) : Host.Outcome State Fault Refusal :=
  match i with
  | .identify len tag => Sys2Proof.Machine.execIdentify len tag s
  | .getStatus len tag => Sys2Proof.Machine.execGetStatus len tag s
  | .getTelemetry len tag => Sys2Proof.Machine.execGetTelemetry len tag s
  | .loadPlan len tag => Sys2Proof.Machine.execLoadPlan len tag s
  | .unloadPlan len tag => Sys2Proof.Machine.execUnloadPlan len tag s
  | .run len tag => Sys2Proof.Machine.execRun len tag s
  | .stop len tag => Sys2Proof.Machine.execStop len tag s
  | .queryRun len tag => Sys2Proof.Machine.execQueryRun len tag s
  | .allocRegion len tag => Sys2Proof.Machine.execAllocRegion len tag s
  | .freeRegion len tag => Sys2Proof.Machine.execFreeRegion len tag s
  | .tablePublish len tag => Sys2Proof.Machine.execTablePublish len tag s
  | .setCap len tag => Sys2Proof.Machine.execSetCap len tag s
  | .setPolicy len tag => Sys2Proof.Machine.execSetPolicy len tag s
  | .setPersistent len tag => Sys2Proof.Machine.execSetPersistent len tag s
  | .readLog len tag => Sys2Proof.Machine.execReadLog len tag s
  | .clearFault len tag => Sys2Proof.Machine.execClearFault len tag s
  | .injectFault len tag => Sys2Proof.Machine.execInjectFault len tag s
  | .traceCtrl len tag => Sys2Proof.Machine.execTraceCtrl len tag s
  | .memTest len tag => Sys2Proof.Machine.execMemTest len tag s
  | .memRemap len tag => Sys2Proof.Machine.execMemRemap len tag s
  | .linkTrain len tag => Sys2Proof.Machine.execLinkTrain len tag s
  | .setFabricId len tag => Sys2Proof.Machine.execSetFabricId len tag s
  | .twinPair len tag => Sys2Proof.Machine.execTwinPair len tag s
  | .twinTakeover len tag => Sys2Proof.Machine.execTwinTakeover len tag s
  | .fwUpdate len tag => Sys2Proof.Machine.execFwUpdate len tag s
  | .attest len tag => Sys2Proof.Machine.execAttest len tag s
  | .enterRest len tag => Sys2Proof.Machine.execEnterRest len tag s
  | .deviceReset len tag => Sys2Proof.Machine.execDeviceReset len tag s
  | .mbxAck => Sys2Proof.Machine.execMbxAck s
  | .mbxPayloadWrite off bytes => Sys2Proof.Machine.execMbxPayloadWrite off bytes s
  | .mailboxComplete => Sys2Proof.Machine.execMailboxComplete s
  | .hstLoadProdWrite bytes => Sys2Proof.Machine.execHstLoadProdWrite bytes s
  | .loadStalled time => Sys2Proof.Machine.execLoadStalled time s
  | .hstAbort key => Sys2Proof.Machine.execHstAbort key s
  | .abortComplete => Sys2Proof.Machine.execAbortComplete s
  | .evqEnable cfg => Sys2Proof.Machine.execEvqEnable cfg s
  | .evqHeadWrite head => Sys2Proof.Machine.execEvqHeadWrite head s
  | .evqCoalesceTimer time => Sys2Proof.Machine.execEvqCoalesceTimer time s
  | .evqWriteError => Sys2Proof.Machine.execEvqWriteError s
  | .bar2Read off len => Sys2Proof.Machine.execBar2Read off len s
  | .bar2Write off bytes ep => Sys2Proof.Machine.execBar2Write off bytes ep s
  | .hstDbSignal page amount => Sys2Proof.Machine.execHstDbSignal page amount s
  | .hstDbTally page amount => Sys2Proof.Machine.execHstDbTally page amount s
  | .hstDbWq page tail => Sys2Proof.Machine.execHstDbWq page tail s
  | .registerWrite who addr size value => Sys2Proof.Machine.execRegisterWrite who addr size value s
  | .counterClear who addr => Sys2Proof.Machine.execCounterClear who addr s
  | .alu t rd ra rb fn => Sys2Proof.Machine.execAlu t rd ra rb fn s
  | .addi t rd ra imm => Sys2Proof.Machine.execAddi t rd ra imm s
  | .andi t rd ra imm => Sys2Proof.Machine.execAndi t rd ra imm s
  | .ori t rd ra imm => Sys2Proof.Machine.execOri t rd ra imm s
  | .xori t rd ra imm => Sys2Proof.Machine.execXori t rd ra imm s
  | .shi t rd ra imm => Sys2Proof.Machine.execShi t rd ra imm s
  | .movw t rd ra imm => Sys2Proof.Machine.execMovw t rd ra imm s
  | .cmp t rd ra rb fn => Sys2Proof.Machine.execCmp t rd ra rb fn s
  | .pred t rd ra rb fn => Sys2Proof.Machine.execPred t rd ra rb fn s
  | .csel t rd ra rb fn => Sys2Proof.Machine.execCsel t rd ra rb fn s
  | .f32 t rd ra rb fn => Sys2Proof.Machine.execF32 t rd ra rb fn s
  | .f64 t rd ra rb fn => Sys2Proof.Machine.execF64 t rd ra rb fn s
  | .cvt t rd ra rb fn => Sys2Proof.Machine.execCvt t rd ra rb fn s
  | .ld t rd ra sz off => Sys2Proof.Machine.execLd t rd ra sz off s
  | .st t rd ra sz off => Sys2Proof.Machine.execSt t rd ra sz off s
  | .csrr t rd ra imm => Sys2Proof.Machine.execCsrr t rd ra imm s
  | .csrw t rd ra imm => Sys2Proof.Machine.execCsrw t rd ra imm s
  | .fence t rsv => Sys2Proof.Machine.execFence t rsv s
  | .br t p neg al off => Sys2Proof.Machine.execBr t p neg al off s
  | .call t p neg al off => Sys2Proof.Machine.execCall t p neg al off s
  | .jr t rd ra rb fn => Sys2Proof.Machine.execJr t rd ra rb fn s
  | .reti t rsv => Sys2Proof.Machine.execReti t rsv s
  | .yield_ t rsv => Sys2Proof.Machine.execYield t rsv s
  | .end_ t rsv => Sys2Proof.Machine.execEnd t rsv s
  | .signal t ra rb num => Sys2Proof.Machine.execSignal t ra rb num s
  | .wait t ra rb num => Sys2Proof.Machine.execWait t ra rb num s
  | .take t ra rb num => Sys2Proof.Machine.execTake t ra rb num s
  | .tallyAdd t ra rb num => Sys2Proof.Machine.execTallyAdd t ra rb num s
  | .tallyWait t ra rb num => Sys2Proof.Machine.execTallyWait t ra rb num s
  | .barrierArrive t ra rb num => Sys2Proof.Machine.execBarrierArrive t ra rb num s
  | .signalAt t ra rb num => Sys2Proof.Machine.execSignalAt t ra rb num s
  | .tallyAddAt t ra rb num => Sys2Proof.Machine.execTallyAddAt t ra rb num s
  | .issue t eng tryBit pd ra rsv => Sys2Proof.Machine.execIssue t eng tryBit pd ra rsv s
  | .interruptTake t => Sys2Proof.Machine.execInterruptTake t s
  | .taskStart t => Sys2Proof.Machine.execTaskStart t s
  | .taskResume t => Sys2Proof.Machine.execTaskResume t s
  | .taskComplete t id => Sys2Proof.Machine.execTaskComplete t id s
  | .steal c => Sys2Proof.Machine.execSteal c s
  | .preemptRequest c => Sys2Proof.Machine.execPreemptRequest c s
  | .preemptGrace t time => Sys2Proof.Machine.execPreemptGrace t time s
  | .suspendComplete t => Sys2Proof.Machine.execSuspendComplete t s
  | .wqTailWrite t q tail => Sys2Proof.Machine.execWqTailWrite t q tail s
  | .gatherRows t => Sys2Proof.Machine.execGatherRows t s
  | .walk t => Sys2Proof.Machine.execWalk t s
  | .sample t => Sys2Proof.Machine.execSample t s
  | .scatter t => Sys2Proof.Machine.execScatter t s
  | .atomic t => Sys2Proof.Machine.execAtomic t s
  | .expand t => Sys2Proof.Machine.execExpand t s
  | .intersectCount t => Sys2Proof.Machine.execIntersectCount t s
  | .prefetch t => Sys2Proof.Machine.execPrefetch t s
  | .fetchResponse t slot ecc => Sys2Proof.Machine.execFetchResponse t slot ecc s
  | .foragerComplete t job => Sys2Proof.Machine.execForagerComplete t job s
  | .combCreditGrant t => Sys2Proof.Machine.execCombCreditGrant t s
  | .mergeOpen t => Sys2Proof.Machine.execMergeOpen t s
  | .mergeClose t => Sys2Proof.Machine.execMergeClose t s
  | .partialRow t => Sys2Proof.Machine.execPartialRow t s
  | .matmul t => Sys2Proof.Machine.execMatmul t s
  | .matmulOutputBlock t => Sys2Proof.Machine.execMatmulOutputBlock t s
  | .chain t => Sys2Proof.Machine.execChain t s
  | .softmax t => Sys2Proof.Machine.execSoftmax t s
  | .vectorRingBlock t => Sys2Proof.Machine.execVectorRingBlock t s
  | .vectorComplete t => Sys2Proof.Machine.execVectorComplete t s
  | .stream t c => Sys2Proof.Machine.execStream t c s
  | .waybillLoop t c => Sys2Proof.Machine.execWaybillLoop t c s
  | .addAddr t c => Sys2Proof.Machine.execAddAddr t c s
  | .loadIndex t c => Sys2Proof.Machine.execLoadIndex t c s
  | .emit t c => Sys2Proof.Machine.execEmit t c s
  | .waybillSignal t c => Sys2Proof.Machine.execWaybillSignal t c s
  | .waybillWait t c => Sys2Proof.Machine.execWaybillWait t c s
  | .waybillPred t c => Sys2Proof.Machine.execWaybillPred t c s
  | .waybillEnd t c => Sys2Proof.Machine.execWaybillEnd t c s
  | .chunkPerformed t c n hostData time => Sys2Proof.Machine.execChunkPerformed t c n hostData time s
  | .streamComplete t c => Sys2Proof.Machine.execStreamComplete t c s
  | .hostXferFail t c n => Sys2Proof.Machine.execHostXferFail t c n s
  | .stallLimit t c time => Sys2Proof.Machine.execStallLimit t c time s
  | .syncStall t who time => Sys2Proof.Machine.execSyncStall t who time s
  | .dieBarrierArrival k t => Sys2Proof.Machine.execDieBarrierArrival k t s
  | .barrierRelease t k => Sys2Proof.Machine.execBarrierRelease t k s
  | .notifyWriteError t j => Sys2Proof.Machine.execNotifyWriteError t j s
  | .runPhase slot => Sys2Proof.Machine.execRunPhase slot s
  | .planLoop slot => Sys2Proof.Machine.execPlanLoop slot s
  | .seal slot => Sys2Proof.Machine.execSeal slot s
  | .planEnd slot => Sys2Proof.Machine.execPlanEnd slot s
  | .phaseDrained slot => Sys2Proof.Machine.execPhaseDrained slot s
  | .phaseBarrierOpen slot => Sys2Proof.Machine.execPhaseBarrierOpen slot s
  | .clusterStartStagger c time => Sys2Proof.Machine.execClusterStartStagger c time s
  | .groupStagger k time => Sys2Proof.Machine.execGroupStagger k time s
  | .policyTick time => Sys2Proof.Machine.execPolicyTick time s
  | .replicaInsert => Sys2Proof.Machine.execReplicaInsert s
  | .hubClaim slot pool time => Sys2Proof.Machine.execHubClaim slot pool time s
  | .moveNotice home => Sys2Proof.Machine.execMoveNotice home s
  | .movesDone home => Sys2Proof.Machine.execMovesDone home s
  | .tblRdrLookup => Sys2Proof.Machine.execTblRdrLookup s
  | .tblRdrInsert => Sys2Proof.Machine.execTblRdrInsert s
  | .tblRdrRemove => Sys2Proof.Machine.execTblRdrRemove s
  | .panInvalidate who c value => Sys2Proof.Machine.execPanInvalidate who c value s
  | .panInvalidateDone c => Sys2Proof.Machine.execPanInvalidateDone c s
  | .panZero t loc => Sys2Proof.Machine.execPanZero t loc s
  | .panCtrlWrite who c value => Sys2Proof.Machine.execPanCtrlWrite who c value s
  | .panPreload who c value => Sys2Proof.Machine.execPanPreload who c value s
  | .mergeEntryTimeout c slice time => Sys2Proof.Machine.execMergeEntryTimeout c slice time s
  | .mr4Poll reports time => Sys2Proof.Machine.execMr4Poll reports time s
  | .patrolRead ch off ecc => Sys2Proof.Machine.execPatrolRead ch off ecc s
  | .pageRetirement ch => Sys2Proof.Machine.execPageRetirement ch s
  | .memTgStart who ch cfg => Sys2Proof.Machine.execMemTgStart who ch cfg s
  | .memTgDone ch errors off beat badPages => Sys2Proof.Machine.execMemTgDone ch errors off beat badPages s
  | .flit p f => Sys2Proof.Machine.execFlit p f s
  | .portRetrain p => Sys2Proof.Machine.execPortRetrain p s
  | .portRetrainDone p lowOk highOk => Sys2Proof.Machine.execPortRetrainDone p lowOk highOk s
  | .linkTrainingStep p lowOk highOk nbrDevice nbrPort servedByTwin => Sys2Proof.Machine.execLinkTrainingStep p lowOk highOk nbrDevice nbrPort servedByTwin s
  | .pktRead h => Sys2Proof.Machine.execPktRead h s
  | .pktReadResp h data => Sys2Proof.Machine.execPktReadResp h data s
  | .pktWrite h data => Sys2Proof.Machine.execPktWrite h data s
  | .pktAtomic h aop w64 signed wantOld opnd cmp => Sys2Proof.Machine.execPktAtomic h aop w64 signed wantOld opnd cmp s
  | .pktAtomicResp h old => Sys2Proof.Machine.execPktAtomicResp h old s
  | .pktAck h => Sys2Proof.Machine.execPktAck h s
  | .pktError h code => Sys2Proof.Machine.execPktError h code s
  | .pktSignal h tile sem amount => Sys2Proof.Machine.execPktSignal h tile sem amount s
  | .pktTally h tile ctr amount => Sys2Proof.Machine.execPktTally h tile ctr amount s
  | .pktBarArrive h ctx gen slot => Sys2Proof.Machine.execPktBarArrive h ctx gen slot s
  | .pktPartial h tile row => Sys2Proof.Machine.execPktPartial h tile row s
  | .pktColl h ctx seq op redop elems stage first data => Sys2Proof.Machine.execPktColl h ctx seq op redop elems stage first data s
  | .collectiveDone ctx => Sys2Proof.Machine.execCollectiveDone ctx s
  | .pktMirror h data => Sys2Proof.Machine.execPktMirror h data s
  | .noticeSlow src cause time => Sys2Proof.Machine.execNoticeSlow src cause time s
  | .noticeDown src subject => Sys2Proof.Machine.execNoticeDown src subject s
  | .noticeHalt src => Sys2Proof.Machine.execNoticeHalt src s
  | .noticeAbort src planId => Sys2Proof.Machine.execNoticeAbort src planId s
  | .noticeTakeover src subject => Sys2Proof.Machine.execNoticeTakeover src subject s
  | .noticeTakeoverEnd src subject => Sys2Proof.Machine.execNoticeTakeoverEnd src subject s
  | .noticeBeat src twinState time => Sys2Proof.Machine.execNoticeBeat src twinState time s
  | .pktProbe h => Sys2Proof.Machine.execPktProbe h s
  | .pktProbeAck h => Sys2Proof.Machine.execPktProbeAck h s
  | .pktMgmt h data => Sys2Proof.Machine.execPktMgmt h data s
  | .pktFence h fencer => Sys2Proof.Machine.execPktFence h fencer s
  | .reqTimeout tag time => Sys2Proof.Machine.execReqTimeout tag time s
  | .probeTimeout target time => Sys2Proof.Machine.execProbeTimeout target time s
  | .slowRenew time => Sys2Proof.Machine.execSlowRenew time s
  | .slowExpire peer time => Sys2Proof.Machine.execSlowExpire peer time s
  | .twinBeatTimer time => Sys2Proof.Machine.execTwinBeatTimer time s
  | .twinBeatMiss time => Sys2Proof.Machine.execTwinBeatMiss time s
  | .twinProbeResult alive => Sys2Proof.Machine.execTwinProbeResult alive s
  | .fenceTimeout time => Sys2Proof.Machine.execFenceTimeout time s
  | .faultMessage m => Sys2Proof.Machine.execFaultMessage m s
  | .graceExpiry source kind time => Sys2Proof.Machine.execGraceExpiry source kind time s
  | .quietPeriod source kind time => Sys2Proof.Machine.execQuietPeriod source kind time s
  | .ldgAck who value => Sys2Proof.Machine.execLdgAck who value s
  | .ldgInjArm who value => Sys2Proof.Machine.execLdgInjArm who value s
  | .heartbeatToggle time => Sys2Proof.Machine.execHeartbeatToggle time s
  | .govTick powerW time => Sys2Proof.Machine.execGovTick powerW time s
  | .thermalSample sensor reading time => Sys2Proof.Machine.execThermalSample sensor reading time s
  | .overcurrentWarning => Sys2Proof.Machine.execOvercurrentWarning s
  | .fastLimitRelease time => Sys2Proof.Machine.execFastLimitRelease time s
  | .thermtrip sensor => Sys2Proof.Machine.execThermtrip sensor s
  | .brownoutEnter => Sys2Proof.Machine.execBrownoutEnter s
  | .brownoutExit time => Sys2Proof.Machine.execBrownoutExit time s
  | .powerFail time => Sys2Proof.Machine.execPowerFail time s
  | .holdupEnd time => Sys2Proof.Machine.execHoldupEnd time s
  | .vcoreDroop => Sys2Proof.Machine.execVcoreDroop s
  | .vcoreSupervisor => Sys2Proof.Machine.execVcoreSupervisor s
  | .auxLoss => Sys2Proof.Machine.execAuxLoss s
  | .auxPowerOn => Sys2Proof.Machine.execAuxPowerOn s
  | .pwrEnAssert => Sys2Proof.Machine.execPwrEnAssert s
  | .pwrEnRelease => Sys2Proof.Machine.execPwrEnRelease s
  | .moduleResetAssert => Sys2Proof.Machine.execModuleResetAssert s
  | .moduleResetRelease => Sys2Proof.Machine.execModuleResetRelease s
  | .perstAssert => Sys2Proof.Machine.execPerstAssert s
  | .perstRelease => Sys2Proof.Machine.execPerstRelease s
  | .bootStageDone ok failed => Sys2Proof.Machine.execBootStageDone ok failed s
  | .bootReady => Sys2Proof.Machine.execBootReady s
  | .deviceResetDone => Sys2Proof.Machine.execDeviceResetDone s
  | .bootConfirmTimeout bundle time => Sys2Proof.Machine.execBootConfirmTimeout bundle time s
  | .watchdogExpiry core time => Sys2Proof.Machine.execWatchdogExpiry core time s
  | .inkWdogKick who value => Sys2Proof.Machine.execInkWdogKick who value s
  | .d3hotEntry => Sys2Proof.Machine.execD3hotEntry s
  | .restWake => Sys2Proof.Machine.execRestWake s
  | .restExitDone => Sys2Proof.Machine.execRestExitDone s
  | .alertResponse => Sys2Proof.Machine.execAlertResponse s
  | .mctpControl cmd data => Sys2Proof.Machine.execMctpControl cmd data s
  | .pldmUpdate cmd data => Sys2Proof.Machine.execPldmUpdate cmd data s
  | .oobMailbox opcode tag payload => Sys2Proof.Machine.execOobMailbox opcode tag payload s
  | .jtagAuth token => Sys2Proof.Machine.execJtagAuth token s
  | .jtagDeauth => Sys2Proof.Machine.execJtagDeauth s
  | .coreAccessComplete t idx ecc => Sys2Proof.Machine.execCoreAccessComplete t idx ecc s
  | .preloadDone c => Sys2Proof.Machine.execPreloadDone c s
  | .prefetchFillArrival c slice ecc => Sys2Proof.Machine.execPrefetchFillArrival c slice ecc s
  | .moveCopyDone => Sys2Proof.Machine.execMoveCopyDone s
  | .flashWriteDone ok => Sys2Proof.Machine.execFlashWriteDone ok s

end Sys2Proof.Machine
end

