-- ==== Sys2Proof/Safety.lean ====
section
/-! DEFINITION. The terms in which claims about the machine are stated: a step that completed, the invariant of the module's state, and what
a step leaves as it was. -/

namespace Sys2Proof.Machine

/-- The command completes in `s`, in a state of which `Q` holds. -/
def Gives (i : Instr) (s : State) (Q : State → Prop) : Prop := ∃ t, exec i s = .next t ∧ Q t

/-- The command leaves everything as it was: an instruction that waits. -/
def Waits (i : Instr) (s : State) : Prop := exec i s = .next s

/-- The ledger's input queue of 32 messages has room. -/
def LedgerRoom (s : State) : Prop := s.ledger.queue.length < 32

/-- The ledger's input queue holds a message of this source, kind and level. -/
def Reported (t : State) (source kind level : Nat) : Prop :=
  ∃ m ∈ t.ledger.queue, m.source = BitVec.ofNat 16 source ∧ m.kind = BitVec.ofNat 8 kind ∧ m.level = BitVec.ofNat 2 level

/-- The invariant of the module's state: memory, its poison marks, the registers and the sparse tables of the other state are in canonical form (their keys
strictly rise, and no entry is what an unlisted key reads as), and the ledger holds no more messages than its input queue takes (R513). -/
structure Inv (s : State) : Prop where
  mem : Memory.wf s.mem = true
  poison : tabWf (fun _ => false) s.poison = true
  csr : tabWf csrReset s.csr = true
  tiles : tabWf (fun _ => Tile.init) s.tiles = true
  disps : tabWf (fun _ => Disp.init) s.disps = true
  pans : tabWf (fun _ => Pantry.empty) s.pans = true
  links : tabWf (fun _ => Link.init) s.links = true
  plans : tabWf (fun _ => (none : Option Plan)) s.plans = true
  semQ : tabWf (fun _ => ([] : List SemWait)) s.semQ = true
  tallyQ : tabWf (fun _ => ([] : List TallyWait)) s.tallyQ = true
  barRel : tabWf (fun _ => ([] : List Nat)) s.barRel = true
  fabArr : tabWf (fun _ => FabBar.init) s.fabArr = true
  verInfo : tabWf (fun _ => (none : Option VerInfo)) s.verInfo = true
  slowAt : tabWf (fun _ => 0) s.slowAt = true
  ceTrack : tabWf (fun _ => ([] : List (Nat × Nat))) s.ceTrack = true
  patrol : tabWf (fun _ => (0, 0)) s.patrol = true
  lowPolls : tabWf (fun _ => 0) s.lowPolls = true
  notifyLast : tabWf (fun _ => 0) s.notifyLast = true
  slots : ∀ k, tabWf (fun _ => (none : Option Slot)) (fgrOf s k).slots = true
  ctxs : ∀ k, tabWf (fun _ => (none : Option Stream)) (prtOf s k).ctxs = true
  sets : ∀ c, tabWf (fun _ => ([] : List (Nat × Line))) (panOf s c).sets = true
  evb : ∀ c, tabWf (fun _ => ([] : List Line)) (panOf s c).evb = true
  classes : tabWf (fun _ => (none : Option ClassEnt)) s.ledger.classes = true
  queue : s.ledger.queue.length ≤ 32

/-! ### Frames -/

/-- Every byte of memory reads as before. -/
def SameMem (s t : State) : Prop := ∀ a, memByte t a = memByte s a

/-- Every byte of memory outside the `n` bytes at `lo` reads as before. -/
def SameMemBut (s t : State) (lo n : Nat) : Prop := ∀ a, (a < lo ∨ lo + n ≤ a) → memByte t a = memByte s a

/-- Every register that is not listed reads as before. -/
def SameCsrBut (s t : State) (l : List Nat) : Prop := ∀ a, a ∉ l → csrGet t a = csrGet s a

/-- Every tile but `k` is as before. -/
def SameTilesBut (s t : State) (k : Nat) : Prop := ∀ j, j ≠ k → tileOf t j = tileOf s j

/-- Every scalar register of the core of tile `k` reads as before, but for `rd`, which reads as `v`; s0 reads as zero whatever is written to
it (R264). -/
def RegsBut (s t : State) (k : Nat) (rd : BitVec 5) (v : Word) : Prop :=
  ∀ r, getR (coreOf t k) r = if r = rd ∧ r ≠ 0 then v else getR (coreOf s k) r

/-- Every predicate of the core of tile `k` is as before, but for `p`, which is `b`. -/
def PredsBut (s t : State) (k p : Nat) (b : Bool) : Prop :=
  ∀ q, q < 8 → getP (coreOf t k) q = if q = p then b else getP (coreOf s k) q

/-- An instruction on tile `k` has retired and acted on its core alone: the program counter is `pc` and the counter of retired instructions has moved
on by one; the other tiles, the tile's engines, every register but those in `l`, memory and every other part of the state are as they were. -/
structure Retires (s t : State) (k : Nat) (pc : BitVec 32) (l : List Nat) : Prop where
  state : t = { s with tiles := t.tiles, csr := t.csr }
  others : SameTilesBut s t k
  engines : tileOf t k = { tileOf s k with core := coreOf t k }
  goes : (coreOf t k).pc = pc
  csrs : SameCsrBut s t (tileCsr k 0x80 :: l)
  retired : csrGet t (tileCsr k 0x80) = csrGet s (tileCsr k 0x80) + 1
  mem : SameMem s t

/-- The same of an instruction that only computes or transfers control: its core, too, is as it was, but for registers and predicates. -/
structure Computed (s t : State) (k : Nat) (pc : BitVec 32) (l : List Nat) : Prop extends Retires s t k pc l where
  core : coreOf t k = { coreOf s k with regs := (coreOf t k).regs, preds := (coreOf t k).preds, pc := pc }

/-- The offset of the next instruction of the core of tile `k`. -/
def nextPc (s : State) (k : Nat) : BitVec 32 := (coreOf s k).pc + 4

/-- The instruction computes: with a core that executes and no outstanding load that owns one of `rs`, it completes, `rd` holds `v` (R264), and
nothing else has changed but the program counter and the counter of retired instructions. -/
def WritesRd (i : Instr) (s : State) (k : Nat) (rd : BitVec 5) (v : Word) : Prop :=
  ∃ t, exec i s = .next t ∧ Computed s t k (nextPc s k) [] ∧ RegsBut s t k rd v ∧ (coreOf t k).preds = (coreOf s k).preds

/-- The same of an instruction whose result is predicate `p`. -/
def WritesP (i : Instr) (s : State) (k p : Nat) (b : Bool) : Prop :=
  ∃ t, exec i s = .next t ∧ Computed s t k (nextPc s k) [] ∧ PredsBut s t k p b ∧ (coreOf t k).regs = (coreOf s k).regs

/-- The task on tile `k` failed with `cause` at the instruction at `pc` (R280): it has left the core, the first failure since the register was
cleared stands in TCR_ERR and TCR_ERR_PC, and the ledger has the message, if its queue had room; registers, predicates and program counter are as
they were. -/
structure TaskFailed (s t : State) (k cause : Nat) : Prop where
  gone : (coreOf t k).task = none
  regs : (coreOf t k).regs = (coreOf s k).regs
  preds : (coreOf t k).preds = (coreOf s k).preds
  pc : (coreOf t k).pc = (coreOf s k).pc
  err : csrF s (tileCsr k 0x38) 8 1 = 0 → csrGet t (tileCsr k 0x38) = BitVec.ofNat 64 (cause + 256) ∧
    csrGet t (tileCsr k 0x40) = BitVec.ofNat 64 ((coreOf s k).pc.toNat % 2 ^ 17)
  kept : csrF s (tileCsr k 0x38) 8 1 = 1 → csrGet t (tileCsr k 0x38) = csrGet s (tileCsr k 0x38) ∧ csrGet t (tileCsr k 0x40) = csrGet s (tileCsr k 0x40)
  told : LedgerRoom s → Reported t k (if cause = 5 then 0x15 else if cause = 8 then 0x24 else 0x20) CONTAIN

/-- The run of plan slot `k` has gone on to `r`, and nothing else has changed. -/
structure RunGoesOn (s u : State) (k : Nat) (p : Plan) (r : Run) : Prop where
  run : planOf u k = some { p with run := some r }
  others : ∀ j, j ≠ k → planOf u j = planOf s j
  state : u = { s with plans := u.plans }

/-- The run in slot `k` has stopped for a fault: FAILED, with the source and the ledger kind that QUERY_RUN reports (R42). -/
def RunFailed (u : State) (k source kind : Nat) : Prop :=
  (runOf u k).map (fun x => (x.2.state, x.2.faultSource, x.2.faultCause)) = some (5, source, kind)

/-! ### Packets -/

/-- A packet reaches the module on a working port, well formed and from a module of the shape, is addressed to it, and is taken: the module answers, is
awake, and is neither in HALT nor DISPLACED, and its sender is not held DOWN or HALTED here. -/
structure Arrives (s : State) (h : Hdr) (kind : Nat) : Prop where
  port : h.port.toNat < 24
  up : portUp s h.port.toNat = true
  answers : deaf s = false
  whole : h.wellFormed = true
  lane : wrongPort h.port.toNat kind = false
  member : s.shape.contains h.src.toNat = true
  mine : h.dst.toNat = ownId s
  awake : s.rest = 0
  working : halted s = false
  served : twinState s ≠ 6
  live : csrF s (peerAddr h.src.toNat) 0 2 < 2

/-- Where a way back exists, one packet of this kind and data has left the module for the sender of `h`, with its tag. -/
def Replies (s u : State) (h : Hdr) (kind : Nat) (data : List Byte) (psn : Bool) : Prop :=
  h.port.toNat ≠ 23 → (route s (servedDev s h.src.toNat)).isSome = true → ∃ p : Packet, u.outbox = s.outbox ++ [.packet p] ∧ p.kind = kind ∧
    p.src = h.dst.toNat ∧ p.dst = h.src.toNat ∧ p.tag = h.tag.toNat ∧ p.data = data ∧ p.poison = psn ∧ p.hop = 0

/-- A request of a peer is refused with this ERROR code, and the module notes it; memory is as it was (R33). -/
def Refuses (i : Instr) (s : State) (h : Hdr) (code : Nat) : Prop :=
  Gives i s (fun u => Replies s u h kERROR (leBytes 8 code) false ∧ SameMem s u ∧ u.poison = s.poison ∧
    (LedgerRoom s → Reported u (0x5000 + h.src.toNat) 0x04 NOTE))

/-- The instruction fails its task. -/
def Fails (i : Instr) (s : State) (k cause : Nat) : Prop := Gives i s (fun t => TaskFailed s t k cause)

/-- A misuse of synchronisation object `num` of `kind` is recorded at tile `k` (R313): the first one since the register was cleared stands in SYN_ERR,
and the ledger has the message. -/
structure Misused (s t : State) (k kind num cause : Nat) : Prop where
  err : csrF s (synErrAddr k) 18 1 = 0 → csrGet t (synErrAddr k) = BitVec.ofNat 64 (cause + num % 256 * 2 ^ 8 + kind * 2 ^ 16 + 2 ^ 18)
  kept : csrF s (synErrAddr k) 18 1 = 1 → csrGet t (synErrAddr k) = csrGet s (synErrAddr k)
  told : LedgerRoom s → Reported t (0x700 + k) (if cause = 5 then 0x22 else if cause = 6 then 0x23 else 0x21) CONTAIN

/-- A descriptor of the engine of block `unit` on tile `k` failed (R14): the first failure since the register was cleared stands in the engine's error
register at `err`, `code` with the VALID bit, and the descriptor's address beside it; the ledger has the message. -/
structure EngineFailed (s t : State) (k unit err valid code kind desc : Nat) : Prop where
  held : csrF s (tileCsr k err) valid 1 = 0 → csrGet t (tileCsr k err) = BitVec.ofNat 64 (code + 2 ^ valid) ∧
    csrGet t (tileCsr k (err + 8)) = BitVec.ofNat 64 desc
  kept : csrF s (tileCsr k err) valid 1 = 1 → csrGet t (tileCsr k err) = csrGet s (tileCsr k err) ∧
    csrGet t (tileCsr k (err + 8)) = csrGet s (tileCsr k (err + 8))
  told : LedgerRoom s → Reported t (unit * 0x100 + k) kind CONTAIN

/-! ### The host mailbox -/

/-- The mailbox takes a command at once: the host reaches it, the module has booted and is awake, no reset and no ABORT is in progress, MBX_STATUS is not
BUSY, and neither path holds a command. -/
structure MbxFree (s : State) : Prop where
  reach : hostUp s = true
  booted : s.boot = 0
  awake : s.rest = 0
  steady : s.resetting = 0
  calm : s.aborting = false
  idle : csrF s (hstCsr 0x1010) 0 2 ≠ 1
  main : s.cmd = none
  oob : s.oobCmd = none

/-- The mailbox is DONE, with this tag, result code, detail and payload (R478, Table 18-4). -/
structure MbxShows (u : State) (tag : BitVec 16) (code detail : Nat) (p : List Byte) : Prop where
  status : csrGet u (hstCsr 0x1010) = BitVec.ofNat 64 (2 + tag.toNat * 2 ^ 32)
  result : csrGet u (hstCsr 0x1018) = BitVec.ofNat 64 (code + p.length * 2 ^ 8 + detail % 2 ^ 32 * 2 ^ 32)
  payload : ∀ i, i < p.length → payByte u i = p.getD i 0
  free : u.cmd = none

/-- The command completes at once with this result, and `Q` holds of the state. -/
def MbxAnswers (i : Instr) (s : State) (tag : BitVec 16) (code detail : Nat) (p : List Byte) (Q : State → Prop) : Prop :=
  Gives i s (fun u => MbxShows u tag code detail p ∧ Q u)

/-- A command of this tag and opcode has begun and goes on: the mailbox is BUSY. -/
def MbxRuns (u : State) (tag : BitVec 16) (op : Nat) : Prop :=
  csrGet u (hstCsr 0x1010) = BitVec.ofNat 64 (1 + tag.toNat * 2 ^ 32) ∧ ∃ c, u.cmd = some c ∧ c.opcode = op ∧ c.tag = tag.toNat ∧ c.started = true

/-- The command begins and goes on, and `Q` holds of the state. -/
def MbxBegins (i : Instr) (s : State) (tag : BitVec 16) (op : Nat) (Q : State → Prop) : Prop := Gives i s (fun u => MbxRuns u tag op ∧ Q u)

/-- Host command `c`, of opcode `op`, is in progress and may complete: no ABORT, no reset and no HALT has it, and nothing else waits. -/
structure MbxInProgress (s : State) (c : Cmd) (op : Nat) : Prop where
  here : s.cmd = some c
  begun : c.started = true
  host : c.oob = false
  which : c.opcode = op
  alone : s.oobCmd = none
  calm : s.aborting = false
  steady : s.resetting = 0
  works : halted s = false

/-- The registers of the mailbox itself, and the pending bits of its interrupt. -/
def mbxRegs : List Nat := [hstCsr 0x1000, hstCsr 0x1010, hstCsr 0x1018, hstCsr 0x1020, hstCsr 0xF8000]

/-- Nothing has changed but the mailbox itself: its registers and payload, and the interrupt that its result may raise. -/
def MbxOnly (s u : State) : Prop :=
  u = { s with csr := u.csr, outbox := u.outbox, mbxPay := u.mbxPay, mbxGen := u.mbxGen, freeCtr := u.freeCtr } ∧
    SameCsrBut s u mbxRegs

end Sys2Proof.Machine
end

