-- ==== Sys2Proof/Certificates/Slice0/Obligations.lean ====
section
/-! DEFINITION. The statements about the model: what its commands do, what they leave alone, where they stop, and what holds of every step. -/

open Sys2Proof
open Sys2Proof.Machine

/-! ### Scalar instructions (chapter 9) -/

/-- R264, Table 9-2. ADDI, ANDI, ORI, XORI, SHI, MOVW and CSEL complete in every state in which the core executes and no outstanding load owns one
of their registers; rd holds the result, s0 stays zero, and nothing else changes.
Where the manual leaves it open it follows log entry 7, the model's choice. -/
def Obligations.ImmediatesAndSelectWriteRd : Prop :=
  ∀ (s : State) (t : BitVec 8) (rd ra rb : BitVec 5) (imm : BitVec 16) (h : BitVec 2) (p : BitVec 3) (n : BitVec 6),
    let k := t.toNat
    let a := getR (coreOf s k) ra
    let b := getR (coreOf s k) rb
    let old := getR (coreOf s k) rd
    Inv s → coreGo s k = true → regBusy (coreOf s k) [rd, ra, rb] = false →
      WritesRd (.addi t rd ra imm) s k rd (a + imm.signExtend 64) ∧
      WritesRd (.andi t rd ra imm) s k rd (a &&& imm.zeroExtend 64) ∧
      WritesRd (.ori t rd ra imm) s k rd (a ||| imm.zeroExtend 64) ∧
      WritesRd (.xori t rd ra imm) s k rd (a ^^^ imm.zeroExtend 64) ∧
      WritesRd (.shi t rd ra (n.zeroExtend 16)) s k rd (a <<< n.toNat) ∧
      WritesRd (.shi t rd ra (n.zeroExtend 16 ||| 0x40)) s k rd (a >>> n.toNat) ∧
      WritesRd (.shi t rd ra (n.zeroExtend 16 ||| 0x80)) s k rd (a.sshiftRight n.toNat) ∧
      WritesRd (.movw t rd (h.zeroExtend 5) imm) s k rd (imm.zeroExtend 64 <<< (16 * h.toNat)) ∧
      WritesRd (.movw t rd (h.zeroExtend 5 ||| 4) imm) s k rd
        ((old &&& ~~~((0xFFFF : Word) <<< (16 * h.toNat))) ||| (imm.zeroExtend 64 <<< (16 * h.toNat))) ∧
      WritesRd (.csel t rd ra rb (p.zeroExtend 11)) s k rd (if getP (coreOf s k) p.toNat then a else b) ∧
      WritesRd (.csel t rd ra rb (p.zeroExtend 11 ||| 8)) s k rd (if getP (coreOf s k) p.toNat then b else a)

/-- Table 9-3, R268. Every ALU function gives the result of its row, for every pair of operands: shift amounts are taken modulo 64, a quotient by zero
is all ones, a remainder by zero is the dividend, CLZ and CTZ of 0 give 64, and no operation faults. -/
def Obligations.AluFollowsItsTable : Prop :=
  ∀ (s : State) (t : BitVec 8) (rd ra rb : BitVec 5),
    let k := t.toNat
    let a := getR (coreOf s k) ra
    let b := getR (coreOf s k) rb
    Inv s → coreGo s k = true → regBusy (coreOf s k) [rd, ra, rb] = false →
      (∀ e ∈ ([(0x000, BitVec.ofNat 64 (a.toNat + b.toNat)), (0x001, BitVec.ofInt 64 (a.toInt - b.toInt)),
          (0x002, BitVec.ofNat 64 (a.toNat * b.toNat)), (0x003, BitVec.ofInt 64 (a.toInt * b.toInt / 2 ^ 64)),
          (0x004, BitVec.ofNat 64 (a.toNat * b.toNat / 2 ^ 64)),
          (0x005, if b = 0 then BitVec.allOnes 64 else BitVec.ofInt 64 (a.toInt.tdiv b.toInt)),
          (0x006, if b = 0 then BitVec.allOnes 64 else BitVec.ofNat 64 (a.toNat / b.toNat)),
          (0x007, if b = 0 then a else BitVec.ofInt 64 (a.toInt.tmod b.toInt)),
          (0x008, if b = 0 then a else BitVec.ofNat 64 (a.toNat % b.toNat)),
          (0x010, a &&& b), (0x011, a ||| b), (0x012, a ^^^ b),
          (0x013, BitVec.ofNat 64 (a.toNat * 2 ^ (b.toNat % 64))), (0x014, BitVec.ofNat 64 (a.toNat / 2 ^ (b.toNat % 64))),
          (0x015, BitVec.ofInt 64 (a.toInt / 2 ^ (b.toNat % 64))),
          (0x018, BitVec.ofInt 64 (min a.toInt b.toInt)), (0x019, BitVec.ofInt 64 (max a.toInt b.toInt)),
          (0x01A, BitVec.ofNat 64 (min a.toNat b.toNat)), (0x01B, BitVec.ofNat 64 (max a.toNat b.toNat)),
          (0x020, BitVec.ofNat 64 ((List.range 64).filter (fun i => a.getLsbD i)).length)] : List (BitVec 11 × Word)),
        WritesRd (.alu t rd ra rb e.1) s k rd e.2) ∧
      (∃ n, n ≤ 64 ∧ (∀ i, 64 - n ≤ i → a.getLsbD i = false) ∧ (n < 64 → a.getLsbD (63 - n) = true) ∧
        WritesRd (.alu t rd ra rb 0x021) s k rd (BitVec.ofNat 64 n)) ∧
      (∃ n, n ≤ 64 ∧ (∀ i, i < n → a.getLsbD i = false) ∧ (n < 64 → a.getLsbD n = true) ∧
        WritesRd (.alu t rd ra rb 0x022) s k rd (BitVec.ofNat 64 n))

/-- R269, R246, Table 9-3. Every F32, F64 and CVT function gives the exact result rounded once to nearest-even; MIN and MAX are one of their operands, or
the canonical NaN; an integer result is rounded toward zero and saturates, and is 0 for a NaN; an FP32 result leaves bits [63:32] zero.
Where the manual leaves it open it follows log entry 7, the model's choice. -/
def Obligations.FloatsRoundOnce : Prop :=
  ∀ (s : State) (t : BitVec 8) (rd ra rb : BitVec 5),
    let k := t.toNat
    let a := getR (coreOf s k) ra
    let b := getR (coreOf s k) rb
    let old := getR (coreOf s k) rd
    let x := decodeFloat fp32 (getF a 0 32)
    let y := decodeFloat fp32 (getF b 0 32)
    let u := decodeFloat fp64 a.toNat
    let v := decodeFloat fp64 b.toNat
    let r32 (w : Machine.Num) : Word := BitVec.ofNat 64 (toFloat fp32 .rne false w).code
    let r64 (w : Machine.Num) : Word := BitVec.ofNat 64 (toFloat fp64 .rne false w).code
    let int (uns : Bool) (w : Machine.Num) : Word := BitVec.ofNat 64 (toInt 64 uns .rtz w).code
    Inv s → coreGo s k = true → regBusy (coreOf s k) [rd, ra, rb] = false →
      (∀ e ∈ ([(0, r32 (x.add y)), (1, r32 (x.add y.neg)), (2, r32 (x.mul y)), (3, r32 (x.div y)),
          (7, r32 ((x.mul y).add (decodeFloat fp32 (getF old 0 32)))), (8, r32 x.abs), (9, r32 x.neg)] : List (BitVec 11 × Word)),
        WritesRd (.f32 t rd ra rb e.1) s k rd e.2) ∧
      (∀ fn ∈ ([4, 5, 6] : List (BitVec 11)), ∃ w, w < 2 ^ 32 ∧ floatFn fp32 fn.toNat (getF a 0 32) (getF b 0 32) (getF old 0 32) = some w ∧
        WritesRd (.f32 t rd ra rb fn) s k rd (BitVec.ofNat 64 w)) ∧
      (x = .nan ∨ y = .nan → WritesRd (.f32 t rd ra rb 5) s k rd 0x7FC00000 ∧ WritesRd (.f32 t rd ra rb 6) s k rd 0x7FC00000) ∧
      (∀ e ∈ ([(0, r64 (u.add v)), (1, r64 (u.add v.neg)), (2, r64 (u.mul v)), (3, r64 (u.div v)),
          (7, r64 ((u.mul v).add (decodeFloat fp64 old.toNat))), (8, r64 u.abs), (9, r64 u.neg)] : List (BitVec 11 × Word)),
        WritesRd (.f64 t rd ra rb e.1) s k rd e.2) ∧
      (∀ fn ∈ ([4, 5, 6] : List (BitVec 11)), ∃ w, w < 2 ^ 64 ∧ floatFn fp64 fn.toNat a.toNat b.toNat old.toNat = some w ∧
        WritesRd (.f64 t rd ra rb fn) s k rd (BitVec.ofNat 64 w)) ∧
      (u = .nan ∨ v = .nan → WritesRd (.f64 t rd ra rb 5) s k rd 0x7FF8000000000000 ∧ WritesRd (.f64 t rd ra rb 6) s k rd 0x7FF8000000000000) ∧
      (∀ e ∈ ([(0, r32 (ofInt a.toInt)), (1, r64 (ofInt a.toInt)), (2, r64 x), (3, r32 u), (4, int false x), (5, int false u),
          (6, r64 (ofInt a.toNat)), (7, int true u)] : List (BitVec 11 × Word)),
        WritesRd (.cvt t rd ra 0 e.1) s k rd e.2) ∧
      (∀ fn : BitVec 11, fn.toNat ≤ 9 → (∃ w, WritesRd (.f32 t rd ra rb fn) s k rd w) ∧ ∃ w, WritesRd (.f64 t rd ra rb fn) s k rd w) ∧
      (∀ fn : BitVec 11, fn.toNat ≤ 7 → ∃ w, WritesRd (.cvt t rd ra 0 fn) s k rd w) ∧
      (x = .nan → WritesRd (.cvt t rd ra 0 4) s k rd 0) ∧ (u = .nan → WritesRd (.cvt t rd ra 0 5) s k rd 0 ∧ WritesRd (.cvt t rd ra 0 7) s k rd 0)

/-- Table 9-3, R269. Every CMP and PRED function sets the predicate that RD names and nothing else; a float compare with a NaN operand is false.
Where the manual leaves it open it follows log entry 7, the model's choice. -/
def Obligations.ComparesAndPredicateLogicSetOnePredicate : Prop :=
  ∀ (s : State) (t : BitVec 8) (p q r : BitVec 3) (ra rb : BitVec 5),
    let k := t.toNat
    let a := getR (coreOf s k) ra
    let b := getR (coreOf s k) rb
    let x := decodeFloat fp32 (getF a 0 32)
    let y := decodeFloat fp32 (getF b 0 32)
    let u := decodeFloat fp64 a.toNat
    let v := decodeFloat fp64 b.toNat
    let m := getP (coreOf s k) q.toNat
    let n := getP (coreOf s k) r.toNat
    Inv s → coreGo s k = true → regBusy (coreOf s k) [ra, rb] = false →
      (∀ e ∈ ([(0, a == b), (1, a != b), (2, decide (a.toInt < b.toInt)), (3, decide (a.toInt ≤ b.toInt)), (4, decide (a.toNat < b.toNat)),
          (5, decide (a.toNat ≤ b.toNat)), (8, x.eq y), (9, x.lt y), (10, x.lt y || x.eq y), (12, u.eq v), (13, u.lt v),
          (14, u.lt v || u.eq v)] : List (BitVec 11 × Bool)),
        WritesP (.cmp t (p.zeroExtend 5) ra rb e.1) s k p.toNat e.2) ∧
      (x = .nan ∨ y = .nan → ∀ fn ∈ ([8, 9, 10] : List (BitVec 11)), WritesP (.cmp t (p.zeroExtend 5) ra rb fn) s k p.toNat false) ∧
      (u = .nan ∨ v = .nan → ∀ fn ∈ ([12, 13, 14] : List (BitVec 11)), WritesP (.cmp t (p.zeroExtend 5) ra rb fn) s k p.toNat false) ∧
      (∀ e ∈ ([(0, m && n), (1, m || n), (2, m != n), (3, !m), (4, true), (5, false)] : List (BitVec 11 × Bool)),
        WritesP (.pred t (p.zeroExtend 5) (q.zeroExtend 5) (r.zeroExtend 5) e.1) s k p.toNat e.2)

/-- R264, R266, R277. BR and CALL go to their own offset plus 4 × OFF21 where they are taken and to the next instruction otherwise, JR goes to the offset in
its register, and RETI sets IE and goes to TCR_EPC; CALL leaves the next offset in s31. The target is a multiple of 4 inside the instruction store.
Where the manual leaves it open it follows log entry 7, the model's choice. -/
def Obligations.ControlTransfersSetThePc : Prop :=
  ∀ (s : State) (t : BitVec 8) (p : BitVec 3) (neg al : Bool) (off : BitVec 21) (ra : BitVec 5),
    let k := t.toNat
    let c := coreOf s k
    let x : Int := c.pc.toNat + 4 * off.toInt
    let link : Word := BitVec.ofNat 64 (c.pc.toNat + 4)
    let taken := al || (getP c p.toNat != neg)
    let inside (y : Int) : Prop := 0 ≤ y ∧ y < 131072 ∧ y % 4 = 0
    Inv s → coreGo s k = true →
      (taken = true → inside x →
        (∃ u, exec (.br t p neg al off) s = .next u ∧ Computed s u k (BitVec.ofInt 32 x) [] ∧ (coreOf u k).regs = c.regs ∧ (coreOf u k).preds = c.preds) ∧
        (regBusy c [31] = false →
          ∃ u, exec (.call t p neg al off) s = .next u ∧ Computed s u k (BitVec.ofInt 32 x) [] ∧ RegsBut s u k 31 link ∧ (coreOf u k).preds = c.preds)) ∧
      (taken = false →
        (∃ u, exec (.br t p neg al off) s = .next u ∧ Computed s u k (nextPc s k) [] ∧ (coreOf u k).regs = c.regs ∧ (coreOf u k).preds = c.preds) ∧
        (regBusy c [31] = false → WritesRd (.call t p neg al off) s k 31 link)) ∧
      (inside (getR c ra).toNat → regBusy c [ra] = false →
        ∃ u, exec (.jr t 0 ra 0 0) s = .next u ∧ Computed s u k (BitVec.ofNat 32 (getR c ra).toNat) [] ∧ (coreOf u k).regs = c.regs ∧
          (coreOf u k).preds = c.preds) ∧
      (csrF s (tileCsr k 0x18) 0 17 % 4 = 0 →
        ∃ u, exec (.reti t 0) s = .next u ∧ Computed s u k (BitVec.ofNat 32 (csrF s (tileCsr k 0x18) 0 17)) [tileCsr k 0] ∧
          (coreOf u k).regs = c.regs ∧ (coreOf u k).preds = c.preds ∧ csrGet u (tileCsr k 0) = csrGet s (tileCsr k 0) ||| 1)

/-- R266, R267, R280. An instruction with a reserved field fails its task with cause 0x01, and a control transfer to an offset that is not a multiple of 4
or lies outside the instruction store fails it with cause 0x06; the instruction does not retire. An uncorrectable error of the instruction's word fails
the task with cause 0x06 before the instruction has any effect (R281).
Where the manual leaves it open it follows log entries 7 and 13, the model's choice. -/
def Obligations.IllegalInstructionsAndBadTargetsFailTheTask : Prop :=
  ∀ (s : State) (t : BitVec 8) (p : BitVec 3) (neg al tryBit : Bool) (off : BitVec 21) (rd ra rb : BitVec 5) (fn : BitVec 11) (imm : BitVec 16)
    (o : BitVec 13) (rsv : BitVec 26) (num : BitVec 12) (eng : BitVec 3) (r14 : BitVec 14),
    let k := t.toNat
    let c := coreOf s k
    let x : Int := c.pc.toNat + 4 * off.toInt
    let fails (i : Instr) (cause : Nat) : Prop := Fails i s k cause
    Inv s →
      (coreReady s k = true → (∃ j, fetchHit s k = some j ∧ j.kind ≠ 0x10) →
        fails (.alu t rd ra rb fn) 6 ∧ fails (.ld t rd ra 0 o) 6 ∧ fails (.br t p neg al off) 6 ∧ fails (.signal t ra rb num) 6 ∧ fails (.end_ t rsv) 6) ∧
      (coreGo s k = true →
      (fn ∉ ([0, 1, 2, 3, 4, 5, 6, 7, 8, 0x10, 0x11, 0x12, 0x13, 0x14, 0x15, 0x18, 0x19, 0x1A, 0x1B, 0x20, 0x21, 0x22] : List (BitVec 11)) →
        fails (.alu t rd ra rb fn) 1) ∧
      (9 < fn.toNat → fails (.f32 t rd ra rb fn) 1 ∧ fails (.f64 t rd ra rb fn) 1) ∧
      (7 < fn.toNat ∨ rb ≠ 0 → fails (.cvt t rd ra rb fn) 1) ∧
      (7 < rd.toNat ∨ fn ∉ ([0, 1, 2, 3, 4, 5, 8, 9, 10, 12, 13, 14] : List (BitVec 11)) → fails (.cmp t rd ra rb fn) 1) ∧
      (7 < rd.toNat ∨ 7 < ra.toNat ∨ 7 < rb.toNat ∨ 5 < fn.toNat → fails (.pred t rd ra rb fn) 1) ∧
      (16 ≤ fn.toNat → fails (.csel t rd ra rb fn) 1) ∧
      (0xC0 ≤ imm.toNat → fails (.shi t rd ra imm) 1) ∧
      (8 ≤ ra.toNat → fails (.movw t rd ra imm) 1) ∧
      (fails (.ld t rd ra 7 o) 1 ∧ fails (.st t rd ra 7 o) 1) ∧
      (ra ≠ 0 ∨ imm.toNat / 2 ^ 13 % 4 ≠ 0 → fails (.csrr t rd ra imm) 1 ∧ fails (.csrw t rd ra imm) 1) ∧
      (rsv ≠ 0 → fails (.fence t rsv) 1 ∧ fails (.reti t rsv) 1 ∧ fails (.yield_ t rsv) 1 ∧ fails (.end_ t rsv) 1) ∧
      (rd ≠ 0 ∨ rb ≠ 0 ∨ fn ≠ 0 → fails (.jr t rd ra rb fn) 1) ∧
      (256 ≤ num.toNat → fails (.signal t ra rb num) 1 ∧ fails (.wait t ra rb num) 1 ∧ fails (.take t ra rb num) 1 ∧ fails (.signalAt t ra rb num) 1) ∧
      (64 ≤ num.toNat → fails (.tallyAdd t ra rb num) 1 ∧ fails (.tallyAddAt t ra rb num) 1) ∧
      (128 ≤ num.toNat → fails (.tallyWait t ra rb num) 1) ∧
      (ra ≠ 0 ∨ rb ≠ 0 ∨ num.toNat % 32 = 0 ∨ num.toNat / 32 % 64 ≠ 0 → fails (.barrierArrive t ra rb num) 1) ∧
      (5 ≤ eng.toNat ∨ r14 ≠ 0 ∨ (tryBit = false ∧ p ≠ 0) → fails (.issue t eng tryBit p ra r14) 1) ∧
      ((al || (getP c p.toNat != neg)) = true → ¬(0 ≤ x ∧ x < 131072 ∧ x % 4 = 0) →
        fails (.br t p neg al off) 6 ∧ (regBusy c [31] = false → fails (.call t p neg al off) 6)) ∧
      (131072 ≤ (getR c ra).toNat ∨ (getR c ra).toNat % 4 ≠ 0 → regBusy c [ra] = false → fails (.jr t 0 ra 0 0) 6) ∧
      (csrF s (tileCsr k 0x18) 0 17 % 4 ≠ 0 → fails (.reti t 0) 6))

/-- R272, R274, Table 9-6. LD and ST wait while eight loads or sixteen stores are outstanding; otherwise the access joins the outstanding ones, as a
request where the home is a peer, or the task fails: cause 3 on a carry out of the offset part, 2 on misalignment, the cause of the check where the
address is refused, 8 where no path to the peer exists.
Where the manual leaves it open it follows log entries 11 and 13, the model's choice. -/
def Obligations.LoadsAndStoresEnterTheOutstandingAccesses : Prop :=
  ∀ (s : State) (t : BitVec 8) (rd ra : BitVec 5) (sz : BitVec 3) (off : BitVec 13) (store : Bool),
    let k := t.toNat
    let c := coreOf s k
    let n := szBytes sz
    let i : Instr := if store then .st t rd ra sz off else .ld t rd ra sz off
    Inv s → coreGo s k = true → regBusy c [rd, ra] = false → sz ≠ 7 →
      (((if store then 16 else 8) ≤ c.accs.countP (fun a => a.store == store)) → Waits i s) ∧
      (c.accs.countP (fun a => a.store == store) < (if store then 16 else 8) →
        (effAddr (getR c ra) off = none → Fails i s k 3) ∧
        (∀ l, effAddr (getR c ra) off = some l →
          (l.toNat % n ≠ 0 → Fails i s k 2) ∧
          (l.toNat % n = 0 →
            (∀ e, locTgt s l n store = .error e → Fails i s k (accCause e)) ∧
            (∀ g, locTgt s l n store = .ok g → (∀ d a, g ≠ .peer d a) →
              Gives i s (fun u => Retires s u k (nextPc s k) [] ∧ coreOf u k = { c with
                pc := nextPc s k
                accs := c.accs ++ [{ slot := freeAcc c, store := store, rd := rd.toNat, dev := none, addr := tgtAddr s g, loc := l, size := n,
                                     signed := !store && szSigned sz, value := if store then getR c rd else 0, pc := c.pc.toNat,
                                     tag := (c.task.map (·.id)).getD 0 }] })) ∧
            (∀ d a, locTgt s l n store = .ok (.peer d a) →
              Gives i s (fun u => TaskFailed s u k 8 ∨
                (((coreOf u k).accs.map (fun x => (x.store, x.rd, x.dev, x.addr, x.size))) =
                    c.accs.map (fun x => (x.store, x.rd, x.dev, x.addr, x.size)) ++ [(store, rd.toNat, some d, a, n)] ∧
                  (coreOf u k).regs = c.regs ∧ (coreOf u k).pc = nextPc s k ∧ SameMem s u ∧
                  (u.reqs.map (fun r => (r.tag, r.dst, r.kind, r.addr, r.len))) =
                    s.reqs.map (fun r => (r.tag, r.dst, r.kind, r.addr, r.len)) ++ [(s.nextTag, d, if store then kWRITE else kREAD, a, n)]))))))

/-- R272, R274, R307. When the first outstanding local access to its bytes is performed, a store's low bytes are in the scratchpad and nothing else of
memory has changed, and a load's register holds the bytes, zero-extended or sign-extended; a load of poisoned data fails the task with cause 5.
Where the manual leaves it open it follows log entries 3 and 11, the model's choice. -/
def Obligations.OutstandingAccessesArePerformed : Prop :=
  ∀ (s : State) (t : BitVec 8) (idx : BitVec 5) (ecc : Ecc) (a : CoreAcc) (g : Tgt),
    let k := t.toNat
    let c := coreOf s k
    let i : Instr := .coreAccessComplete t idx ecc
    let s1 := match g with
      | .dram r o => flushOverlap s (k / 16) (rgnBase s r + o) a.size
      | _ => s
    let v := memNat s1 (tgtAddr s g) a.size
    Inv s → c.accs.find? (fun x => x.slot == idx.toNat && x.dev.isNone) = some a →
      (c.accs.takeWhile (fun x => x.slot != idx.toNat)).any (accOverlap a) = false → locTgt s a.loc a.size a.store = .ok g →
      Gives i s (fun u => ((coreOf u k).accs = c.accs.filter (fun x => x.slot != a.slot) ∨ a.store = false ∧ (coreOf u k).task = none) ∧
        (coreOf u k).preds = c.preds ∧ (coreOf u k).pc = c.pc ∧ SameTilesBut s u k) ∧
      (a.store = true → ∀ x, g = .spad x →
        Gives i s (fun u => (∀ j, j < a.size → memByte u (x + j) = a.value.extractLsb' (8 * j) 8) ∧ SameMemBut s u x a.size ∧ u.csr = s.csr ∧
          (coreOf u k).regs = c.regs)) ∧
      (a.store = false → ecc = .clean → s.ledger.inj = [] → (∀ x, g ≠ .hole x) → (∀ d x, g ≠ .peer d x) → psnIn s1 (tgtAddr s g) a.size = false →
        Gives i s (fun u => SameMem s1 u ∧ (∀ r, getR (coreOf u k) r = if r = BitVec.ofNat 5 a.rd ∧ r ≠ 0 then
          (if a.signed then BitVec.ofInt 64 (toSigned (8 * a.size) v) else BitVec.ofNat 64 (v % 2 ^ (8 * a.size))) else getR c r))) ∧
      (a.store = false → ecc = .clean → s.ledger.inj = [] → (∀ x, g ≠ .hole x) → (∀ d x, g ≠ .peer d x) → psnIn s1 (tgtAddr s g) a.size = true →
        Gives i s (fun u => (coreOf u k).task = none ∧ (coreOf u k).regs = c.regs))

/-- R273, R28, R11, Table 9-8 to 9-11. CSRR reads the register as it stands; an offset without a register reads as zero and is noted, and a write to it is
discarded and noted. CSRW writes the fields that are writable, clears a write-1-to-clear bit where it writes 1, and leaves a reserved value out with a NOTE.
Where the manual leaves it open it follows log entries 4, 5 and 6, the model's choice. -/
def Obligations.ControlRegistersAreReadAndWritten : Prop :=
  ∀ (s : State) (t : BitVec 8) (rd : BitVec 5) (cluster : Bool) (w : BitVec 13),
    let k := t.toNat
    let imm : BitVec 16 := w.zeroExtend 16 ||| (if cluster then 0x8000 else 0)
    let a := if cluster then clusterCsr (k / 16) (8 * w.toNat) else tileCsr k (8 * w.toNat)
    let v := getR (coreOf s k) rd
    Inv s → coreGo s k = true → regBusy (coreOf s k) [rd] = false →
      ((regAt a).isSome = true → WritesRd (.csrr t rd 0 imm) s k rd (regRead s k a)) ∧
      ((regAt a).isSome = false →
        Gives (.csrr t rd 0 imm) s (fun u => RegsBut s u k rd 0 ∧ (coreOf u k).pc = nextPc s k ∧ (LedgerRoom s → Reported u (csrSource a) 0x02 NOTE)) ∧
        (a ≠ clusterCsr (k / 16) 0x4018 → Gives (.csrw t rd 0 imm) s (fun u => SameCsrBut s u [tileCsr k 0x80, ldgCsr 0x70] ∧ SameMem s u ∧
          (coreOf u k).regs = (coreOf s k).regs ∧ (coreOf u k).pc = nextPc s k ∧ (LedgerRoom s → Reported u (csrSource a) 0x02 NOTE)))) ∧
      (cluster = false →
        (w = 2 ∨ w = 3 → v.toNat % 4 = 0 → Gives (.csrw t rd 0 imm) s (fun u => Computed s u k (nextPc s k) [a] ∧ (coreOf u k).regs = (coreOf s k).regs ∧
          (coreOf u k).preds = (coreOf s k).preds ∧ csrF u a 0 17 = v.toNat % 2 ^ 17 ∧ csrF u a 17 47 = csrF s a 17 47)) ∧
        (w = 2 ∨ w = 3 → v.toNat % 4 ≠ 0 → Gives (.csrw t rd 0 imm) s (fun u => SameCsrBut s u [tileCsr k 0x80, ldgCsr 0x70] ∧
          (coreOf u k).pc = nextPc s k ∧ (LedgerRoom s → Reported u k 0x01 NOTE))) ∧
        (w = 5 → Gives (.csrw t rd 0 imm) s (fun u => Computed s u k (nextPc s k) [a] ∧ csrF u a 0 3 = v.toNat % 8 ∧ csrF u a 3 61 = csrF s a 3 61)) ∧
        (w = 6 → Gives (.csrw t rd 0 imm) s (fun u => Computed s u k (nextPc s k) [a] ∧ csrF u a 0 3 = csrF s a 0 3 - (csrF s a 0 3 &&& v.toNat % 8) ∧
          csrF u a 3 61 = csrF s a 3 61)) ∧
        (w = 7 → Gives (.csrw t rd 0 imm) s (fun u => Computed s u k (nextPc s k) [a] ∧
          csrF u a 8 1 = (if v.getLsbD 8 then 0 else csrF s a 8 1) ∧ csrF u a 0 8 = csrF s a 0 8)))

/-- R310, R278, R271. FENCE retires when every earlier load and store of the core is complete and waits otherwise. YIELD retires, and begins the
suspension that a request asks for. END takes the task off the core; loads in flight and a pre-emption request are dropped.
Where the manual leaves it open it follows log entries 11 and 62, the model's choice. -/
def Obligations.FenceYieldAndEnd : Prop :=
  ∀ (s : State) (t : BitVec 8),
    let k := t.toNat
    let c := coreOf s k
    let s1 := releaseFlush s (agentOf k 0)
    Inv s → coreGo s k = true →
      (c.accs = [] → agentPending s1 (agentOf k 0) = false →
        Gives (.fence t 0) s (fun u => Computed s1 u k (nextPc s k) [] ∧ coreOf u k = { c with pc := nextPc s k })) ∧
      (c.accs ≠ [] ∨ agentPending s1 (agentOf k 0) = true → exec (.fence t 0) s = .next s1) ∧
      (c.preempt = none →
        Gives (.yield_ t 0) s (fun u => Computed s u k (nextPc s k) [] ∧ coreOf u k = { c with pc := nextPc s k })) ∧
      (c.preempt ≠ none → (∀ j, (semQueue s k j).all (fun w => w.who != 0) = true) →
        Gives (.yield_ t 0) s (fun u => coreOf u k = { c with pc := nextPc s k, issueWait := false, suspending := some (false, (nextPc s k).toNat) } ∧
          csrGet u (tileCsr k 0x80) = csrGet s (tileCsr k 0x80) + 1)) ∧
      Gives (.end_ t 0) s (fun u => coreOf u k = { c with pc := nextPc s k, task := none, preempt := none, accs := c.accs.filter (fun a => a.store) } ∧
        u.ended.map (fun e => (e.1, e.2.id)) = s.ended.map (fun e => (e.1, e.2.id)) ++ (c.task.map (fun x => (k, x.id))).toList ∧
        SameTilesBut s u k ∧ SameMem s u ∧ SameCsrBut s u [tileCsr k 0x80, tileCsr k 0x30])

/-- R289, R290, Table 10-2. SIGNAL adds its units, then serves the queue strictly from the head, never a waiter whose amount exceeds VALUE; an overflow
adds nothing and is SEM_OVERFLOW. WAIT takes its units when no waiter is queued and VALUE is enough, and queues otherwise. TAKE takes them or is
SEM_UNDERFLOW. An amount of 0 changes nothing. -/
def Obligations.SemaphoresServeTheirQueueInOrder : Prop :=
  ∀ (s : State) (t : BitVec 8) (ra rb : BitVec 5) (n : BitVec 8),
    let k := t.toNat
    let c := coreOf s k
    let s1 := releaseFlush s (agentOf k 0)
    let amt := syncAmount c ra
    let num : BitVec 12 := n.zeroExtend 12
    let j := n.toNat
    let v := semVal s k j
    Inv s → coreGo s k = true → regBusy c [ra] = false →
      (coreReleased s1 k = false → exec (.signal t ra rb num) s = .next s1) ∧
      (coreReleased s1 k = true → amt = 0 → Gives (.signal t ra rb num) s (fun u => Computed s1 u k (nextPc s k) [] ∧ (coreOf u k).regs = c.regs)) ∧
      (coreReleased s1 k = true → 0 < amt → v + amt < 2 ^ 32 →
        Gives (.signal t ra rb num) s (fun u =>
          (∃ m, semQueue u k j = (semQueue s k j).drop m ∧ semVal u k j + (((semQueue s k j).take m).map (fun w => w.amount)).sum = v + amt ∧
            (∀ w, (semQueue u k j).head? = some w → semVal u k j < w.amount)) ∧
          (coreOf u k).regs = c.regs ∧ (coreOf u k).preds = c.preds ∧ SameMem s1 u ∧ SameTilesBut s1 u k ∧
          SameCsrBut s1 u [semAddr k j, tileCsr k 0x80, watchAddr k, tileCsr k 0x30])) ∧
      (coreReleased s1 k = true → 0 < amt → 2 ^ 32 ≤ v + amt →
        Gives (.signal t ra rb num) s (fun u => Misused s1 u k 0 j 2 ∧ semVal u k j = v ∧ semQueue u k j = semQueue s k j ∧ (coreOf u k).pc = nextPc s k)) ∧
      (amt = 0 ∨ (semQueue s k j = [] ∧ amt ≤ v) →
        Gives (.wait t ra rb num) s (fun u => Computed s u k (nextPc s k) [semAddr k j] ∧ coreOf u k = { c with pc := nextPc s k } ∧ semVal u k j = v - amt) ∧
        Gives (.take t ra rb num) s (fun u => Computed s u k (nextPc s k) [semAddr k j] ∧ coreOf u k = { c with pc := nextPc s k } ∧ semVal u k j = v - amt)) ∧
      (0 < amt → semQueue s k j ≠ [] ∨ v < amt →
        Gives (.wait t ra rb num) s (fun u => semQueue u k j = semQueue s k j ++ [⟨0, amt, s.now⟩] ∧
          coreOf u k = { c with blocked := some (.sem j amt) } ∧ u.csr = s.csr ∧ SameMem s u) ∧
        Gives (.take t ra rb num) s (fun u => Misused s u k 0 j 1 ∧ coreOf u k = { c with pc := nextPc s k } ∧ semVal u k j = v ∧
          semQueue u k j = semQueue s k j))

/-- R292, R293. TALLY_ADD adds modulo 2^32 and releases every queued waiter whose target is reached, or, past MARK + DEPTH, adds nothing and is TALLY_DRIFT.
TALLY_WAIT continues at a target reached, moving MARK forward to it; queues ahead of it; and is TALLY_DRIFT elsewhere.
Where the manual leaves it open it follows log entries 8 and 12, the model's choice. -/
def Obligations.TallyCountersStayWithinDepth : Prop :=
  ∀ (s : State) (t : BitVec 8) (ra rb : BitVec 5) (n : BitVec 7),
    let k := t.toNat
    let c := coreOf s k
    let s1 := releaseFlush s (agentOf k 0)
    let amt := syncAmount c ra
    let num : BitVec 12 := n.zeroExtend 12
    let j := n.toNat
    let v := tallyVal s k j
    let mark := csrF s (tallyAddr k j) 32 32
    let depth := tallyDepth s k j
    let gap (x y : Nat) : Nat := (x + 2 ^ 32 - y % 2 ^ 32) % 2 ^ 32
    Inv s → coreGo s k = true → regBusy c [ra] = false →
      (j < 64 → coreReleased s1 k = true → 0 < amt → gap (v + amt) mark ≤ depth →
        Gives (.tallyAdd t ra rb num) s (fun u => tallyVal u k j = (v + amt) % 2 ^ 32 ∧
          tallyQueue u k j = (tallyQueue s k j).filter (fun w => decide (depth < gap ((v + amt) % 2 ^ 32) w.target)) ∧
          (coreOf u k).regs = c.regs ∧ (coreOf u k).preds = c.preds ∧ SameMem s1 u ∧ SameTilesBut s1 u k)) ∧
      (j < 64 → coreReleased s1 k = true → 0 < amt → depth < gap (v + amt) mark →
        Gives (.tallyAdd t ra rb num) s (fun u => Misused s1 u k 1 j 3 ∧ csrGet u (tallyAddr k j) = csrGet s (tallyAddr k j) ∧
          (coreOf u k).pc = nextPc s k)) ∧
      (j < 64 → coreReleased s1 k = true → amt = 0 → Gives (.tallyAdd t ra rb num) s (fun u => Computed s1 u k (nextPc s k) [])) ∧
      (j < 64 → coreReleased s1 k = false → exec (.tallyAdd t ra rb num) s = .next s1) ∧
      (gap v amt ≤ depth →
        Gives (.tallyWait t ra rb num) s (fun u => Computed s u k (nextPc s k) [tallyAddr k j] ∧ coreOf u k = { c with pc := nextPc s k } ∧
          tallyVal u k j = v ∧ csrF u (tallyAddr k j) 32 32 = if j < 64 ∧ 1 ≤ gap amt mark ∧ gap amt mark ≤ depth then amt else mark)) ∧
      (depth < gap v amt → 2 ^ 32 - depth ≤ gap v amt →
        Gives (.tallyWait t ra rb num) s (fun u => tallyQueue u k j = tallyQueue s k j ++ [⟨amt, s.now⟩] ∧
          coreOf u k = { c with blocked := some (.tally j amt) } ∧ u.csr = s.csr ∧ SameMem s u)) ∧
      (depth < gap v amt → gap v amt < 2 ^ 32 - depth →
        Gives (.tallyWait t ra rb num) s (fun u => Misused s u k 1 j 3 ∧ coreOf u k = { c with pc := nextPc s k } ∧
          csrGet u (tallyAddr k j) = csrGet s (tallyAddr k j)))

/-- R275, R308, R34. SIGNAL_AT and TALLY_ADD_AT act at once on a tile of this module and go to a peer as a request; a target register with bits outside
[18:0] fails the task with cause 3, a device outside the shape with cause 8.
Where the manual leaves it open it follows log entry 31, the model's choice. -/
def Obligations.RemoteSignalsReachTheirTile : Prop :=
  ∀ (s : State) (t d : BitVec 8) (ra rb : BitVec 5) (n : BitVec 8) (m : BitVec 6),
    let k := t.toNat
    let c := coreOf s k
    let s1 := releaseFlush s (agentOf k 0)
    let amt := syncAmount c ra
    let x := (getR c rb).toNat
    let sig : Instr := .signalAt t ra rb (n.zeroExtend 12)
    let tal : Instr := .tallyAddAt t ra rb (m.zeroExtend 12)
    Inv s → coreGo s k = true → regBusy c [ra, rb] = false →
      (2 ^ 19 ≤ x → Fails sig s k 3 ∧ Fails tal s k 3) ∧
      (x < 2 ^ 19 → x % 2 ^ 11 ≠ ownId s → x % 2 ^ 11 ∉ s.shape → Fails sig s k 8 ∧ Fails tal s k 8) ∧
      (x = ownId s + d.toNat * 2 ^ 11 → coreReleased s1 k = true → d ≠ t → 0 < amt →
        (semVal s d.toNat n.toNat + amt < 2 ^ 32 → semQueue s d.toNat n.toNat = [] →
          Gives sig s (fun u => semVal u d.toNat n.toNat = semVal s d.toNat n.toNat + amt ∧ coreOf u k = { c with pc := nextPc s k } ∧ SameMem s1 u)) ∧
        (2 ^ 32 ≤ semVal s d.toNat n.toNat + amt →
          Gives sig s (fun u => Misused s1 u d.toNat 0 n.toNat 2 ∧ coreOf u k = { c with pc := nextPc s k })) ∧
        (tallyGap (tallyVal s d.toNat m.toNat + amt) (csrF s (tallyAddr d.toNat m.toNat) 32 32) ≤ tallyDepth s d.toNat m.toNat →
          Gives tal s (fun u => tallyVal u d.toNat m.toNat = (tallyVal s d.toNat m.toNat + amt) % 2 ^ 32 ∧ coreOf u k = { c with pc := nextPc s k } ∧
            SameMem s1 u)) ∧
        (tallyDepth s d.toNat m.toNat < tallyGap (tallyVal s d.toNat m.toNat + amt) (csrF s (tallyAddr d.toNat m.toNat) 32 32) →
          Gives tal s (fun u => Misused s1 u d.toNat 1 m.toNat 3 ∧ coreOf u k = { c with pc := nextPc s k }))) ∧
      (x < 2 ^ 19 → x % 2 ^ 11 ≠ ownId s → peerUsable s (x % 2 ^ 11) = true → coreReleased s1 k = true → (route s1 (servedDev s (x % 2 ^ 11))).isSome = true →
        Gives sig s (fun u => coreOf u k = { c with pc := nextPc s k } ∧ ∃ r ∈ u.reqs, r.tag = s1.nextTag ∧ r.dst = x % 2 ^ 11 ∧ r.kind = kSIGNAL ∧
          r.data = syncData (x / 2 ^ 11) n.toNat amt) ∧
        Gives tal s (fun u => coreOf u k = { c with pc := nextPc s k } ∧ ∃ r ∈ u.reqs, r.tag = s1.nextTag ∧ r.dst = x % 2 ^ 11 ∧ r.kind = kTALLY ∧
          r.data = syncData (x / 2 ^ 11) m.toNat amt)) ∧
      (x < 2 ^ 19 → x % 2 ^ 11 = ownId s ∨ peerUsable s (x % 2 ^ 11) = true → coreReleased s1 k = false →
        exec sig s = .next s1 ∧ exec tal s = .next s1)

/-- R294, R295, R297, Table 10-3. BARRIER_ARRIVE retires at once. At its home an arrival is counted in CUR, opens a complete generation that no release
blocks, is held in NEXT while one does, and is BARRIER_OVERRUN beyond it or where EXPECT is 0.
Where the manual leaves it open it follows log entry 14, the model's choice. -/
def Obligations.BarriersCountTheirArrivals : Prop :=
  ∀ (s : State) (t : BitVec 8) (b : BitVec 5),
    let k := t.toNat
    let x := b.toNat
    let c := coreOf s k
    let s1 := releaseFlush s (agentOf k 0)
    let die : Instr := .barrierArrive t 0 0 (b.zeroExtend 12)
    let fab : Instr := .barrierArrive t 0 0 (b.zeroExtend 12 ||| 0x800)
    let arr : Instr := .dieBarrierArrival b t
    let e := csrF s (dieCfg x) 0 16
    let cur := csrF s (dieState x) 0 16
    let next := csrF s (dieState x) 16 16
    let gen := csrF s (dieState x) 32 31
    let fl := csrF s (dieState x) 63 1
    let fe := csrF s (fabCfg x) 0 16
    let fcur := csrF s (fabState x) 0 16
    let nb := fabBar s x
    Inv s →
      (coreGo s k = true → x ≠ 0 → coreReleased s1 k = false → exec die s = .next s1 ∧ exec fab s = .next s1) ∧
      (coreGo s k = true → x ≠ 0 → coreReleased s1 k = true →
        Gives die s (fun u => coreOf u k = { c with pc := nextPc s k } ∧ u.barArr = s.barArr ++ [(x, k)] ∧ SameMem s1 u ∧
          SameCsrBut s1 u [tileCsr k 0x80]) ∧
        (fe = 0 ∨ (fe ≤ fcur ∧ fe ≤ nb.next) →
          Gives fab s (fun u => Misused s1 u k 3 x 4 ∧ fabBar u x = nb ∧ coreOf u k = { c with pc := nextPc s k })) ∧
        (fcur + 1 < fe →
          Gives fab s (fun u => csrF u (fabState x) 0 16 = fcur + 1 ∧ fabBar u x = nb ∧ coreOf u k = { c with pc := nextPc s k })) ∧
        (fcur + 1 = fe → nb.counted.length + 1 < s.shape.length →
          Gives fab s (fun u => csrF u (fabState x) 0 16 = fe ∧ csrF u (fabState x) 40 1 = 1 ∧ (fabBar u x).counted = nb.counted ++ [ownId s] ∧
            coreOf u k = { c with pc := nextPc s k })) ∧
        (0 < fe → fe ≤ fcur → nb.next < fe →
          Gives fab s (fun u => (fabBar u x).next = nb.next + 1 ∧ csrF u (fabState x) 0 16 = fcur ∧ coreOf u k = { c with pc := nextPc s k }))) ∧
      ((x, k) ∈ s.barArr →
        Gives arr s (fun u => u.barArr = s.barArr.erase (x, k) ∧ SameMem s u ∧ u.tiles = s.tiles) ∧
        (e = 0 ∨ (e ≤ cur ∧ e ≤ next) → Gives arr s (fun u => Misused s u k 2 x 4 ∧ csrGet u (dieState x) = csrGet s (dieState x))) ∧
        (cur + 1 < e ∨ (cur + 1 = e ∧ fl = 1) →
          Gives arr s (fun u => csrF u (dieState x) 0 16 = cur + 1 ∧ csrF u (dieState x) 16 16 = next ∧ csrF u (dieState x) 32 31 = gen)) ∧
        (cur + 1 = e → fl = 0 →
          Gives arr s (fun u => csrF u (dieState x) 32 31 = (gen + 1) % 2 ^ 31 ∧ csrF u (dieState x) 0 16 = next ∧ csrF u (dieState x) 16 16 = 0 ∧
            relTiles u x = planTiles s (x / 2))) ∧
        (0 < e → e ≤ cur → next < e →
          Gives arr s (fun u => csrF u (dieState x) 0 16 = cur ∧ csrF u (dieState x) 16 16 = next + 1 ∧ csrF u (dieState x) 32 31 = gen)))

/-- R295, R297, R303, R314, R501. A release that reaches a tile advances its view by one and releases the waiters whose target is reached; with the last tile
the release is complete. A fabric release that waits for the group offset goes to the tiles once the offset has passed. A wait that has been queued for SYNC_LIMIT
stays queued, is recorded as SYNC_STALL and is reported; a wait on a fabric barrier view is never timed. An error on a notification's write disables its slot and
is reported.
Where the manual leaves it open it follows log entry 14, the model's choice. -/
def Obligations.ReleasesAdvanceViewsAndStallsAreReported : Prop :=
  ∀ (s : State) (t : BitVec 8) (b : BitVec 6) (x who : BitVec 5) (j3 : BitVec 3) (m since due time : Nat),
    let k := t.toNat
    let j := b.toNat
    let limit := polVal s 0x10 * 1000000
    let n := 64 + j
    let v := (tallyVal s k n + 1) % 2 ^ 32
    Inv s →
      (k ∈ relTiles s j →
        Gives (.barrierRelease t b) s (fun u => tallyVal u k n = v ∧
          tallyQueue u k n = (tallyQueue s k n).filter (fun w => decide (tallyDepth s k n < tallyGap v w.target)) ∧
          ((relTiles s j).erase k ≠ [] → relTiles u j = (relTiles s j).erase k) ∧
          (coreOf u k).regs = (coreOf s k).regs ∧ SameTilesBut s u k ∧ SameMem s u) ∧
        (relTiles s j = [k] → j < 32 → csrF s (dieCfg j) 0 16 ≠ csrF s (dieState j) 0 16 →
          Gives (.barrierRelease t b) s (fun u => relTiles u j = [] ∧ csrF u (dieState j) 63 1 = 0 ∧
            csrF u (dieState j) 32 31 = csrF s (dieState j) 32 31))) ∧
      (s.groupWait.find? (fun g => g.1 == x.toNat) = some (x.toNat, due) → due ≤ time → s.now ≤ time →
        Gives (.groupStagger x time) s (fun u => u.now = time) ∧
        (x ≠ 0 → fabTiles s ≠ [] →
          Gives (.groupStagger x time) s (fun u => relTiles u (32 + x.toNat) = fabTiles s ∧ csrF u (fabState x.toNat) 41 1 = 1 ∧
            u.groupWait = s.groupWait.erase (x.toNat, due) ∧ SameMem s u))) ∧
      (semWaitOf s k who.toNat = some (m, since) → s.now ≤ time → since + limit ≤ time →
        Gives (.syncStall t who time) s (fun u => u.now = time ∧ Misused s u k 0 m 5 ∧ semVal u k m = semVal s k m ∧
          (semQueue u k m).map (fun w => (w.who, w.amount)) = (semQueue s k m).map (fun w => (w.who, w.amount)))) ∧
      (semWaitOf s k 0 = none → tallyWaitOf s k = some (m, since) → m < 96 → s.now ≤ time → since + limit ≤ time →
        Gives (.syncStall t 0 time) s (fun u => u.now = time ∧ Misused s u k 1 m 5 ∧ csrGet u (tallyAddr k m) = csrGet s (tallyAddr k m) ∧
          (tallyQueue u k m).map (fun w => w.target) = (tallyQueue s k m).map (fun w => w.target))) ∧
      (semWaitOf s k 0 = none → tallyWaitOf s k = some (m, since) → 96 ≤ m → ∃ why, exec (.syncStall t 0 time) s = .refused (.notPresent why)) ∧
      (csrF s (tileCsr k (0x8100 + 0x10 * j3.toNat)) 0 1 = 1 →
        Gives (.notifyWriteError t j3) s (fun u => csrF u (tileCsr k (0x8100 + 0x10 * j3.toNat)) 0 1 = 0 ∧
          (LedgerRoom s → Reported u (0x700 + k) 0x25 CONTAIN) ∧ u.tiles = s.tiles ∧ SameMem s u))

/-- R270, R12, R13. ISSUE copies the 64 bytes at its locator to the tail of the engine's queue, with the issuing task's tag; with the queue full it waits,
or, with TRY, clears its predicate. A misaligned locator, a null or KIND 3 one, and one that the access check refuses fail the task.
Where the manual leaves it open it follows log entry 13, the model's choice. -/
def Obligations.IssueEnqueuesADescriptor : Prop :=
  ∀ (s : State) (t : BitVec 8) (eng : BitVec 3) (tryBit : Bool) (p : BitVec 3) (ra : BitVec 5) (g : Tgt),
    let k := t.toNat
    let c := coreOf s k
    let e := eng.toNat
    let pd : BitVec 3 := if tryBit then p else 0
    let i : Instr := .issue t eng tryBit pd ra 0
    let s1 := releaseFlush s (agentOf k 0)
    let l := getR c ra
    let r := agentReadEcc s1 k g 64 .clean
    let d := bytesDesc r.1
    let q := engQueue s k e
    Inv s → coreGo s k = true → regBusy c [ra] = false → e < 5 →
      (coreReleased s1 k = false → exec i s = .next s1) ∧
      (coreReleased s1 k = true →
        (locKind l = 0 ∨ locKind l = 3 → Gives i s (fun u => TaskFailed s1 u k 3)) ∧
        (locKind l = 1 ∨ locKind l = 2 → locOff l % 64 ≠ 0 → Gives i s (fun u => TaskFailed s1 u k 2)) ∧
        (locKind l = 1 ∨ locKind l = 2 → locOff l % 64 = 0 →
          (∀ x, locTgt s1 l 64 false = .error x → Gives i s (fun u => TaskFailed s1 u k (accCause x))) ∧
          (locTgt s1 l 64 false = .ok g → (∀ a, g ≠ .hole a) →
            (r.2.1 = true → Gives i s (fun u => (coreOf u k).task = none ∧ (coreOf u k).regs = c.regs)) ∧
            (r.2.1 = false → (e = 3 → regBusy c (capRegs d) = false) → q.length < queueDepth e →
              Gives i s (fun u => (engQueue u k e).map (fun x => (x.desc, x.tag)) = q.map (fun x => (x.desc, x.tag)) ++ [(d, (c.task.map (·.id)).getD 0)] ∧
                (∀ y, y < 5 → y ≠ e → engQueue u k y = engQueue s k y) ∧ (coreOf u k).regs = c.regs ∧ (coreOf u k).pc = nextPc s k ∧
                (coreOf u k).preds = (if tryBit then (setP c pd.toNat true).preds else c.preds) ∧ SameMem r.2.2 u)) ∧
            (r.2.1 = false → (e = 3 → regBusy c (capRegs d) = false) → queueDepth e ≤ q.length → tryBit = true →
              Gives i s (fun u => engQueue u k e = q ∧ coreOf u k = { setP c pd.toNat false with pc := nextPc s k })) ∧
            (r.2.1 = false → (e = 3 → regBusy c (capRegs d) = false) → queueDepth e ≤ q.length → tryBit = false →
              Gives i s (fun u => engQueue u k e = q ∧ coreOf u k = { c with issueWait := true })))))

/-- R277, R276. Between instructions the core takes the lowest interrupt pending and enabled while IE is set: TCR_EPC holds the offset of the next
instruction, TCR_CAUSE the bit, IE is clear and the core continues at TCR_VEC. A wait that it interrupts has taken nothing.
Where the manual leaves it open it follows log entries 8 and 12, the model's choice. -/
def Obligations.InterruptsSaveAndVector : Prop :=
  ∀ (s : State) (t : BitVec 8) (b : Nat),
    let k := t.toNat
    let c := coreOf s k
    let due (n : Nat) : Prop := csrF s (tileCsr k 0x30) n 1 = 1 ∧ csrF s (tileCsr k 0x28) n 1 = 1
    Inv s → c.task ≠ none → c.suspending = none → csrF s (tileCsr k 0) 0 1 = 1 → b < 3 → due b → (∀ n, n < b → ¬ due n) →
      (c.blocked = none →
        Gives (.interruptTake t) s (fun u => csrGet u (tileCsr k 0x18) = BitVec.ofNat 64 (c.pc.toNat % 2 ^ 17) ∧
          csrGet u (tileCsr k 0x20) = BitVec.ofNat 64 b ∧ csrF u (tileCsr k 0) 0 1 = 0 ∧
          coreOf u k = { c with pc := BitVec.ofNat 32 (csrF s (tileCsr k 0x10) 0 17), issueWait := false } ∧
          SameCsrBut s u [tileCsr k 0x18, tileCsr k 0x20, tileCsr k 0] ∧ SameTilesBut s u k ∧ SameMem s u)) ∧
      (∀ m n since, c.blocked = some (.sem m n) → semQueue s k m = [⟨0, n, since⟩] →
        Gives (.interruptTake t) s (fun u => semQueue u k m = [] ∧ semVal u k m = semVal s k m ∧ (coreOf u k).blocked = none ∧
          csrGet u (tileCsr k 0x18) = BitVec.ofNat 64 (c.pc.toNat % 2 ^ 17) ∧
          (coreOf u k).pc = BitVec.ofNat 32 (csrF s (tileCsr k 0x10) 0 17) ∧ (coreOf u k).regs = c.regs ∧ SameMem s u)) ∧
      (∀ m n, c.blocked = some (.tally m n) →
        Gives (.interruptTake t) s (fun u => tallyQueue u k m = [] ∧ csrGet u (tallyAddr k m) = csrGet s (tallyAddr k m) ∧ (coreOf u k).blocked = none ∧
          csrGet u (tileCsr k 0x18) = BitVec.ofNat 64 (c.pc.toNat % 2 ^ 17) ∧
          (coreOf u k).pc = BitVec.ofNat 32 (csrF s (tileCsr k 0x10) 0 17) ∧ (coreOf u k).regs = c.regs ∧ SameMem s u))

/-- R274, R276. An instruction that reads or writes the destination register of an outstanding load, and any instruction while the core waits, changes
nothing; a core without a task, and one whose interrupt is due, has no instruction to run.
Where the manual leaves it open it follows log entry 8, the model's choice. -/
def Obligations.InstructionsWaitForOutstandingLoads : Prop :=
  ∀ (s : State) (t : BitVec 8) (rd ra rb : BitVec 5) (imm : BitVec 16) (fn : BitVec 11) (off : BitVec 13),
    let k := t.toNat
    let c := coreOf s k
    (coreGo s k = true → regBusy c [rd, ra] = true →
      Waits (.addi t rd ra imm) s ∧ Waits (.andi t rd ra imm) s ∧ Waits (.ori t rd ra imm) s ∧ Waits (.xori t rd ra imm) s ∧
      Waits (.shi t rd ra (imm &&& 0x3F)) s ∧ (regBusy c [rd] = true → Waits (.movw t rd 0 imm) s) ∧
      Waits (.alu t rd ra rb 0) s ∧ Waits (.f32 t rd ra rb 0) s ∧ Waits (.f64 t rd ra rb 0) s ∧ Waits (.csel t rd ra rb 0) s ∧ Waits (.cvt t rd ra 0 0) s ∧
      Waits (.ld t rd ra 3 off) s ∧ Waits (.st t rd ra 3 off) s) ∧
    (c.task = none ∨ c.blocked ≠ none ∨ c.suspending ≠ none ∨ irqDue s k ≠ none →
      ∀ i ∈ ([.alu t rd ra rb fn, .addi t rd ra imm, .cmp t rd ra rb fn, .ld t rd ra 3 off, .st t rd ra 3 off, .csrr t rd ra imm, .csrw t rd ra imm,
          .jr t rd ra rb fn, .fence t 0, .yield_ t 0, .end_ t 0, .signal t ra rb 0, .wait t ra rb 0, .take t ra rb 0, .tallyAdd t ra rb 0,
          .tallyWait t ra rb 0] : List Instr), ∃ why, exec i s = .refused (.notPresent why))

/-! ### Work queues and dispatch (chapter 13) -/

/-- R265, R359, R362, R363. A task starts with its ENTRY as program counter, ARGS in s1, SAVE in s2 and every other register and predicate zero, and
its record has left the queue; a refused record, or one pinned to an isolated tile, fails before it starts. A task completes when its descriptors have.
Where the manual leaves it open it follows log entry 25, the model's choice. -/
def Obligations.TasksStartAndComplete : Prop :=
  ∀ (s : State) (t : BitVec 8) (n id : Nat) (e : Nat × Task),
    let k := t.toNat
    let c := k / 16
    let d := wqFront s c n
    let head := csrF s (clusterCsr c (0x2010 + 0x20 * n)) 0 32
    let err := csrGet s (tileCsr k 0x38)
    Inv s → n < 256 →
      (s.boot = 0 → (dispOf s c).staggerUntil = none → k ∉ s.ledger.isoTiles → tileIdle s k = true → lowestStart s k = true → pickFor s k = .fresh n →
        (recOk d = true →
          Gives (.taskStart t) s (fun u =>
            (coreOf u k).task.map (fun x => (x.rcd, x.id, x.level, x.wq)) = some (taskRec d, s.taskCtr, wqLevel s c n, n) ∧
            (coreOf u k).pc = BitVec.ofNat 32 (getF d 0 17) ∧ (coreOf u k).preds = 0 ∧ (coreOf u k).blocked = none ∧ (coreOf u k).preempt = none ∧
            (∀ r, getR (coreOf u k) r = if r = 1 then BitVec.ofNat 64 (getF d 64 64) else if r = 2 then BitVec.ofNat 64 (getF d 128 64) else 0) ∧
            csrF u (clusterCsr c (0x2010 + 0x20 * n)) 0 32 = (head + 1) % 2 ^ 32 ∧ csrF u (tileCsr k 0x30) 0 1 = 0 ∧ SameTilesBut s u k)) ∧
        (recOk d = false →
          Gives (.taskStart t) s (fun u => u.tiles = s.tiles ∧ csrF u (clusterCsr c (0x2010 + 0x20 * n)) 0 32 = (head + 1) % 2 ^ 32 ∧
            csrGet u (tileCsr k 0x38) = if getF err 8 1 = 1 then err else 0x101))) ∧
      (s.boot = 0 → (dispOf s c).staggerUntil = none → pinnedToIsolated s k = some n →
        Gives (.taskStart t) s (fun u => u.tiles = s.tiles ∧ csrF u (clusterCsr c (0x2010 + 0x20 * n)) 0 32 = (head + 1) % 2 ^ 32 ∧
          csrGet u (tileCsr k 0x38) = if getF err 8 1 = 1 then err else 0x109)) ∧
      (s.ended.find? (fun x => x.1 == k && x.2.id == id) = some e → tagBusy s k id = false →
        Gives (.taskComplete t id) s (fun u => u.ended = s.ended.erase e ∧ u.tiles = s.tiles ∧ u.suspended = s.suspended))

/-- R360, R365. TAIL moves to the value written unless it would overrun the ring, which is reported and leaves TAIL. An idle tile that finds nothing takes
the front record of the first victim in rotation, and the steal is counted.
Where the manual leaves it open it follows log entry 25, the model's choice. -/
def Obligations.QueuesAdvanceAndTasksAreStolen : Prop :=
  ∀ (s : State) (t q : BitVec 8) (tail : BitVec 32) (b : BitVec 4) (x v n : Nat),
    let k := t.toNat
    let c := k / 16
    let y := b.toNat
    let ptr := clusterCsr c (0x2010 + 0x20 * q.toNat)
    let span := (tail.toNat + 2 ^ 32 - csrF s ptr 0 32) % 2 ^ 32
    let size := 2 ^ csrF s (clusterCsr c (0x2008 + 0x20 * q.toNat)) 0 5
    Inv s → s.boot = 0 →
      ((coreOf s k).task ≠ none → span ≤ size →
        Gives (.wqTailWrite t q tail) s (fun u => csrF u ptr 32 32 = tail.toNat ∧ csrF u ptr 0 32 = csrF s ptr 0 32 ∧ SameCsrBut s u [ptr] ∧ u.tiles = s.tiles ∧
          SameMem s u)) ∧
      ((coreOf s k).task ≠ none → size < span →
        Gives (.wqTailWrite t q tail) s (fun u => SameCsrBut s u [ldgCsr 0x70] ∧ (LedgerRoom s → Reported u (0x1000 + 16 * c) 0x29 CONTAIN) ∧
          u.tiles = s.tiles ∧ SameMem s u)) ∧
      (csrF s (clusterCsr y 0) 0 1 = 1 → dispFrozen s = false → (dispOf s y).staggerUntil = none →
        (clusterTiles y).find? (fun j => tileIdle s j && pickFor s j == .nothing) = some x → victimOf s y = some (v, n) → n < 256 →
        Gives (.steal b) s (fun u => csrGet u (clusterCsr y 0x48) = csrGet s (clusterCsr y 0x48) + 1 ∧
          csrF u (clusterCsr v (0x2010 + 0x20 * n)) 0 32 = (csrF s (clusterCsr v (0x2010 + 0x20 * n)) 0 32 + 1) % 2 ^ 32 ∧
          SameTilesBut s u x) ∧
        (s.traceLost = 0 → csrF s (clusterCsr 0 0x28) 0 1 = 0 → recOk (wqFront s v n) = true →
          Gives (.steal b) s (fun u => (coreOf u x).task.map (fun z => z.rcd) = some (taskRec (wqFront s v n)) ∧
            (coreOf u x).pc = BitVec.ofNat 32 (getF (wqFront s v n) 0 17))))

/-- R366, R367, R278, Tables 9-5 and 13-3. A request, of the highest level that can displace a task, marks that task and
raises its PREEMPT cause. When PREEMPT_GRACE has passed the task is suspended by
force at its program counter. Suspension completes with the core's record in the save area and the tile free; resumption puts it back.
Where the manual leaves it open it follows log entries 23 and 25, the model's choice. -/
def Obligations.TasksArePreemptedSuspendedAndResumed : Prop :=
  ∀ (s : State) (t : BitVec 8) (b : BitVec 4) (time t0 pc r o h : Nat) (z : Task) (forced : Bool) (x : Suspended),
    let k := t.toNat
    let c := coreOf s k
    let y := b.toNat
    let qs := starved s y
    let pick (h : Nat) : Option Nat := qs.findSome? (fun n => if wqLevel s y n = h then preemptPick s ((clusterTiles y).filter (preemptable s n h)) else none)
    let able := qs.filter (fun n => (clusterTiles y).any (fun j => (((coreOf s j).task.map (fun w => decide (w.level < wqLevel s y n)))).getD false))
    let s1 := releaseFlush s (agentOf k 0)
    let area := (readLocal s (k / 16) (some x.task.rcd.save) 16384).1
    let word (i n : Nat) : Nat := ofLE ((area.drop i).take n)
    Inv s →
      (s.boot = 0 → csrF s (clusterCsr y 0) 1 1 = 1 → dispFrozen s = false → preemptsOf s y < able.length →
        pick h = some k → (∀ g, g < 8 → h < g → pick g = none) →
        Gives (.preemptRequest b) s (fun u => coreOf u k = { c with preempt := some s.now } ∧ csrF u (tileCsr k 0x30) 0 1 = 1 ∧ SameTilesBut s u k)) ∧
      (c.preempt = some t0 → c.suspending = none → c.task = some z → s.now ≤ time → t0 + 1000 * csrF s (clusterCsr (k / 16) 0) 3 20 ≤ time →
        (∀ j w, w ∈ semQueue s k j → w.who = 0 → ∃ n, c.blocked = some (.sem j n)) →
        Gives (.preemptGrace t time) s (fun u => u.now = time ∧
          coreOf u k = { c with blocked := none, issueWait := false, suspending := some (true, c.pc.toNat) })) ∧
      (c.suspending = some (forced, pc) → c.task = some z → c.accs = [] → agentPending s1 (agentOf k 0) = false → enginesStopped s1 k z.id = true →
        locTgt s1 z.rcd.save 16384 true = .ok (.dram r o) →
        Gives (.suspendComplete t) s (fun u => (coreOf u k).task = none ∧ (coreOf u k).preempt = none ∧ (coreOf u k).suspending = none ∧
          (coreOf u k).regs = c.regs ∧ u.suspended.map (fun w => (w.tile, w.task.id)) = s.suspended.map (fun w => (w.tile, w.task.id)) ++ [(k, z.id)] ∧
          memBytes u (rgnBase s1 r + o) 8 = leBytes 8 pc ∧
          (∀ j, j < 31 → memBytes u (rgnBase s1 r + o + 32 + 8 * j) 8 = leBytes 8 (getR c (BitVec.ofNat 5 (j + 1))).toNat) ∧
          (∀ e, e < 5 → engQueue u k e = (engQueue s k e).filter (fun q => q.tag != z.id)))) ∧
      (s.boot = 0 → (dispOf s (k / 16)).staggerUntil = none → tileIdle s k = true → lowestStart s k = true → pickFor s k = .resume x →
        Gives (.taskResume t) s (fun u => (coreOf u k).task = some { x.task with startedAt := s.now } ∧ u.suspended = s.suspended.erase x ∧
          (coreOf u k).pc = BitVec.ofNat 32 (word 0 8) ∧ (coreOf u k).preds = BitVec.ofNat 8 (word 8 1) ∧
          (∀ j, j < 31 → getR (coreOf u k) (BitVec.ofNat 5 (j + 1)) = BitVec.ofNat 64 (word (32 + 8 * j) 8)) ∧
          csrF u (tileCsr k 0) 0 1 = word 9 1 % 2 ∧ csrF u (tileCsr k 0x18) 0 17 = word 16 8 % 2 ^ 17)) ∧
      ((dispOf s y).staggerUntil = some t0 → t0 ≤ time → s.now ≤ time →
        Gives (.clusterStartStagger b time) s (fun u => (dispOf u y).staggerUntil = none ∧ u.now = time ∧ SameMem s u))

/-! ### Forager and comb unit (chapters 5 and 6) -/

/-- R138, R140, R141, R14, R142, R172, Table 5-1. Under each operation the descriptor of that operation at the head of the forager's queue begins, while the
window has room, and the forager issues what it can. One whose bits break a rule stops the forager with its cause, whatever COUNT is; with COUNT 0 and no
counts record it has nothing to do; one whose structures break a rule stops with its cause. An ATOMIC of one element updates its word and nothing else.
Where the manual leaves it open it follows log entries 15, 16 and 17, the model's choice. -/
def Obligations.ForagerDescriptorsBegin : Prop :=
  ∀ (s : State) (t : BitVec 8) (i : Instr) (op r o : Nat) (q : QDesc) (rest : List QDesc),
    let k := t.toNat
    let f := fgrOf s k
    let d := q.desc
    let j := jobNew f.nextJob q
    let begun (x : Job) : State := setFgr s k { f with queue := rest, jobs := f.jobs ++ [x], nextJob := f.nextJob + 1 }
    let a := rgnBase s r + o
    let s1 := flushOverlap s (k / 16) a 8
    let imm := getF d 384 64
    Inv s → s.boot = 0 → f.stopped = false → (coreOf s k).suspending = none → f.jobs.length ≤ csrF s (tileCsr k 0x2000) 17 3 → f.queue = q :: rest →
      fdOp d = op →
      (op, i) ∈ ([(1, .gatherRows t), (2, .walk t), (3, .sample t), (4, .scatter t), (5, .atomic t), (6, .expand t), (7, .intersectCount t),
        (8, .prefetch t)] : List (Nat × Instr)) →
      exec i s = .next (fgrPump (begun j) k) ∧
      (f.jobs = [] → (cmbOf s k).dests = [] →
        (∀ c, (fdHeader d = false ∧ c = 1) ∨ (fdHeader d = true ∧ fdBody d = some c) →
          Gives i s (fun u => (fgrOf u k).queue = rest ∧ (fgrOf u k).stopped = true ∧ (fgrOf u k).jobs = [] ∧ SameMem s u ∧
            EngineFailed s u k 1 0x2010 16 (op + c * 2 ^ 8) 0x20 q.addr)) ∧
        (fdHeader d = true → fdBody d = none → fdLoc d 1 = 0 → fdCount d = 0 →
          Gives i s (fun u => u = begun { j with work := [], statsSent := true })) ∧
        (∀ c u1, fdHeader d = true → fdBody d = none → fdLoc d 1 = 0 → fdCount d ≠ 0 → fdTables d = [] → freeSlot s k 3840 4096 ≠ none → c < 0x100 →
          drun (dbegin (fEnv k []) d []) (begun { j with work := [.begin_] }) = (.error (.fail c), u1) →
          Gives i s (fun u => (fgrOf u k).queue = rest ∧ (fgrOf u k).stopped = true ∧ (fgrOf u k).jobs = [] ∧ SameMem u1 u ∧
            EngineFailed u1 u k 1 0x2010 16 (op + c * 2 ^ 8) (if c = 9 then 0x15 else if c = 0x0A ∨ c = 0x0B then 0x24 else 0x20) q.addr)) ∧
        (op = 5 → fdHeader d = true → fdBody d = none → (∀ n, n = 1 ∨ n = 3 ∨ n = 4 ∨ n = 5 → fdLoc d n = 0) → fdCount d = 1 → getB d 452 = true →
          locKind (fdLoc d 2) = 2 → locTgt s (fdLoc d 2) 1 true = .ok (.dram r o) → localTgt s a 8 true = .ok (.dram r o) → o + 8 ≤ rgnSize s r →
          a < 2 ^ 45 → s.ledger.inj = [] → s.ueSectors = [] → psnAt s1 a = false → freeSlot s k 0 3840 ≠ none → freeSlot s k 3840 4096 ≠ none →
          Gives i s (fun u => memNat u a 8 = atomNew (getF d 448 4) true (getB d 453) (memNat s1 a 8) imm imm 0 ∧ SameMemBut s1 u a 8 ∧
            (fgrOf u k).queue = rest ∧ (fgrOf u k).jobs.map (fun x => (x.num, x.work, x.counts, x.statsSent)) = [(f.nextJob, [], one, true)])))

/-- R149, R155, R139. A fetch's data frees its slot and, as the last piece of a row bound for the scratchpad, lands there whole; nothing else of memory
changes. When a descriptor's effects are all delivered it leaves the forager and signals DONE_SEM.
Where the manual leaves it open it follows log entry 15, the model's choice. -/
def Obligations.ForagerRowsLandAndDescriptorsComplete : Prop :=
  ∀ (s : State) (t : BitVec 8) (i : BitVec 12) (job : Nat) (x : Slot) (j : Job) (b : TermBuf) (piece addr r o : Nat) (row : Row),
    let k := t.toNat
    let f := fgrOf s k
    let s1 := flushOverlap s (k / 16) (rgnBase s r + o) x.len
    let bytes := memBytes s1 (rgnBase s r + o) x.len
    let psn := psnIn s1 (rgnBase s r + o) x.len
    let land := bufRow { b with got := b.got ++ [(piece, bytes, psn)] }
    let s2 := releaseFlush (releaseFlush s (agentOf k 1)) (agentOf k 2)
    let n := getF j.q.desc 16 12
    Inv s →
      (slotOf s k i.toNat = some x → x.kind = 0 → x.remote = false → x.install = false → x.waiters = [⟨j.num, b.id, piece⟩] → f.jobs = [j] →
        j.work = [] → j.parked = [] → j.statsSent = true → j.wantSlot = none → fdOp j.q.desc ≠ 4 → j.bufs = [b] →
        b.work = .toSpad addr row → b.need = b.got.length + 1 → s.ledger.inj = [] → x.g = globalOf s (x.g % 2 ^ 45) →
        localTgt s (x.g % 2 ^ 45) x.len false = .ok (.dram r o) →
        Gives (.fetchResponse t i .clean) s (fun u => slotOf u k i.toNat = none ∧ memBytes u addr land.1.length = land.1 ∧
          SameMemBut s1 u addr land.1.length ∧ (fgrOf u k).jobs = [{ j with bufs := [] }])) ∧
      (jobOf s2 k job = some j → jobComplete s2 k j = true → Gives (.foragerComplete t job) s (fun u => jobOf u k job = none)) ∧
      (jobOf s2 k job = some j → jobComplete s2 k j = true → f.jobs = [j] → j.agg = none → j.binds = [] → getB j.q.desc 9 = true → n < 256 →
        semQueue s k n = [] → semVal s k n + 1 < 2 ^ 32 →
        Gives (.foragerComplete t job) s (fun u => (fgrOf u k).jobs = [] ∧ semVal u k n = semVal s k n + 1 ∧ SameMem s2 u ∧ coreOf u k = coreOf s k))

/-- R192, R199, R200, R201. A credit request that fits opens its destination in the lowest free place, or waits while open accumulators are moved; MERGE_OPEN opens a context with its destinations, and an illegal or repeated one
stops the unit; a partial row is merged into the destination it names or refused with a NOTE; MERGE_CLOSE closes its context.
Where the manual leaves it open it follows log entries 18 and 19, the model's choice. -/
def Obligations.CombContextsOpenMergeAndClose : Prop :=
  ∀ (s : State) (t : BitVec 8) (r : CreditReq) (credits : List CreditReq) (x : Ctx) (q : QDesc) (rest : List QDesc) (p : PartMsg) (d : Dest)
    (es : List Acc) (a : Agg) (ids : List Nat) (s1 : State),
    let k := t.toNat
    let b := cmbOf s k
    let c := getF q.desc 32 4
    let h0 := ofLE (p.row.take 8)
    let h1 := ofLE ((p.row.drop 8).take 8)
    let pc := h1 / 2 ^ 38 % 16
    let sq := setCmb s k { b with queue := rest }
    let s0 := setCmb sq k { cmbOf sq k with busy := some q, cache := [] }
    Inv s →
      (b.credits = r :: credits → cmbFits s k r.words true = true → Gives (.combCreditGrant t) s (fun _ => True) ∧
        (cmbPlace s k r.words = none → b.moving = false → Gives (.combCreditGrant t) s (fun u => u = setCmb s k { b with moving := true })) ∧
        (∀ base, cmbPlace s k r.words = some base → r.owner = 1000000 + x.num → cctxOf s k x.num = some x → x.opening = [r.id] → b.busy = none →
          Gives (.combCreditGrant t) s (fun u => (cmbOf u k).credits = credits ∧ SameMem s u ∧ u.csr = s.csr ∧ (cmbOf u k).resWords = 0 ∧
            (cmbOf u k).dests.map (fun y => (y.owner, y.id, y.pos, y.terms, y.base)) = b.dests.map (fun y => (y.owner, y.id, y.pos, y.terms, y.base)) ++
              [(r.owner, r.id, r.pos, 0, base)]))) ∧
      (combHead s k 1 = some q → b.queue = q :: rest →
        (combLegal q.desc = false → Gives (.mergeOpen t) s (fun u => (cmbOf u k).queue = rest ∧ (cmbOf u k).stopped = true ∧
          EngineFailed s u k 2 0x3010 12 1 0x20 q.addr)) ∧
        (combLegal q.desc = true → (cctxOf s k c).isSome = true → Gives (.mergeOpen t) s (fun u => (cmbOf u k).stopped = true ∧
          EngineFailed s u k 2 0x3010 12 (6 + c * 2 ^ 8) 0x20 q.addr)) ∧
        (getF q.desc 0 8 = 1 → combLegal q.desc = true → cctxOf s k c = none →
          drun (dmergeOpen ⟨k, [], fun z => if z = .reserved then 1 else 2⟩ q.desc) s0 = (.ok (a, ids), s1) →
          Gives (.mergeOpen t) s (fun u => (cmbOf u k).queue = rest ∧
            (cctxOf u k c).map (fun y => (y.ids, y.expect, y.closed)) = some (ids, getF q.desc 264 16, []) ))) ∧
      (s.partials.find? (fun y => y.dst == k) = some p → jobOf s p.src p.owner = none → p.owner < 1000000 →
        (cctxOf s k pc = none → Gives (.partialRow t) s (fun u => u.partials = s.partials.erase p ∧ u.tiles = s.tiles ∧
          csrGet u (tileCsr k 0x3060) = csrGet s (tileCsr k 0x3060) + 1 ∧ (LedgerRoom s → Reported u (0x200 + k) 0x04 NOTE))) ∧
        (cctxOf s k pc = some x → x.expect = 0 → x.agg.cls < 3 → s.ledger.inj = [] → b.dests.find? (fun y => y.owner == 1000000 + pc && y.id == h0 % 2 ^ 40) = some d →
          partialElems x.agg (p.row.drop 16) = some es → 16 ≤ p.row.length → h0 / 2 ^ 40 % 2 ^ 8 = 0 → h0 / 2 ^ 61 = 0 →
          h0 / 2 ^ 48 % 2 ^ 13 = aggTotal x.agg → h1 / 2 ^ 42 % 2 = 0 →
          Gives (.partialRow t) s (fun u => u.partials = s.partials.erase p ∧ SameMem s u ∧
            csrGet u (tileCsr k 0x3048) = csrGet s (tileCsr k 0x3048) + 1 ∧
            (destOf u k d.owner d.pos).map (fun y => (y.acc, y.den, y.terms, y.wide)) =
              some ((d.acc.zip (es.take x.agg.elems)).map (fun y => accMerge x.agg.pool x.agg.cls y.1 y.2),
                (d.den.zip (es.drop x.agg.elems)).map (fun y => accMerge 0 x.agg.cls y.1 y.2), d.terms + h1 % 2 ^ 37, d.wide + h1 / 2 ^ 44)))) ∧
      (combHead s k 2 = some q → b.queue = q :: rest → combLegal q.desc = true →
        Gives (.mergeClose t) s (fun u => (cmbOf u k).queue = rest ∧ cctxOf u k c = none ∧
          ((cctxOf s k c).isSome = true → ∀ y ∈ (cmbOf u k).dests, y.owner ≠ 1000000 + c)))

/-- R91, R93. The value of a comb accumulator does not depend on the order of its terms, nor on how they are grouped into partials that are merged: any order
of the terms, and any split of them into two partials, leaves one and the same accumulator. -/
def Obligations.ExactSumsIgnoreOrderAndGrouping : Prop :=
  ∀ (pool cls : Nat) (a : Acc) (xs ys zs : List (Machine.Num × Bool)),
    let add (b : Acc) (x : Machine.Num × Bool) : Acc := accTerm pool cls b x.1 x.2
    let opened := accOpen pool cls
    pool < 6 → cls < 3 →
      (xs.Perm ys → xs.foldl add a = ys.foldl add a) ∧
      accMerge pool cls (xs.foldl add opened) (zs.foldl add opened) = (xs ++ zs).foldl add opened

/-- R97, R98, R99. Reading back a packed element gives the accumulator that was packed, whatever bytes follow it. -/
def Obligations.PackedElementsReadBack : Prop :=
  ∀ (cls : Nat) (a : Acc) (rest : List Byte), cls < 3 → -((2 ^ (clsBits cls - 1) : Nat) : Int) ≤ a.val → a.val < ((2 ^ (clsBits cls - 1) : Nat) : Int) →
    unpackElem cls (packElem cls a ++ rest) = some (a, rest)

/-! ### Matrix and vector engines (chapters 7 and 8) -/

/-- R209, R233, R216, R228, R230. MATMUL reads and checks what it names before it starts. Where no engine has written what it reads, an output block writes
each of its rows, each element computed from the operands, and no other byte; the last one ends the descriptor. A weight block that breaks a rule stops the engine with its cause.
Where the manual leaves it open it follows log entries 16 and 20, the model's choice. -/
def Obligations.MatmulWritesItsOutputBlocks : Prop :=
  ∀ (s : State) (t : BitVec 8) (q : QDesc) (rest : List QDesc) (o : MatOps) (xs : List WBlock) (c : Nat),
    let k := t.toNat
    let e := mxeOf s k
    let s0 := setMxe s k { e with queue := rest }
    let d := q.desc
    let nq := (mdOut d).2
    let y := e.block % nq
    let m0 := 32 * (e.block / nq)
    let b := fmtBits (cwFmt (mdConv d)) / 8
    let loc (i : Nat) : Option Word := locAdd (tBase o.out) (((m0 + i : Nat) : Int) * tStride o.out 1 + ((32 * y * b : Nat) : Int))
    Inv s → s.ledger.inj = [] →
      (e.queue = q :: rest → s.boot = 0 → e.stopped = false → e.busy = none → (coreOf s k).suspending = none →
        (drun (dmatmul k d) s0 = (.ok o, s0) →
          Gives (.matmul t) s (fun u => (mxeOf u k).queue = rest ∧ (mxeOf u k).busy = some q ∧ (mxeOf u k).block = 0 ∧
            heldOps (mxeOf u k) = o ∧ u.csr = s.csr ∧ SameMem s u)) ∧
        (drun (dmatmul k d) s0 = (.error (.fail c), s0) →
          Gives (.matmul t) s (fun u => (mxeOf u k).queue = rest ∧ (mxeOf u k).busy = none ∧ (mxeOf u k).stopped = true ∧ SameMem s u ∧
            EngineFailed s u k 3 0x4010 8 c 0x20 q.addr))) ∧
      (e.busy = some q → e.waiting = false → drun (dmatmul k d) s = (.ok o, s) → heldOps e = o → matSpoilt s k q o = false →
        (wblocks s k d o.w y = .error c →
          Gives (.matmulOutputBlock t) s (fun u => (mxeOf u k).busy = none ∧ (mxeOf u k).stopped = true ∧ SameMem s u ∧
            EngineFailed s u k 3 0x4010 8 c 0x20 q.addr)) ∧
        (wblocks s k d o.w y = .ok xs → mdOutq d = false → e.undef = false → outOverlaps o.out = false →
          Gives (.matmulOutputBlock t) s (fun u =>
            (∀ i l, i < 32 → m0 + i < tSize o.a 1 → loc i = some l →
              memBytes u (locLocal l) (32 * b) = (matRow s k d o xs ⟨[], false, []⟩ y (m0 + i)).flatMap (fun z => leBytes b z.1)) ∧
            (∀ z, (∀ i l, i < 32 → m0 + i < tSize o.a 1 → loc i = some l → z < locLocal l ∨ locLocal l + 32 * b ≤ z) → memByte u z = memByte s z) ∧
            (e.block + 1 < nq * ceilDiv (tSize o.a 1) 32 → (mxeOf u k).block = e.block + 1 ∧ (mxeOf u k).busy = some q) ∧
            (e.block + 1 = nq * ceilDiv (tSize o.a 1) 32 → getB d 9 = false → (mxeOf u k).busy = none))))

/-- R236, R241, R257, R260, R262. CHAIN and SOFTMAX read and check what they name, then process their rows in order; a row that fails stops the engine with
its cause. Over a ring, a block waits for FULL_SEM and is then processed. A finished descriptor completes and signals DONE_SEM.
Where the manual leaves it open it follows log entries 16 and 21, the model's choice. -/
def Obligations.VectorDescriptorsRun : Prop :=
  ∀ (s s1 : State) (t : BitVec 8) (q : QDesc) (rest : List QDesc) (o : VecOps) (c : Nat) (soft : Bool),
    let k := t.toNat
    let e := vecOf s k
    let i : Instr := if soft then .softmax t else .chain t
    let s0 := setVec s k { e with queue := rest }
    let s2 := setVec s1 k { vecOf s1 k with busy := some q, block := 0, waiting := false, granted := false, ready := false,
                                            counts := List.replicate 7 0, psnSent := false }
    let z := vecEcc k o 0 0 o.rows s2
    let x := vecRows k z.1 0 0 o.rows z.2
    let full := vdFull q.desc
    let lo := 32 * e.block
    let hi := min (lo + 32) o.rows
    let zr := vecEcc k o e.block lo hi s
    let xr := vecRows k zr.1 e.block lo hi zr.2
    let n := getF q.desc 16 12
    Inv s →
      (e.queue = q :: rest → s.boot = 0 → e.stopped = false → e.busy = none → (coreOf s k).suspending = none → getF q.desc 0 8 = (if soft then 2 else 1) →
        (drun (dvector k q.desc q.caps) s0 = (.error (.fail c), s1) →
          Gives i s (fun u => (vecOf u k).queue = rest ∧ (vecOf u k).stopped = true ∧ SameMem s1 u ∧ EngineFailed s1 u k 4 0x5010 8 c 0x20 q.addr)) ∧
        (drun (dvector k q.desc q.caps) s0 = (.ok o, s1) → vdRing q.desc = true →
          Gives i s (fun u => (vecOf u k).queue = rest ∧ (vecOf u k).busy = some q ∧ (vecOf u k).block = 0 ∧ (vecOf u k).ready = false ∧ SameMem s1 u)) ∧
        (drun (dvector k q.desc q.caps) s0 = (.ok o, s1) → vdRing q.desc = false → x.1.cause = none → vdLoc q.desc 4 = 0 →
          Gives i s (fun u => (vecOf u k).queue = rest ∧ (vecOf u k).busy = some q ∧ (vecOf u k).ready = true ∧ SameMem x.2 u ∧
            (vecOf u k).counts = [x.1.elems, x.1.active, x.1.oor, x.1.nanMade, x.1.sat, x.1.drop, x.1.empty])) ∧
        (drun (dvector k q.desc q.caps) s0 = (.ok o, s1) → vdRing q.desc = false → x.1.cause = some c →
          Gives i s (fun u => (vecOf u k).stopped = true ∧ (vecOf u k).busy = none ∧ SameMem x.2 u))) ∧
      (e.busy = some q → e.waiting = false → e.ready = false → vdRing q.desc = true → drun (dvector k q.desc q.caps) s = (.ok o, s) →
        (e.granted = false → semQueue s k full ≠ [] ∨ semVal s k full = 0 →
          Gives (.vectorRingBlock t) s (fun u => (vecOf u k).waiting = true ∧ semQueue u k full = semQueue s k full ++ [⟨4, 1, s.now⟩] ∧ SameMem s u ∧
            u.csr = s.csr)) ∧
        (e.granted = true → xr.1.cause = none → vdLoc q.desc 4 = 0 →
          Gives (.vectorRingBlock t) s (fun u => (vecOf u k).block = e.block + 1 ∧ (vecOf u k).ready = decide (o.rows ≤ hi) ∧ SameMem xr.2 u))) ∧
      (e.busy = some q → e.ready = true → agentPending (releaseFlush s (agentOf k 4)) (agentOf k 4) = false →
        Gives (.vectorComplete t) s (fun u => (vecOf u k).busy = none ∧ csrGet u (tileCsr k 0x5048) = csrGet s (tileCsr k 0x5048) + 1) ∧
        (getB q.desc 9 = true → n < 256 → semQueue s k n = [] → semVal s k n + 1 < 2 ^ 32 →
          Gives (.vectorComplete t) s (fun u => semVal u k n = semVal s k n + 1 ∧ SameMem (releaseFlush s (agentOf k 4)) u)))

/-! ### The porter (chapter 11) -/

/-- R320, R321, R333. The waybill instructions that move no data: LOOP opens its body or skips it, ADD_ADDR and LOAD_INDEX move an address register within its
offset part, WAIT takes a unit or queues, PRED skips its span where its guard is false, END ends the waybill.
Where the manual leaves it open it follows log entry 23, the model's choice. -/
def Obligations.WaybillControlInstructions : Prop :=
  ∀ (s : State) (t : BitVec 8) (b : BitVec 4) (x : Stream) (w v : Word) (g : Tgt) (num : BitVec 32) (data : List Byte) (time : Nat),
    let k := t.toNat
    let c := b.toNat
    let a := x.a.getD (wiReg w) 0
    let n := if getB w 6 then 8 else 4
    let r := agentReadEcc s k g n .clean
    let sem := wiSem w
    Inv s →
      (wayNext s k c 1 = some (x, w) → 0 < wiLoopLen w → 0 < wiCount w →
        Gives (.waybillLoop t b) s (fun u => ctxOf u k c = some { x with
          loops := ⟨x.wpos + 1, wiLoopLen w, wiCount w, 0⟩ :: x.loops, wpos := x.wpos + 1, lastProgress := s.now } ∧ SameMem s u ∧ u.csr = s.csr)) ∧
      (wayNext s k c 1 = some (x, w) → wiCount w = 0 →
        Gives (.waybillLoop t b) s (fun u => ctxOf u k c = some (wayAdvance s x (wiLoopLen w)) ∧ SameMem s u ∧ u.csr = s.csr)) ∧
      (wayNext s k c 2 = some (x, w) → regMove x (wiReg w) (wiImm w) = some v →
        Gives (.addAddr t b) s (fun u => ctxOf u k c = some (wayAdvance s { x with a := x.a.set (wiReg w) v }) ∧ SameMem s u ∧ u.csr = s.csr)) ∧
      (wayNext s k c 2 = some (x, w) → regMove x (wiReg w) (wiImm w) = none → (prtOf s k).restore = [] →
        Gives (.addAddr t b) s (fun u => ctxOf u k c = none ∧ EngineFailed s u k 5 0x6010 12 (2 + c * 2 ^ 8) 0x20 x.q.addr ∧ SameMem s u)) ∧
      (wayNext s k c 3 = some (x, w) → pdHost x.q.desc (wiReg w) = false → locTgt s a n false = .ok g → (∀ d y, g ≠ .peer d y) →
        locAdd a n = some v →
        Gives (.loadIndex t b) s (fun u => ctxOf u k c = some (wayAdvance s { x with x := BitVec.ofNat 64 (ofLE r.1), indexing := false, a := x.a.set (wiReg w) v }) ∧
          SameMem r.2.2 u)) ∧
      (wayNext s k c 3 = some (x, w) → pdHost x.q.desc (wiReg w) = true →
        Gives (.loadIndex t b) s (fun u => u.outbox = s.outbox ++ [.hostRead a.toNat n] ∧ SameMem s u ∧ ctxOf u k c = some { x with indexing := true })) ∧
      (ctxOf s k c = some x → x.way.getD x.wpos 0 = w → wiOp w = 3 → x.indexing = true → pdHost x.q.desc (wiReg w) = true → x.chunks = [] →
        num.toNat = x.emits → data.length = n → s.now ≤ time →
        Gives (.chunkPerformed t b num data time) s (fun u => u.now = time ∧ u.outbox = s.outbox ∧ SameMem s u ∧
          ctxOf u k c = some (wayAdvance { s with now := time }
            { x with x := BitVec.ofNat 64 (ofLE data), indexing := false, a := x.a.set (wiReg w) (a + BitVec.ofNat 64 n) }))) ∧
      (wayNext s k c 6 = some (x, w) → beforeResume x = false → semQueue s k sem = [] → 1 ≤ semVal s k sem →
        Gives (.waybillWait t b) s (fun u => ctxOf u k c = some (wayAdvance s x) ∧ semVal u k sem = semVal s k sem - 1 ∧ SameMem s u)) ∧
      (wayNext s k c 6 = some (x, w) → beforeResume x = false → semQueue s k sem ≠ [] ∨ semVal s k sem = 0 →
        Gives (.waybillWait t b) s (fun u => ctxOf u k c = some { x with waitSem := some sem } ∧
          semQueue u k sem = semQueue s k sem ++ [⟨16 + c, 1, s.now⟩] ∧ SameMem s u ∧ u.csr = s.csr)) ∧
      (wayNext s k c 6 = some (x, w) → beforeResume x = true →
        Gives (.waybillWait t b) s (fun u => ctxOf u k c = some (wayAdvance s x) ∧ u.csr = s.csr ∧ SameMem s u)) ∧
      (wayNext s k c 7 = some (x, w) →
        Gives (.waybillPred t b) s (fun u => ctxOf u k c = some (wayAdvance s x (if predHolds x w then 0 else wiSpan w)) ∧ u.csr = s.csr ∧ SameMem s u)) ∧
      (wayNext s k c 8 = some (x, w) →
        Gives (.waybillEnd t b) s (fun u => ctxOf u k c = some { x with ended := true, lastProgress := s.now } ∧ u.csr = s.csr ∧ SameMem s u))

/-- R316, R319, R322, R323, R324. A legal descriptor begins on its idle context. An EMIT issues one chunk; when a chunk within the module is performed its bytes are at
the destination and nothing else has changed. SIGNAL waits for the EMITs before it. A stream that has done everything frees its context.
Where the manual leaves it open it follows log entry 22, the model's choice. -/
def Obligations.StreamsMoveTheirChunks : Prop :=
  ∀ (s : State) (t : BitVec 8) (b : BitVec 4) (x x1 : Stream) (w : Word) (q : QDesc) (ws : List Word) (src dst : Nat) (n : BitVec 32) (c0 : Chunk)
    (pa pb time : Nat),
    let k := t.toNat
    let c := b.toNat
    let p := prtOf s k
    let s0 := setPrt s k { p with queue := p.queue.erase q }
    let way := wayRead s0 k (pdWay q.desc) 32 0
    let ck : Chunk := { n := x.emits, src := src, srcHost := false, dst := dst, dstHost := false, len := wiLen w,
                        deadline := if getB x.q.desc 10 && wiDl w != 0 then some (x.begin_ + 1000 * wiDl w) else none, next := 0, out := 0, data := [] }
    let sem := wiSem w
    let s1 := releaseFlush s (prtAgent k c)
    let done := getF x.q.desc 16 12
    let alone : Prop := ∀ j, j ≠ c → ctxOf s k j = none
    Inv s →
      (p.queue.find? (fun y => pdCtx y.desc == c) = some q → s.boot = 0 → (coreOf s k).suspending = none → ctxOf s k c = none → c ∉ p.stopped →
        (pdLegal q.desc = true → way.1 = .ok ws → wayLegal ws = true →
          Gives (.stream t b) s (fun u => (prtOf u k).queue = p.queue.erase q ∧ csrGet u (tileCsr k (0x6100 + 8 * c)) = 0 ∧ SameMem way.2 u ∧
            (ctxOf u k c).map (fun y => (y.q, y.way, y.wpos, y.a, y.emits, y.chunks)) =
              some (q, ws, 0, (List.range 4).map (fun i => BitVec.ofNat 64 (getF q.desc (128 + 64 * i) 64)), 0, []))) ∧
        (∀ s2, (pdLegal q.desc = false ∧ s2 = s) ∨ (pdLegal q.desc = true ∧ way.1 = .ok ws ∧ wayLegal ws = false ∧ s2 = way.2) → p.restore = [] →
          Gives (.stream t b) s (fun u => ctxOf u k c = none ∧ c ∈ (prtOf u k).stopped ∧ SameMem s2 u ∧
            EngineFailed s2 u k 5 0x6010 12 (1 + c * 2 ^ 8) 0x20 q.addr))) ∧
      (wayNext s k c 4 = some (x, w) → alone → x.chunks = [] → x.sigs = [] → pdResume x.q.desc ≤ x.emits →
        emitSide s x (wiReg w) (getB w 8) (wiLen w) false = .ok (src, false) → emitSide s x (wiDst w) (getB w 9) (wiLen w) true = .ok (dst, false) →
        src / 2 ^ 45 = ownId s → dst / 2 ^ 45 = ownId s → emitPost { x with chunks := [ck] } w = some x1 →
        Gives (.emit t b) s (fun u => ctxOf u k c = some (wayAdvance s x1) ∧ x1.emits = x.emits + 1 ∧ x1.chunks = [ck] ∧ SameMem s u)) ∧
      (wayNext s k c 5 = some (x, w) → alone → beforeResume x = false → getB w 16 = false → x.sigs = [] →
        (x.chunks = [] → agentPending s1 (prtAgent k c) = false → sem < 256 → semQueue s k sem = [] → semVal s k sem + 1 < 2 ^ 32 →
          Gives (.waybillSignal t b) s (fun u => ctxOf u k c = some (wayAdvance s x) ∧ semVal u k sem = semVal s k sem + 1 ∧ SameMem s1 u)) ∧
        (x.chunks = [c0] → chunkPeer s c0 = false → c0.n < x.emits →
          Gives (.waybillSignal t b) s (fun u => ctxOf u k c = some (wayAdvance s { x with sigs := [⟨x.emits, sem, none⟩] }) ∧ u.csr = s.csr ∧ SameMem s u))) ∧
      (ctxOf s k c = some x → alone → x.chunks = [c0] → x.sigs = [] → x.failAt = none → c0.n = n.toNat → c0.out = 0 → c0.srcHost = false → c0.deadline = none → s.now ≤ time →
        s.ledger.inj = [] → c0.src / 2 ^ 45 = ownId s → localAt s c0.src c0.len false = some (.spad pa) →
        (c0.dstHost = false → c0.dst / 2 ^ 45 = ownId s → localAt s c0.dst c0.len true = some (.spad pb) →
          Gives (.chunkPerformed t b n [] time) s (fun u => memBytes u pb c0.len = memBytes s pa c0.len ∧ SameMemBut s u pb c0.len ∧
            (ctxOf u k c).map (fun y => (y.chunks, y.emits, y.lastProgress)) = some ([], x.emits, time) ∧ u.now = time)) ∧
        (c0.dstHost = true →
          Gives (.chunkPerformed t b n [] time) s (fun u => SameMem s u ∧ (ctxOf u k c).map (fun y => y.chunks) = some [] ∧
            (psnIn s pa c0.len = false → u.outbox = s.outbox ++ [.hostWrite c0.dst (memBytes s pa c0.len)]) ∧
            (psnIn s pa c0.len = true → u.outbox = s.outbox ++
              (readUnits s k (.spad pa) c0.len).1.map (fun y => .hostWrite (c0.dst + y.1) y.2.1 y.2.2))))) ∧
      (ctxOf s k c = some x → x.ended = true → x.failAt = none → x.chunks = [] → x.sigs = [] → (∀ r ∈ s1.reqs, r.cont ≠ .waySig k c) →
        agentPending s1 (prtAgent k c) = false → p.restore = [] →
        (getB x.q.desc 9 = false → Gives (.streamComplete t b) s (fun u => ctxOf u k c = none ∧ u.csr = s1.csr ∧ SameMem s1 u)) ∧
        (getB x.q.desc 9 = true → done < 256 → semQueue s k done = [] → semVal s k done + 1 < 2 ^ 32 →
          Gives (.streamComplete t b) s (fun u => ctxOf u k c = none ∧ semVal u k done = semVal s k done + 1 ∧ SameMem s1 u)))

/-- R332, R335, R338. A host transfer that fails stops its stream with cause 5, DELIVERED at the chunk that failed, and the destination undefined; the stall
timer's expiry stops it with cause 6. The context is idle again, begins nothing more, and the failure is reported.
Where the manual leaves it open it follows log entries 16, 22 and 53, the model's choice. -/
def Obligations.StreamsStopOnFailure : Prop :=
  ∀ (s : State) (t : BitVec 8) (b : BitVec 4) (x : Stream) (n : BitVec 32) (c0 : Chunk) (pb time : Nat),
    let k := t.toNat
    let c := b.toNat
    Inv s → ctxOf s k c = some x → (prtOf s k).restore = [] →
      (x.chunks = [c0] → x.sigs = [] → x.failAt = none → x.waitSem = none → c0.n = n.toNat → c0.n < x.emits → c0.srcHost = true →
        (∀ r ∈ s.reqs, r.cont ≠ .waySig k c) →
        Gives (.hostXferFail t b n) s (fun u => ctxOf u k c = none ∧ c ∈ (prtOf u k).stopped ∧
          csrF u (tileCsr k (0x6100 + 8 * c)) 0 32 = n.toNat ∧ EngineFailed s u k 5 0x6010 12 (5 + c * 2 ^ 8) 0x25 x.q.addr) ∧
        (c0.dstHost = false → c0.dst / 2 ^ 45 = ownId s → localAt s c0.dst c0.len true = some (.spad pb) →
          Gives (.hostXferFail t b n) s (fun u => (∃ e, ∀ j, j < c0.len → memByte u (pb + j) = Config.freeByte e (pb + j)) ∧ SameMemBut s u pb c0.len))) ∧
      (s.now ≤ time → stallHeld s k c x = false → x.lastProgress + polVal s 0x11 * 1000000 ≤ time →
        Gives (.stallLimit t b time) s (fun u => ctxOf u k c = none ∧ c ∈ (prtOf u k).stopped ∧ u.now = time ∧ SameMem s u ∧
          EngineFailed s u k 5 0x6010 12 (6 + c * 2 ^ 8) 0x22 x.q.addr))

/-! ### Phase programs (chapter 2) -/

/-- R64, R40, R113. The steward's entries: LOOP enters its body or skips it, SEAL writes the sealed length of each lane and stops a plan whose control word is
above its capacity, RUN_PHASE begins the next ordinal with its masks and releases its tasks, END finishes the run and unbinds its doorbells.
Where the manual leaves it open it follows log entries 10 and 27, the model's choice. -/
def Obligations.PhaseProgramEntriesRun : Prop :=
  ∀ (s : State) (b : BitVec 3) (p : Plan) (r : Run) (e : BitVec 256) (d : BitVec 128) (i : Nat),
    let k := b.toNat
    let n := memNat s (rgnBase s i) 8
    Inv s → nextEntry s k = some (p, r, e) →
      (ppOp e = 2 → ppUntil e = true ∨ ppCount e ≠ 0 →
        Gives (.planLoop b) s (fun u => RunGoesOn s u k p { r with loops := (r.pc, 0) :: r.loops, pc := r.pc + 1 })) ∧
      (ppOp e = 2 → ppUntil e = false → ppCount e = 0 → r.loops = [] →
        Gives (.planLoop b) s (fun u => RunGoesOn s u k p { r with pc := r.pc + 1 + ppSpan e })) ∧
      (ppOp e = 3 → p.delta.find? (fun x => getF x 0 4 == getF e 8 4) = some d → getF d 4 6 = 0 → p.regions.getD (getF d 12 12) 0 = i → i < 4096 →
        regionTgt s i 0 16 true = .ok (.dram i 0) → (panOf s (planTile p / 16)).merge = [] → csrF s (clusterCsr 0 0x28) 0 1 = 0 → r.loops = [] →
        (n ≤ getF d 64 64 → Gives (.seal b) s (fun u => memBytes u (rgnBase s i + 8) 8 = leBytes 8 n ∧ SameMemBut s u (rgnBase s i + 8) 8 ∧
          planOf u k = some { p with run := some { r with pc := r.pc + 1, sealed := r.sealed ++ [(getF e 8 4, 0, n)] } })) ∧
        (getF d 64 64 < n → Gives (.seal b) s (fun u => RunFailed u k 0x8000 0x20 ∧ SameMem s u ∧ (LedgerRoom s → Reported u 0x8000 0x20 CONTAIN)))) ∧
      (ppOp e = 1 → (p.fabric = true → s.moveFrom = []) → r.share = 0 →
        Gives (.runPhase b) s (fun u =>
          (runOf u k).map (fun x => (x.2.inPhase, x.2.begun, x.2.pc, x.2.ordinal, x.2.cacheMask, x.2.invalMask)) =
            some (true, true, r.pc, if r.begun then r.ordinal + 1 else 0, getF e 17 15 * 2, getF e 33 15 * 2) ∧
          (getF e 112 16 = 0 → (∀ c, c < 16 → (panOf s c).preload = none) → (runOf u k).map (fun x => x.2.released) = some true))) ∧
      (ppOp e = 1 → (p.fabric = true → s.moveFrom = []) → r.share ≠ 0 → getF e 8 1 = 0 →
        Gives (.runPhase b) s (fun u => RunFailed u k 0x6000 0x33 ∧ (LedgerRoom s → Reported u 0x6000 0x33 CONTAIN) ∧
          (csrF s (twnCsr 0x18) 8 1 = 0 → csrGet u (twnCsr 0x18) = 0x105))) ∧
      (ppOp e = 4 ∨ p.phases.length ≤ r.pc →
        Gives (.planEnd b) s (fun u => (runOf u k).map (fun x => x.2.state) = some 3 ∧ SameMem s u ∧
          (∀ t ∈ maskTiles p.clusterMask, (coreOf u t).task = none) ∧
          (∀ x, x < 256 → getF (csrGet s (dbBind x)) 0 2 ≠ 0 → getF (csrGet s (dbBind x)) 22 4 = k → csrGet u (dbBind x) = 0)))

/-- R41, R42, R43, R64, R299. A drained phase passes its balance check, its tally counters go back to INIT, and it arrives at its barrier; out of balance, the
run fails. While mirrors of its writes are out it waits. With the barrier open the program goes on, round its loop, or stops where a STOP asked for it.
Where the manual leaves it open it follows log entries 10 and 27, the model's choice. -/
def Obligations.PhasesDrainAndGoOn : Prop :=
  ∀ (s : State) (b : BitVec 3) (p : Plan) (r : Run) (l i : Nat),
    let k := b.toNat
    let e := p.phases.getD l 0
    let mine (q : Req) : Prop := ∃ o a x, q.cont = .mirror o a ∧ x ∈ o ∧ x / 32 ∈ maskTiles p.clusterMask
    Inv s → activeRun s k = some (p, r) → r.inPhase = true →
      (r.released = true → r.drained = false → faultWaiting s k = false → phaseIdle s k p r = true → (∀ c ∈ planClusters p, (panOf s c).merge = []) →
        ((∃ q ∈ s.reqs, mine q) → Waits (.phaseDrained b) s) ∧
        ((∀ q ∈ s.reqs, ¬ mine q) → ∀ src s1, balanceCheck s p = (some src, s1) → Gives (.phaseDrained b) s (fun u => RunFailed u k src 0x23)) ∧
        ((∀ q ∈ s.reqs, ¬ mine q) → balanceCheck s p = (none, s) → p.fabric = false → r.share = 0 →
          Gives (.phaseDrained b) s (fun u => (runOf u k).map (fun x => (x.2.inPhase, x.2.drained, x.2.pc)) = some (true, true, r.pc) ∧ SameMem s u ∧
            csrF u (dieState 0) 32 31 = (csrF s (dieState 0) 32 31 + 1) % 2 ^ 31 ∧
            ∀ t n, t ∈ maskTiles p.clusterMask → n < 64 → tallyVal u t n = csrF s (tallyCfgAddr t n) 0 32))) ∧
      (r.drained = true → p.fabric = false →
        (r.stopReq = false → r.loops = [] →
          Gives (.phaseBarrierOpen b) s (fun u => SameMem s u ∧
            (runOf u k).map (fun x => (x.2.inPhase, x.2.drained, x.2.pc, x.2.loops)) = some (false, false, r.pc + 1, []))) ∧
        (r.stopReq = false → r.loops = [(l, i)] → r.pc = l + ppSpan e → ppUntil e = false →
          Gives (.phaseBarrierOpen b) s (fun u => (runOf u k).map (fun x => (x.2.inPhase, x.2.pc, x.2.loops)) =
            some (false, if i + 1 < ppCount e then (l + 1, [(l, i + 1)]) else (r.pc + 1, [])))) ∧
        (r.stopReq = true → Gives (.phaseBarrierOpen b) s (fun u => (runOf u k).map (fun x => x.2.state) = some 4 ∧
          ∀ t ∈ maskTiles p.clusterMask, (coreOf u t).task = none)))

/-! ### Tables and the steward's policies (chapters 13 and 14) -/

/-- R389, Table 14-7. The steward's redirect operations: LOOKUP puts the key's entry in TBL_RDR_VAL, INSERT replaces the key's entry or takes a free way of its set
of four, REMOVE removes it, and leaves the key's bit in the presence filters; DONE and OK stand in TBL_RDR_CMD, and no other register or state changes.
Where the manual leaves it open it follows log entry 28, the model's choice. -/
def Obligations.RedirectOperationsActOnOneKey : Prop :=
  ∀ (s : State) (x : Redir),
    let id := csrF s (stwCsr 0x40010) 0 24
    let row := csrF s (stwCsr 0x40010) 24 40
    let val := csrGet s (stwCsr 0x40018)
    let room := (s.redirect.filter (fun e => e.1 != (id, row))).countP (fun e => rdrSet e.1.1 e.1.2 == rdrSet id row) < 4
    let frame (w u : State) (ok : Bool) : Prop := u = { w with csr := u.csr, redirect := u.redirect } ∧
      SameCsrBut s u [stwCsr 0x40018, stwCsr 0x40020] ∧ csrGet u (stwCsr 0x40020) = (if ok then 0xC else 4) ∧
      ∀ a b, (a, b) ≠ (id, row) → rdrGet u a b = rdrGet s a b
    Inv s → s.boot = 0 →
      (rdrGet s id row = some x → x.addr < 2 ^ 45 → x.dev < 2 ^ 11 → x.kind < 4 →
        Gives .tblRdrLookup s (fun u => frame s u true ∧ u.redirect = s.redirect ∧ getF (csrGet u (stwCsr 0x40018)) 0 45 = x.addr ∧
          getF (csrGet u (stwCsr 0x40018)) 45 11 = x.dev ∧ getF (csrGet u (stwCsr 0x40018)) 56 2 = x.kind)) ∧
      (rdrGet s id row = none → Gives .tblRdrLookup s (fun u => frame s u false ∧ u.redirect = s.redirect ∧ csrGet u (stwCsr 0x40018) = 0)) ∧
      (room → Gives .tblRdrInsert s (fun u => frame s u true ∧ csrGet u (stwCsr 0x40018) = val ∧
        rdrGet u id row = some ⟨getF val 56 2, getF val 45 11, getF val 0 45, 0, 0⟩)) ∧
      (¬ room → Gives .tblRdrInsert s (fun u => frame s u false ∧ u.redirect = s.redirect)) ∧
      (Gives .tblRdrRemove s (fun u => frame { s with rdrStale := u.rdrStale, freed := u.freed } u (rdrGet s id row).isSome ∧ rdrGet u id row = none ∧
        csrGet u (stwCsr 0x40018) = val ∧ ((rdrGet s id row).isSome = true → rdrPresent u id row = true)))

/-- R370, R372, R374, R375, R390, R391, R392. The tick puts policy changes in force, but those of a frozen group, and starts the look-up counts anew; a performed
replica enters the redirect table, in place of the coldest one of a full set where migration is not frozen; moved rows are published and the move interval ends; a home's notices hold and free the phase release; an idle
module claims records of a pool.
Where the manual leaves it open it follows log entry 28, the model's choice. -/
def Obligations.PolicyCommandsFollowTheSteward : Prop :=
  ∀ (s : State) (b : BitVec 3) (d : BitVec 11) (c : Copy) (e : (Nat × Nat) × Redir) (m : Nat × List Byte) (p : Plan) (r : Run) (n v pool time i o : Nat) (al : Allow),
    let k := b.toNat
    let held (x : Nat × Nat) : Bool := paramFrozen s.freeze x.1 && paramFrozen s.freezeNext x.1
    let home (x : Desc × Nat × Nat × Nat) : Prop := x.2.1 = c.dstDev ∧ x.2.2.1 = c.dst
    let inSet (x : (Nat × Nat) × Redir) : Bool := rdrSet x.1.1 x.1.2 == rdrSet c.table c.row
    let entry (kind : Nat) : Redir := { kind := kind, dev := c.dstDev, addr := c.dst, hits := 0, last := 0 }
    let mine := s.copies.filter (fun x => x.byHome)
    let head := rgnBase s i + o
    let old := memNat s head 8
    let count := memNat s (head + 8) 4
    let q := memNat s (head + 12) 2 % 4096
    Inv s →
      (s.boot = 0 → s.rest = 0 → s.now ≤ time → time % 1000000 = 0 →
        Gives (.policyTick time) s (fun u => u.now = time ∧ u.policyNext = s.policyNext.filter held ∧ u.freeze = s.freezeNext ∧ u.rdrStale = [] ∧ SameMem s u ∧
          u.redirect = s.redirect.map (fun x => (x.1, { x.2 with last := x.2.hits, hits := 0 })) ∧
          (s.policyNext = [(n, v)] → paramOf n = some ⟨n, al, .steward⟩ →
            assocGet u.policy n = (if held (n, v) then assocGet s.policy n else some v) ∧ ∀ j, j ≠ n → assocGet u.policy j = assocGet s.policy j) ∧
          (∀ j, j < 16 → (dispOf u j).shards = [] ∧ (dispOf u j).shardOver = 0 ∧ (dispOf u j).rows = []) ∧
          ((∀ j, j < 16 → (dispOf s j).rows = []) → u.copies = s.copies))) ∧
      (s.copies.find? (fun x => x.kind == 1 && x.stage == 2) = some c → rdrGet s c.table c.row = none →
        (s.redirect.countP inSet < 4 → Gives .replicaInsert s (fun u => rdrGet u c.table c.row = some (entry 1) ∧
          csrGet u (tblCnt 4) = csrGet s (tblCnt 4) + 1 ∧ u.copies = s.copies.filter (fun x => !(x.table == c.table && x.row == c.row)))) ∧
        (s.redirect.countP inSet = 4 → s.freeze.testBit 1 = false → coldest (fun x => rdrSet x.1 x.2 == rdrSet c.table c.row) s.redirect = some e →
          s.redirect.filter (fun x => x.1 == e.1) = [e] → e.2.dev = ownId s →
          Gives .replicaInsert s (fun u => rdrGet u c.table c.row = some (entry 1) ∧ rdrGet u e.1.1 e.1.2 = none ∧
            u.freed = s.freed ++ [(e.2.addr, activeSlots s)])) ∧
        (4 ≤ s.redirect.countP inSet → s.freeze.testBit 1 = true → Gives .replicaInsert s (fun u => u.redirect = s.redirect ∧ u.freed = s.freed))) ∧
      (s.moveFrom.contains (ownId s) = true → (∀ x ∈ s.reqs, x.cont ≠ .moved) → (∀ x ∈ mine, x.stage = 2) →
        Gives .moveCopyDone s (fun _ => True) ∧
        (mine = [c] → rdrGet s c.table c.row = none → s.redirect.countP inSet < 4 → s.shape = [ownId s] → s.moveFrom = [ownId s] →
          ((∀ x, rowHome s c.table c.row = some x → ¬ home x) →
            Gives .moveCopyDone s (fun u => rdrGet u c.table c.row = some (entry 2) ∧ u.moveFrom = [])) ∧
          (∀ x, rowHome s c.table c.row = some x → home x →
            Gives .moveCopyDone s (fun u => rdrGet u c.table c.row = none ∧ u.moveFrom = [])))) ∧
      (mgmtFrom s d.toNat 0x12 = some m → Gives (.moveNotice d) s (fun u => u = { s with mgmtIn := s.mgmtIn.erase m, moveFrom := u.moveFrom } ∧
        ∀ x, x ∈ u.moveFrom ↔ x = d.toNat ∨ x ∈ s.moveFrom)) ∧
      (mgmtFrom s d.toNat 0x15 = some m → Gives (.movesDone d) s (fun u =>
        u = { s with mgmtIn := s.mgmtIn.erase m, moveFrom := s.moveFrom.erase d.toNat })) ∧
      (activeRun s k = some (p, r) → r.released = true → r.drained = false → (pool, false) ∈ r.pools → hubIdle s time = true → s.now ≤ time →
        (∀ x ∈ s.reqs, ∀ a w y z, x.cont ≠ .hubClaim k pool a w y z) →
        (poolHome s p pool = true ∨ (polVal s 0x07 = 1 ∧ s.freeze.testBit 2 = false) → Gives (.hubClaim b pool time) s (fun u => u.now = time)) ∧
        (poolHome s p pool = true → locTgt s (p.pools.getD pool 0) 64 true = .ok (.dram i o) → (panOf s (planTile p / 16)).merge = [] → psnAt s head = false →
          s.ledger.inj = [] → s.ueSectors = [] → csrF s (clusterCsr 0 0x28) 0 1 = 0 → r.lists = [] → r.held = [] →
          (count ≤ old → Gives (.hubClaim b pool time) s (fun u => memNat u head 8 = (old + polVal s 0x08) % 2 ^ 64 ∧ SameMemBut s u head 8 ∧
            (runOf u k).map (fun x => (x.2.pools, x.2.held)) = some (r.pools.map (fun x => if x.1 = pool then (pool, true) else x), []))) ∧
          (old < count → wqSize s (q / 256) (q % 256) ≤ wqCount s (q / 256) (q % 256) → polVal s 0x08 = 1 → count ≤ 2 ^ 20 →
            (locAdd (p.pools.getD pool 0) ((64 + 64 * old : Nat) : Int)).map (fun l => locTgt s l 64 false) = some (.ok (.dram i (o + 64 + 64 * old))) →
            Gives (.hubClaim b pool time) s (fun u => memNat u head 8 = old + 1 ∧ SameMemBut s u head 8 ∧
              (runOf u k).map (fun x => (x.2.pools, x.2.held)) = some (r.pools, [(q, memBytes s (head + 64 + 64 * old) 64)])))))

/-! ### Pantry (chapter 12) -/

/-- R343, R346, R351, R352, R353, R354, R356. The steward's writes of the pantry registers and a core's PAN_ZERO: PAN_CTRL switches the pantry and clears its
counters, an invalidation takes its classes' lines away and stays busy until it is done, a preload is taken when none runs, and PAN_ZERO zeroes 256 bytes of a
writable region, in memory and in the line, or fails its task.
Where the manual leaves it open it follows log entries 24 and 55, the model's choice. -/
def Obligations.PantryRegistersAct : Prop :=
  ∀ (s : State) (b : BitVec 4) (v : Word) (t : BitVec 8) (i o : Nat),
    let c := b.toNat
    let p := panOf s c
    let ctrl := clusterCsr c 0x4000
    let classes := getF v 1 15 * 2
    let k := t.toNat
    let a := rgnBase s i + o
    let tag := globalOf s a / 256
    let line : Line := ⟨tag, rgnClass s i, 15, List.replicate 256 0, false⟩
    let pansOnly (u : State) : Prop := SameMem s u ∧ SameCsrBut s u [] ∧ ∀ j, j ≠ c → panOf u j = panOf s j
    Inv s →
      (stewardUp s = true →
        Gives (.panCtrlWrite .steward b v) s (fun u => csrF u ctrl 0 2 = getF v 0 2 ∧ SameMem s u ∧ (panOf u c).sets = p.sets ∧ (panOf u c).evb = p.evb ∧
          (getF v 2 1 = 0 → SameCsrBut s u [ctrl]) ∧ (getF v 2 1 = 1 → ∀ j, j < 7 → csrGet u (panCnt c j) = 0) ∧
          (panEn s c = true → getF v 0 1 = 0 → ∀ f ∈ (panOf u c).fills, f.dropped = true ∨ 16 ≤ f.cls))) ∧
      (stewardUp s = true → getF v 0 1 = 0 → classes ≠ 0 → getF v 16 1 = 0 →
        Gives (.panInvalidate .steward b v) s (fun u => pansOnly u ∧ (panOf u c).invalBusy = true ∧
          (∀ x, panWays (panOf u c) x = (panWays p x).filter (fun w => !classes.testBit w.2.cls)) ∧
          (∀ x, panEvb (panOf u c) x = (panEvb p x).filter (fun l => !classes.testBit l.cls)))) ∧
      (stewardUp s = true → getF v 0 16 = 0 → getF v 16 1 = 1 →
        Gives (.panInvalidate .steward b v) s (fun u => pansOnly u ∧
          ∀ x, panWays (panOf u c) x = (panWays p x).map (fun w => (w.1, { w.2 with lock := false })))) ∧
      (p.invalBusy = true → Gives (.panInvalidateDone b) s (fun u => u = { s with pans := u.pans } ∧
        panOf u c = { p with invalBusy := false, invalClasses := 0 } ∧ ∀ j, j ≠ c → panOf u j = panOf s j)) ∧
      (stewardUp s = true → 1 ≤ getF v 0 24 → getF v 0 24 ≤ 65536 → p.preload = none → locTgt s (csrGet s (clusterCsr c 0x4020)) 1 false = .ok (.dram i o) →
        Gives (.panPreload .steward b v) s (fun u => pansOnly u ∧
          panOf u c = { p with preload := some ⟨globalOf s a, getF v 0 24, getB v 24, rgnClass s i, false⟩ })) ∧
      (stewardUp s = true → getF v 0 24 = 0 ∨ 65536 < getF v 0 24 ∨ p.preload.isSome = true →
        Gives (.panPreload .steward b v) s (fun u => pansOnly u ∧ panOf u c = p)) ∧
      ((coreOf s k).task.isSome = true → locKind v ≠ 2 ∨ locRsv v ≠ 0 ∨ locOff v % 256 ≠ 0 → Fails (.panZero t v) s k 3) ∧
      ((coreOf s k).task.isSome = true → locKind v = 2 → locRsv v = 0 → locOff v % 256 = 0 → i = locIdx v → o = locOff v →
        (regionTgt s i o 256 true = .error .readOnly → Fails (.panZero t v) s k 7) ∧
        (k / 16 = c → regionTgt s i o 256 true = .ok (.dram i o) → p.merge = [] → (coreOf s k).accs = [] →
          Gives (.panZero t v) s (fun u => memBytes u a 256 = List.replicate 256 0 ∧ SameMemBut s u a 256 ∧
            (panEn s c = true → sliceIso s c tag = false → panWays p (panSet (tag * 256)) = [] → panLine p tag = none →
              panLine (panOf u c) tag = some line))))

/-- R346, R347, R348, R350, R351. A merging-buffer entry goes to memory 500 ns after it was opened, byte for byte; a prefetch fill installs its line unless it was
dropped, poisoned or no longer cacheable; a finished preload installs its lines and frees the cluster's preload.
Where the manual leaves it open it follows log entry 24, the model's choice. -/
def Obligations.PantryEventsMoveLines : Prop :=
  ∀ (s : State) (b y : BitVec 4) (e : MergeEnt) (f : PreFill) (x : Preload) (time i o k : Nat) (q : Plan) (r : Run),
    let c := b.toNat
    let p := panOf s c
    let free (tag : Nat) : Prop := sliceIso s c tag = false ∧ panWays p (panSet (tag * 256)) = [] ∧ panLine p tag = none
    let line (tag cls : Nat) (lock : Bool) : Line := ⟨tag, cls, 15, memBytes s (rgnBase s i + o) 256, lock⟩
    Inv s →
      (p.merge.find? (fun z => z.slice == y.toNat) = some e → e.since + 500 ≤ time → s.now ≤ time → tabSorted 0 e.bytes = true →
        Gives (.mergeEntryTimeout b y time) s (fun u => u.now = time ∧ (panOf u c).merge = p.merge.filter (fun z => z.blk != e.blk) ∧
          (∀ n w, n < 256 → tabGet (fun _ => none) e.bytes n = some w → memByte u (e.blk + n) = w) ∧
          (∀ a, (∀ n, n < 256 → e.blk + n = a → tabGet (fun _ => none) e.bytes n = none) → memByte u a = memByte s a))) ∧
      (p.fills.find? (fun z => z.slice == y.toNat) = some f → p.merge = [] → s.ledger.inj = [] → localTgt s (f.addr % 2 ^ 45) 256 false = .ok (.dram i o) →
        (f.dropped = true ∨ psnIn s (rgnBase s i + o) 256 = true ∨ panEn s c = false ∨ cacheable s c f.cls = false →
          Gives (.prefetchFillArrival b y .clean) s (fun u => (panOf u c).fills = p.fills.erase f ∧ (panOf u c).sets = p.sets ∧ SameMem s u)) ∧
        (f.dropped = false → s.ueSectors = [] → psnIn s (rgnBase s i + o) 256 = false → panEn s c = true → cacheable s c f.cls = true → free (f.addr / 256) →
          Gives (.prefetchFillArrival b y .clean) s (fun u => (panOf u c).fills = p.fills.erase f ∧ SameMem s u ∧
            panLine (panOf u c) (f.addr / 256) = some (line (f.addr / 256) f.cls false)))) ∧
      (p.preload = some x → (∀ z ∈ s.reqs, ∀ g l, z.cont ≠ .preload c g l) →
        (slotOfCluster s c = none → Gives (.preloadDone b) s (fun u => (panOf u c).preload = none)) ∧
        (slotOfCluster s c = some k → activeRun s k = some (q, r) → r.released = true → x.addr / 2 ^ 45 = ownId s → x.lines = 1 → p.merge = [] →
          s.ledger.inj = [] → s.ueSectors = [] → localTgt s (x.addr % 2 ^ 45) 256 false = .ok (.dram i o) → psnIn s (rgnBase s i + o) 256 = false → x.dropped = false →
          panEn s c = true → cacheable s c x.cls = true → free (x.addr / 256) →
          Gives (.preloadDone b) s (fun u => (panOf u c).preload = none ∧ SameMem s u ∧
            panLine (panOf u c) (x.addr / 256) = some (line (x.addr / 256) x.cls x.lock))))

/-! ### Memory controllers (chapter 15) -/

/-- R403, R404, R406, R407, R409, R410. A patrol read counts one more sector of the channel's pass and acts on what it finds: a corrected error is counted,
recorded and tracked to a retirement; an uncorrectable one is recorded, delivers its sector poisoned from then on, and triggers a retirement at once; a
retirement gives the page a spare, its bad sectors stored poisoned, or proposes the channel for map-out where none is left.
Where the manual leaves it open it follows log entry 29, the model's choice. -/
def Obligations.PatrolAndRetirement : Prop :=
  ∀ (s : State) (b : BitVec 9) (off : BitVec 34) (a x : Nat) (e : Nat × Nat) (f : Ecc),
    let ch := b.toNat
    let page := off.toNat / 2048
    let p := ch / 96
    let src := 0x2000 + ch
    let pass := tabGet (fun _ => (0, 0)) s.patrol ch
    let n := (((trackerOf s ch).find? (fun y => y.1 == page)).map (fun y => y.2)).getD 0
    let patrols : Prop := ch < 384 ∧ off.toNat % 64 = 0 ∧ page < spareBase + spareCount ∧ memUp s = true ∧ csrF s (memCsr p 0) 1 1 = 1 ∧
      csrF s (chanAddr ch 0) 0 2 ≠ 2 ∧ s.ledger.inj = []
    Inv s →
      (patrols → (page < spareBase → ∀ y, addrOf s ch off.toNat = some y → y ∉ s.ueSectors) → (spareBase ≤ page → rtOfSpare s ch (page - spareBase) = none) →
        Gives (.patrolRead b off .clean) s (fun u => u = { s with patrol := u.patrol } ∧ (∀ j, j ≠ ch → tabGet (fun _ => (0, 0)) u.patrol j =
          tabGet (fun _ => (0, 0)) s.patrol j) ∧
          tabGet (fun _ => (0, 0)) u.patrol ch = if 32 * (spareBase + spareCount) ≤ pass.2 + 1 then (s.now, 0) else (pass.1, pass.2 + 1))) ∧
      (patrols → page < spareBase → addrOf s ch off.toNat = some a → a < 2 ^ 45 →
        (a ∉ s.ueSectors → Gives (.patrolRead b off .corrected) s (fun u => SameMem s u ∧ u.poison = s.poison ∧ u.ueSectors = s.ueSectors ∧
          csrGet u (chanAddr ch 0x20) = csrGet s (chanAddr ch 0x20) + 1 ∧
          SameCsrBut s u [chanAddr ch 0x20, ldgCsr 0x70] ∧ (page, n + 1) ∈ trackerOf u ch ∧ (LedgerRoom s → Reported u src 0x10 NOTE) ∧
          (csrF s (memCsr p 0x18) 16 4 ≤ n + 1 → (ch, page) ∈ u.retireQ) ∧ (n + 1 < csrF s (memCsr p 0x18) 16 4 → u.retireQ = s.retireQ))) ∧
        (psnStored s a = false → f = .uncorrectable ∨ a ∈ s.ueSectors → Gives (.patrolRead b off f) s (fun u => SameMem s u ∧ u.poison = s.poison ∧
          psnAt u a = true ∧ a ∈ u.ueSectors ∧
          csrGet u (chanAddr ch 0x28) = csrGet s (chanAddr ch 0x28) + 1 ∧ (ch, page) ∈ u.retireQ ∧ (LedgerRoom s → Reported u src 0x11 NOTE) ∧
          csrGet u (memCsr p 0x20) = BitVec.ofNat 64 (a + ch % 96 * 2 ^ 45 + 2 ^ 52))) ∧
        (psnStored s a = true → Gives (.patrolRead b off .uncorrectable) s (fun u => u = { s with patrol := u.patrol }))) ∧
      (patrols → spareBase ≤ page → rtOfSpare s ch (page - spareBase) = none →
        Gives (.patrolRead b off .uncorrectable) s (fun u => u.retireQ = s.retireQ ∧ u.poison = s.poison ∧ u.ueSectors = s.ueSectors ∧ SameMem s u ∧
          csrGet u (chanAddr ch 0x28) = csrGet s (chanAddr ch 0x28) + 1 ∧ (LedgerRoom s → Reported u src 0x11 NOTE) ∧
          csrF u (memCsr p 0x20) 0 45 = (spareAddr s ch (page - spareBase) + off.toNat % 2048) % 2 ^ 45)) ∧
      (s.retireQ.find? (fun y => y.1 == ch) = some e → ch < 384 → memUp s = true → e.2 < 2 ^ 23 →
        (rtOfPage s ch e.2 = none → sparesOut s ch false = false → freeSpare s ch = some x →
          Gives (.pageRetirement b) s (fun u => u.retireQ = s.retireQ.erase e ∧ SameMem s u ∧ (s.ueSectors = [] → u.poison = s.poison) ∧
            (∀ j y, j < 32 → addrOf s ch (2048 * e.2 + 64 * j) = some y → y ∈ s.ueSectors → psnStored u y = true ∧ y ∉ u.ueSectors) ∧
            (∃ j, j < 4096 ∧ getB (csrGet s (rtAddr p j)) 45 = false ∧
              csrGet u (rtAddr p j) = BitVec.ofNat 64 (e.2 + x * 2 ^ 23 + ch % 96 * 2 ^ 38 + 2 ^ 45)) ∧
            csrF u (chanAddr ch 0) 6 11 = min 2047 (csrF s (chanAddr ch 0) 6 11 + 1) ∧ (LedgerRoom s → Reported u src 0x13 NOTE))) ∧
        (rtOfPage s ch e.2 = none → sparesOut s ch false = true ∨ freeSpare s ch = none →
          Gives (.pageRetirement b) s (fun u => u.retireQ = s.retireQ.erase e ∧ SameMem s u ∧ (LedgerRoom s → Reported u src 0x14 DEGRADE) ∧
            (csrF s (chanAddr ch 0) 0 2 ≠ 2 → csrF u (chanAddr ch 0) 0 2 = 1 ∧ csrF u (chanAddr ch 0) 4 2 = 1))))

/-- R414, R415, R416, R419. The poll of every 4 ms raises a package's thermal stage to its worst report at once and lowers it by one after three lower polls; a
traffic generator starts on its configuration and ends with its counts.
Where the manual leaves it open it follows log entry 29, the model's choice. -/
def Obligations.ThermalStagesAndTrafficGenerators : Prop :=
  ∀ (s : State) (rs : List (BitVec 9 × BitVec 5)) (time k i : Nat) (b : BitVec 9) (cfg : Word) (errors : BitVec 32) (off : BitVec 34) (beat : BitVec 5)
    (bad : List (BitVec 23)),
    let code (c : Nat) : Nat := ((rs.reverse.find? (fun r => r.1.toNat == c)).map (fun r => r.2.toNat)).getD (csrF s (chanAddr c 0) 17 5)
    let stage (c : Nat) : Nat := min 3 (Config.mr4Stage (code c))
    let worst (j : Nat) : Nat := max (max (stage (4 * j)) (stage (4 * j + 1))) (max (stage (4 * j + 2)) (stage (4 * j + 3)))
    let low := tabGet (fun _ => 0) s.lowPolls k
    let ch := b.toNat
    let tg := chanAddr ch
    Inv s →
      (memUp s = true → s.now ≤ time → time % 4000000 = 0 → (∀ r ∈ rs, r.1.toNat < 384) → k < 96 →
        Gives (.mr4Poll rs time) s (fun u => u.now = time ∧ SameMem s u ∧
          pkgStage u k = (if pkgStage s k < worst k then worst k else if worst k < pkgStage s k ∧ 2 ≤ low then pkgStage s k - 1 else pkgStage s k) ∧
          tabGet (fun _ => 0) u.lowPolls k = (if worst k < pkgStage s k ∧ low < 2 then low + 1 else 0) ∧
          (pkgStage s k < worst k → (∀ j, j < 96 → j ≠ k → worst j ≤ pkgStage s j) → LedgerRoom s →
            Reported u (0x2000 + 4 * k) 0x40 (if worst k = 3 then DEGRADE else NOTE)))) ∧
      (stewardUp s = true → ch < 384 → csrF s (tg 0x48) 0 1 = 0 → getF cfg 5 2 ≤ 2 →
        Gives (.memTgStart .steward b cfg) s (fun u => csrGet u (tg 0x48) = 1 ∧ csrGet u (tg 0x50) = 0 ∧
          (getF cfg 8 1 = 0 ∨ getF cfg 5 2 = 1 → SameMem s u) ∧
          (getF cfg 8 1 = 1 → getF cfg 5 2 ≠ 1 → i ∈ chanRegions s ch →
            ∀ a, rgnBase s i ≤ a → a < rgnBase s i + rgnSize s i → ∃ g, s.freeCtr ≤ g ∧ memByte u a = Config.freeByte g a))) ∧
      (ch < 384 → csrF s (tg 0x48) 0 1 = 1 →
        Gives (.memTgDone b errors off beat bad) s (fun u => SameMem s u ∧ csrGet u (tg 0x48) = BitVec.ofNat 64 (2 + errors.toNat * 2 ^ 32) ∧
          (errors = 0 → SameCsrBut s u [tg 0x48] ∧ u.retireQ = s.retireQ) ∧
          (errors ≠ 0 → csrGet u (tg 0x50) = BitVec.ofNat 64 (off.toNat + beat.toNat * 2 ^ 34 + 2 ^ 39) ∧
            ∀ y ∈ bad, y.toNat < spareBase → (ch, y.toNat) ∈ u.retireQ)))

/-! ### Fabric (chapter 16) -/

/-- R426, R450, R422, R423, R468, Table 16-9. Flits advance the sequence and free what they acknowledge, a bad one asks for a replay, a NAK replays what is held.
A port retrains to the width its lanes allow, and trains step by step until it is up, down, miscabled or outside the shape.
Where the manual leaves it open it follows log entry 32, the model's choice. -/
def Obligations.LinksCarryReplayAndTrain : Prop :=
  ∀ (s : State) (b : BitVec 5) (f : Flit) (lo hi served : Bool) (dev : BitVec 11) (port : BitVec 5),
    let p := b.toNat
    let l := linkOf s p
    let src := 0x4000 + p
    let l' : Link := { l with retry := ackRetry l.retry f.ack.toNat, units := creditBack l.units f.credits,
                              expect := if f.seq.toNat = l.expect then (l.expect + 1) % 4096 else l.expect, nakPending := decide (f.seq.toNat ≠ l.expect) }
    let err (u : State) (c : Nat) : Prop := csrF s (fabCsr 0x18) 13 1 = 0 → csrGet u (fabCsr 0x18) = BitVec.ofNat 64 (c + p * 2 ^ 8 + 2 ^ 13)
    let said (u : State) (kind level : Nat) : Prop := LedgerRoom s → Reported u src kind level
    let step (Q : State → Prop) : Prop := Gives (.linkTrainingStep b lo hi dev port served) s (fun u => SameMem s u ∧ Q u)
    let learnt (u : State) : Prop := csrF u (portAddr p) 4 11 = dev.toNat ∧ csrF u (portAddr p) 15 5 = port.toNat
    Inv s → p < 24 →
      (portUp s p = true → s.ledger.inj = [] →
        (f.fecOk = true → f.crcOk = true → f.nak = false →
          Gives (.flit b f) s (fun u => u = { s with csr := u.csr, links := u.links } ∧ linkOf u p = l' ∧ (∀ j, j ≠ p → linkOf u j = linkOf s j) ∧
            SameCsrBut s u [portCnt p 0x38] ∧ csrGet u (portCnt p 0x38) = csrGet s (portCnt p 0x38) + BitVec.ofNat 64 f.fecCorrected)) ∧
        (f.fecOk = true → f.crcOk = true → f.nak = true → l'.retry ≠ [] → l.noted = none →
          Gives (.flit b f) s (fun u => csrGet u (portCnt p 0x30) = csrGet s (portCnt p 0x30) + BitVec.ofNat 64 l'.retry.length ∧ said u 0x30 NOTE ∧
            (linkOf u p).retry = l'.retry ∧ (linkOf u p).expect = l'.expect)) ∧
        (f.fecOk = false ∨ f.crcOk = false →
          Gives (.flit b f) s (fun u => u = { s with csr := u.csr, links := u.links } ∧ linkOf u p = { l with nakPending := true } ∧
            csrGet u (portCnt p 0x40) = csrGet s (portCnt p 0x40) + (if f.fecOk then 0 else 1)))) ∧
      (portUp s p = true → Gives (.portRetrain b) s (fun u => portState u p = 1 ∧ linkOf u p = { l with replays := 0 } ∧ err u 1 ∧ SameMem s u)) ∧
      (portState s p = 1 → l.step = 5 →
        Gives (.portRetrainDone b lo hi) s (fun u => SameMem s u ∧
          (lo = true → hi = true → portState u p = 2) ∧
          (lo ≠ hi → portState u p = 3 ∧ csrF u (portAddr p) 3 1 = bit hi ∧ err u 2 ∧ said u 0x31 DEGRADE) ∧
          (lo = false → hi = false → portState u p = 0 ∧ err u 3 ∧ said u 0x31 DEGRADE))) ∧
      (portState s p = 1 → l.step = 0 ∨ l.step = 2 → step (fun u => linkOf u p = { l with step := l.step + 1 } ∧ u = { s with links := u.links })) ∧
      (portState s p = 1 → l.step = 1 →
        (lo = true ∨ hi = true → step (fun u => linkOf u p = { l with step := 2, width := widthOf lo hi } ∧ u = { s with links := u.links })) ∧
        (lo = false → hi = false → step (fun u => portState u p = 0 ∧ err u 3 ∧ said u 0x31 DEGRADE))) ∧
      (l.step = 3 →
        (s.shape.contains dev.toNat = false → step (fun u => learnt u ∧ portState u p = 5 ∧ said u 0x32 NOTE)) ∧
        (s.shape.contains dev.toNat = true → cabled s p dev.toNat port.toNat = false → step (fun u => learnt u ∧ portState u p = 4 ∧ err u 4 ∧ said u 0x32 NOTE)) ∧
        (s.shape.contains dev.toNat = true → cabled s p dev.toNat port.toNat = true → step (fun u => learnt u ∧ linkOf u p = { l with step := 4 }))) ∧
      (l.step = 4 → portState s p = 1 →
        step (fun u => (linkOf u p).step = 5 ∧ portState u p = (if l.width = 0 then 2 else if l.width = 3 then 0 else 3) ∧
          (served = true → csrF u (twnCsr 0x10) 0 3 = 6 ∧ csrF u (peerAddr (ownId s)) 5 1 = 1)))

/-- R33, R111, R174, R428, R436. A peer's read answers with the bytes and their mark, its write stores exactly its bytes, its atomic updates its word as the
operation says and answers with the old value where it is wanted; a target that peers may not reach is refused with its code and nothing is stored.
Where the manual leaves it open it follows log entry 31, the model's choice. -/
def Obligations.PeersReadWriteAndUpdateMemory : Prop :=
  ∀ (s : State) (h : Hdr) (data : List Byte) (aop : BitVec 4) (w64 signed want : Bool) (opnd cmp : Word) (g : PeerTgt) (i o c : Nat),
    let n := h.len.toNat + 1
    let a := match g with
      | .dram i o => rgnBase s i + o
      | .spad a => a
    let w := if w64 then 64 else 32
    let z := rgnBase s i + o
    let old := memNat s z (w / 8)
    let v := opnd.toNat % 2 ^ w
    let less (x y : Nat) : Bool := if signed then decide (toSigned w x < toSigned w y) else decide (x < y)
    let atom : Instr := .pktAtomic h aop w64 signed want opnd cmp
    let unmirrored : Prop := mirroring s = false ∧ ∀ r ∈ s.reqs, ∀ x y, r.cont ≠ .mirror x y
    Inv s →
      (Arrives s h kREAD → s.ledger.inj = [] → peerTgt s h n false = .ok g →
        Gives (.pktRead h) s (fun u => Replies s u h kREAD_RESP (memBytes s a n) (psnIn s a n) ∧ SameMem s u ∧ u.poison = s.poison)) ∧
      (Arrives s h kREAD → peerTgt s h n false = .error c → Refuses (.pktRead h) s h c) ∧
      (Arrives s h kWRITE → data.length = n → peerTgt s h n true = .ok g →
        Gives (.pktWrite h data) s (fun u => memBytes u a n = data ∧ SameMemBut s u a n ∧ (unmirrored → Replies s u h kACK [] false) ∧
          (h.poison = true → psnIn u a n = true))) ∧
      (Arrives s h kWRITE → data.length = n → peerTgt s h n true = .error c → Refuses (.pktWrite h data) s h c) ∧
      (Arrives s h kATOMIC → peerTgt s h (w / 8) true = .error c → Refuses atom s h c) ∧
      (Arrives s h kATOMIC → peerTgt s h (w / 8) true = .ok g → h.addr.toNat % (w / 8) ≠ 0 ∨ 8 < aop.toNat ∨ g = .spad a → Refuses atom s h eREFUSED) ∧
      (Arrives s h kATOMIC → peerTgt s h (w / 8) true = .ok (.dram i o) → h.addr.toNat % (w / 8) = 0 → aop.toNat ≤ 8 → s.ledger.inj = [] →
        (psnAt s z = true → Gives atom s (fun u => Replies s u h kERROR (leBytes 8 ePOISONED) false ∧ SameMem s u)) ∧
        (psnAt s z = false → Gives atom s (fun u => SameMemBut s u z (w / 8) ∧
          (unmirrored → Replies s u h (if want then kATOMIC_RESP else kACK) (if want then leBytes 8 old else []) false) ∧
          memNat u z (w / 8) = (match aop.toNat with
            | 0 => (old + v) % 2 ^ w
            | 1 => if less v old then v else old
            | 2 => if less old v then v else old
            | 3 => old &&& v
            | 4 => old ||| v
            | 5 => old ^^^ v
            | 6 => v
            | 7 => if old = cmp.toNat % 2 ^ w then v else old
            | _ => old ||| 2 ^ (opnd.toNat % w)))))

/-- R274, R34, R375, R448. An answer goes to the request with its tag, which is then done: load data to its register, an acknowledged store leaves the core, a
claimed pool's old value leads to its header, a failed access fails its task with cause 8. An answer nothing waits for is discarded and counted.
Where the manual leaves it open it follows log entries 31 and 57, the model's choice. -/
def Obligations.AnswersReachTheirRequests : Prop :=
  ∀ (s : State) (h : Hdr) (data : List Byte) (old : Word) (code : BitVec 8) (r : Req) (a : CoreAcc) (t slot pool nb i : Nat) (hd : Option (Nat × Nat))
    (p : Plan) (x : Run),
    let tag := h.tag.toNat
    let done (u : State) : Prop := u.reqs = s.reqs.filter (fun y => y.tag != tag) ∧ SameMem s u
    let late (u : State) : Prop := u = { s with csr := u.csr } ∧ SameCsrBut s u [fabCsr (0x8048 + 0x80 * h.port.toNat)] ∧
      csrGet u (fabCsr (0x8048 + 0x80 * h.port.toNat)) = csrGet s (fabCsr (0x8048 + 0x80 * h.port.toNat)) + 1
    let mine (kind : Nat) : Prop := reqOf s tag = some r ∧ r.kind = kind ∧ r.discard = false ∧ ∀ y ∈ s.reqs, y.held = false
    let w := if a.signed then ofSigned 64 (toSigned (8 * a.size) (ofLE data)) else ofLE data % 2 ^ (8 * a.size)
    let l := p.pools.getD pool 0
    let untraced : Prop := csrF s (clusterCsr 0 0x28) 0 1 = 0
    Inv s → t < 256 →
      (reqOf s tag = none → h.len.toNat + 1 = data.length →
        (Arrives s h kREAD_RESP → Gives (.pktReadResp h data) s late) ∧ (Arrives s h kATOMIC_RESP → Gives (.pktAtomicResp h old) s late) ∧
        (Arrives s h kERROR → Gives (.pktError h code) s late)) ∧
      (reqOf s tag = none → h.len = 0 → Arrives s h kACK → Gives (.pktAck h) s late) ∧
      (Arrives s h kREAD_RESP → h.len.toNat + 1 = data.length → mine kREAD → r.len = data.length → r.cont = .coreAcc t slot → accOf s t slot = some a →
        a.slot = slot → a.rd < 32 →
        (h.poison = false → Gives (.pktReadResp h data) s (fun u => done u ∧
          RegsBut s u t (BitVec.ofNat 5 a.rd) (BitVec.ofNat 64 w) ∧
          coreOf u t = { coreOf s t with regs := (coreOf u t).regs, accs := (coreOf s t).accs.filter (fun y => y.slot != slot) })) ∧
        (h.poison = true → Gives (.pktReadResp h data) s (fun u => (untraced → u.reqs = s.reqs.filter (fun y => y.tag != tag)) ∧
          (coreOf u t).task = none ∧ (LedgerRoom s → Reported u t 0x15 CONTAIN)))) ∧
      (Arrives s h kATOMIC_RESP → mine kATOMIC → r.cont = .hubClaim slot pool nb 0 hd i → runOf s slot = some (p, x) →
        (route s (servedDev s (locDev l))).isSome = true → servedDev s (locDev l) ≠ ownId s →
        Gives (.pktAtomicResp h old) s (fun u => ∃ y, u.reqs = s.reqs.filter (fun y => y.tag != tag) ++ [y] ∧ y.kind = kREAD ∧ y.dst = locDev l ∧
          y.addr = locLocal l ∧ y.len = 64 ∧ y.cont = .hubClaim slot pool nb old.toNat none 0)) ∧
      (Arrives s h kACK → h.len = 0 → mine kWRITE → r.cont = .coreAcc t slot → accOf s t slot = some a → a.store = true →
        Gives (.pktAck h) s (fun u => done u ∧ coreOf u t = { coreOf s t with accs := (coreOf s t).accs.filter (fun y => y.slot != slot) })) ∧
      (Arrives s h kERROR → mine kREAD → r.cont = .coreAcc t slot → accOf s t slot = some a → (coreOf s t).task.any (fun y => y.id == a.tag) = true →
        Gives (.pktError h code) s (fun u => (untraced → u.reqs = s.reqs.filter (fun y => y.tag != tag)) ∧ (coreOf u t).task = none ∧
          (LedgerRoom s → Reported u t 0x24 CONTAIN) ∧
          (csrF s (tileCsr t 0x38) 8 1 = 0 → csrGet u (tileCsr t 0x38) = 0x108 ∧ csrGet u (tileCsr t 0x40) = BitVec.ofNat 64 (a.pc % 2 ^ 17))))

/-- R280, R297, R313. A peer's signal or add acts on the tile's object and is acknowledged, one that would break its limit is recorded there and answered with
SYNC_MISUSE; a peer's arrival is counted for the generation being collected or held for the next, and any other tag is a misuse.
Where the manual leaves it open it follows log entry 31, the model's choice. -/
def Obligations.PeersSignalAndArrive : Prop :=
  ∀ (s : State) (h : Hdr) (d : BitVec 8) (n : BitVec 8) (m : BitVec 6) (amount : BitVec 32) (b : BitVec 5) (tag : BitVec 2) (slot : BitVec 3),
    let t := d.toNat
    let x := amount.toNat
    let k := b.toNat
    let sig : Instr := .pktSignal h d (n.zeroExtend 12) amount
    let tal : Instr := .pktTally h d (m.zeroExtend 12) amount
    let arr : Instr := .pktBarArrive h b tag slot
    let dev := h.src.toNat
    let f := fabBar s k
    let step := (tag.toNat + 4 - (csrF s (fabState k) 42 22 + 1) % 4) % 4
    let depth := tallyDepth s t m.toNat
    let gap := tallyGap (tallyVal s t m.toNat + x) (csrF s (tallyAddr t m.toNat) 32 32)
    Inv s →
      (Arrives s h kSIGNAL → 0 < x →
        (semVal s t n.toNat + x < 2 ^ 32 → semQueue s t n.toNat = [] →
          Gives sig s (fun u => semVal u t n.toNat = semVal s t n.toNat + x ∧ Replies s u h kACK [] false ∧ SameMem s u)) ∧
        (2 ^ 32 ≤ semVal s t n.toNat + x →
          Gives sig s (fun u => Misused s u t 0 n.toNat 2 ∧ Replies s u h kERROR (leBytes 8 eSYNC_MISUSE) false ∧ SameMem s u))) ∧
      (Arrives s h kSIGNAL → ∀ o : BitVec 12, 256 ≤ o.toNat →
        Gives (.pktSignal h d o amount) s (fun u => Replies s u h kERROR (leBytes 8 eSYNC_MISUSE) false ∧ SameMem s u)) ∧
      (Arrives s h kTALLY → 0 < x →
        (gap ≤ depth → Gives tal s (fun u => tallyVal u t m.toNat = (tallyVal s t m.toNat + x) % 2 ^ 32 ∧ SameMem s u)) ∧
        (depth < gap → Gives tal s (fun u => Misused s u t 1 m.toNat 3 ∧ Replies s u h kERROR (leBytes 8 eSYNC_MISUSE) false ∧
          tallyVal u t m.toNat = tallyVal s t m.toNat ∧ SameMem s u))) ∧
      (Arrives s h kBAR_ARRIVE → dev / 16 = ownId s / 16 →
        (step = 0 → csrF s (fabState k) 40 1 = 0 → Gives arr s (fun u => SameMem s u ∧ u.outbox = s.outbox ∧
          (∀ y, y ∈ (fabBar u k).counted ↔ y = dev ∨ y ∈ f.counted) ∧ (fabBar u k).held = f.held ∧ csrF u (fabState k) 42 22 = csrF s (fabState k) 42 22)) ∧
        (step = 1 → Gives arr s (fun u => SameMem s u ∧ u.outbox = s.outbox ∧ (∀ y, y ∈ (fabBar u k).held ↔ y = dev ∨ y ∈ f.held) ∧
          (fabBar u k).counted = f.counted)) ∧
        (2 ≤ step → Gives arr s (fun u => Misused s u (fabTile s) 3 k 4 ∧ fabBar u k = f)))

/-- R100, R200, R201, R440, R441, R442. A peer's partial row is merged or refused; a COLL packet that comes early is held, one that disagrees with the running
plan's context stops the run, one of values joins the output, one with a packed element that is no such element merges nothing; a finished collective writes every element, counts its completion and leaves its context idle.
Where the manual leaves it open it follows log entries 19, 31 and 56, the model's choice. -/
def Obligations.PartialsAndCollectivesMerge : Prop :=
  ∀ (s s1 : State) (h : Hdr) (t : BitVec 8) (row : List Byte) (b : BitVec 4) (seq : BitVec 8) (op red : BitVec 4) (elems first : BitVec 40)
    (stage : BitVec 2) (data : List Byte) (c : Coll) (i e : Nat),
    let x := b.toNat
    let d := collDesc s x
    let pkt : Instr := .pktColl h b seq op red elems stage first data
    let kept : CollPkt := { src := h.src.toNat, ctx := x, seq := seq.toNat, stage := stage.toNat, first := first.toNat, psn := h.poison, data := data }
    let agrees : Prop := cdOp d = op.toNat ∧ cdRed d = red.toNat ∧ cdElems d = elems.toNat
    let comes : Prop := Arrives s h kCOLL ∧ h.len.toNat = data.length + 15
    let bytes := cdOutB d
    let l := BitVec.ofNat 64 (getF d 128 64)
    let at_ := rgnBase s (locIdx l) + locOff l + (e - (collOutElems s d).2) * bytes
    let done := getF d 320 8
    let n := getF d 328 6
    Inv s →
      (Arrives s h kPARTIAL →
        (combMerge s t.toNat row h.poison = (true, s1) → Gives (.pktPartial h t row) s (fun u => u = { s1 with csr := u.csr, links := u.links, outbox := u.outbox } ∧
          Replies s1 u h kACK [] false)) ∧
        (cctxOf s t.toNat (ofLE ((row.drop 8).take 8) / 2 ^ 38 % 16) = none → Gives (.pktPartial h t row) s (fun u => u.tiles = s.tiles ∧ SameMem s u ∧
          Replies s u h kERROR (leBytes 8 ePARTIAL_REFUSED) false ∧ csrGet u (tileCsr t.toNat 0x3060) = csrGet s (tileCsr t.toNat 0x3060) + 1 ∧
          (LedgerRoom s → Reported u (0x200 + t.toNat) 0x04 NOTE)))) ∧
      (comes → fabricSlot s = none →
        ((∃ j p, j < 8 ∧ planOf s j = some p ∧ p.fabric = true) → Gives pkt s (fun u => u = { s with collHeld := s.collHeld ++ [kept] })) ∧
        ((∀ j p, j < 8 → planOf s j = some p → p.fabric = false) → Gives pkt s (fun u => u = { s with csr := u.csr } ∧
          csrGet u (fabCsr (0x8048 + 0x80 * h.port.toNat)) = csrGet s (fabCsr (0x8048 + 0x80 * h.port.toNat)) + 1))) ∧
      (comes → fabricSlot s = some i →
        (¬ agrees → Gives pkt s (fun u => RunFailed u i 0x3200 0x34 ∧ (LedgerRoom s → Reported u 0x3200 0x34 CONTAIN) ∧
          (csrF s (fabCsr 0x18) 13 1 = 0 → csrGet u (fabCsr 0x18) = 0x2005))) ∧
        (agrees → (∀ y ∈ s.colls, y.ctx = x → y.seq ≠ seq.toNat) → Gives pkt s (fun u => u = { s with collHeld := s.collHeld ++ [kept] })) ∧
        (agrees → s.colls.find? (fun y => y.ctx == x && y.seq == seq.toNat) = some c → c.ctx = x → 2 ≤ stage.toNat → 2 ≤ c.stage → data.length = bytes →
          0 < bytes → Gives pkt s (fun u => SameMem s u ∧ ∃ y ∈ u.colls, y.ctx = x ∧ y.seq = c.seq ∧ y.acc = c.acc ∧
            assocGet y.out first.toNat = some (ofLE data, h.poison) ∧ ∀ j, j ≠ first.toNat → assocGet y.out j = assocGet c.out j)) ∧
        (agrees → s.colls.find? (fun y => y.ctx == x && y.seq == seq.toNat) = some c → stage.toNat < 2 → cdSum d = true →
          readPacked (cdCls d) data.length data = none → Gives pkt s (fun u => SameMem s u ∧ c ∈ u.colls ∧ u.collHeld = s.collHeld ∧
            (LedgerRoom s → Reported u 0x3200 0x20 CONTAIN)))) ∧
      (s.colls.find? (fun y => y.ctx == x && decide (4 ≤ y.stage)) = some c →
        (c.stage = 4 → e ∈ (collOutElems s d).1 → mirroring s = false →
          Gives (.collectiveDone b) s (fun u => memNat u at_ bytes = ((assocGet c.out e).getD (0, false)).1 % 2 ^ (8 * bytes))) ∧
        (c.stage = 5 → agentPending s (32 * (1000000 + x)) = true → Waits (.collectiveDone b) s) ∧
        (c.stage = 5 → agentPending s (32 * (1000000 + x)) = false → csrF s (collStateAddr x) 9 23 = 0 → getF d 272 8 ≠ done ∨ getF d 280 6 ≠ n →
          tallyGap (tallyVal s done n + 1) (csrF s (tallyAddr done n) 32 32) ≤ tallyDepth s done n →
          Gives (.collectiveDone b) s (fun u => tallyVal u done n = (tallyVal s done n + 1) % 2 ^ 32 ∧ csrF u (collStateAddr x) 0 1 = 0 ∧
            (∀ y ∈ u.colls, y.ctx ≠ x) ∧ SameMem s u)))

/-- R423, R424, R427, R432. Every kind of packet: one that breaks a rule is discarded, counted and noted, one from outside the shape goes back as ERROR OUTSIDE, one
for another module goes on by its route with one more hop, and is discarded at its eighth; a module in reset answers nothing.
Where the manual leaves it open it follows log entries 32 and 33, the model's choice. -/
def Obligations.EveryPacketIsCheckedAndForwarded : Prop :=
  ∀ (s : State) (h : Hdr) (data : List Byte) (aop : BitVec 4) (w64 signed want : Bool) (v w : Word) (code t : BitVec 8) (n : BitVec 12) (amount : BitVec 32)
    (b : BitVec 5) (gen : BitVec 2) (slot : BitVec 3) (fencer : BitVec 11) (q : Nat) (ctx op red : BitVec 4) (elems first : BitVec 40),
    let coll : List Byte := leBytes 1 ctx.toNat ++ leBytes 1 t.toNat ++ leBytes 1 (op.toNat + 16 * red.toNat) ++ leBytes 1 gen.toNat ++
      leBytes 6 elems.toNat ++ leBytes 6 first.toNat ++ data
    let rows : List (Instr × Nat × List Byte × Bool) :=
      [(.pktRead h, kREAD, [], true), (.pktWrite h data, kWRITE, data, lenIs h data.length && data != []),
       (.pktAtomic h aop w64 signed want v w, kATOMIC, leBytes 1 aop.toNat ++ leBytes 1 (bit w64 + 2 * bit signed + 4 * bit want) ++ leBytes 6 0 ++
         leBytes 8 v.toNat ++ leBytes 8 w.toNat, true),
       (.pktReadResp h data, kREAD_RESP, data, lenIs h data.length && data != []), (.pktAtomicResp h v, kATOMIC_RESP, leBytes 8 v.toNat, true),
       (.pktAck h, kACK, [], lenIs h 0), (.pktError h code, kERROR, leBytes 8 code.toNat, true),
       (.pktSignal h t n amount, kSIGNAL, syncData t.toNat n.toNat amount.toNat, true), (.pktTally h t n amount, kTALLY, syncData t.toNat n.toNat amount.toNat, true),
       (.pktBarArrive h b gen slot, kBAR_ARRIVE, arriveData b.toNat gen.toNat slot.toNat, true), (.pktPartial h t data, kPARTIAL, data, true),
       (.pktProbe h, kPROBE, [], lenIs h 0), (.pktProbeAck h, kPROBE_ACK, [], lenIs h 0),
       (.pktMgmt h data, kMGMT, data, lenIs h data.length && data != []), (.pktFence h fencer, kFENCE, leBytes 8 fencer.toNat, true),
       (.pktMirror h data, kMIRROR, data, lenIs h data.length && data != []),
       (.pktColl h ctx t op red elems gen first data, kCOLL, coll, lenIs h coll.length)]
    let p := h.port.toNat
    let dst := h.dst.toNat
    let lost (u : State) : Prop := csrGet u (fabCsr (0x8048 + 0x80 * p)) = csrGet s (fabCsr (0x8048 + 0x80 * p)) + 1
    Inv s → p < 24 → portUp s p = true → ∀ r ∈ rows,
      let kind := r.2.1
      let bad : Prop := h.wellFormed = false ∨ r.2.2.2 = false ∨ wrongPort p kind = true
      (deaf s = true → Waits r.1 s) ∧
      (deaf s = false → bad → Gives r.1 s (fun u => u = { s with csr := u.csr, ledger := u.ledger } ∧ lost u ∧ (LedgerRoom s → Reported u (0x4000 + p) 0x04 NOTE))) ∧
      (deaf s = false → ¬ bad → s.shape.contains h.src.toNat = false → Gives r.1 s (fun u => SameMem s u ∧ u.tiles = s.tiles ∧
        (LedgerRoom s → Reported u (0x5000 + h.src.toNat) 0x04 NOTE) ∧ ∃ x : Packet, u.outbox = s.outbox ++ [.packet x] ∧ x.kind = kERROR ∧
          x.dst = h.src.toNat ∧ x.port = some p ∧ x.tag = h.tag.toNat ∧ x.data = leBytes 8 eOUTSIDE)) ∧
      (deaf s = false → ¬ bad → s.shape.contains h.src.toNat = true → dst ≠ ownId s → asTwin s dst = false → p ≠ 23 →
        (h.hop.toNat = 7 → Gives r.1 s (fun u => u = { s with csr := u.csr } ∧ lost u)) ∧
        (h.hop.toNat < 7 → h.nonmin = false → route s (servedDev s dst) = some (q, none) →
          Gives r.1 s (fun u => u = { s with csr := u.csr, links := u.links, outbox := u.outbox } ∧ ∃ x : Packet, u.outbox = s.outbox ++ [.packet x] ∧
            x.kind = kind ∧ x.src = h.src.toNat ∧ x.dst = dst ∧ x.port = some q ∧ x.tag = h.tag.toNat ∧ x.data = r.2.2.1 ∧ x.poison = h.poison ∧
            x.hop = h.hop.toNat + 1)))

/-- R457, R460, R447, R463, R466, R373. A mirrored write reaches its shadow and is acknowledged on port 23, one that no shadow covers ends the pairing in SPLIT; a
PROBE is answered at once; a steward message is kept or acted on, or BUSY where none can be taken; FENCE halts the module in state TAKEN.
Where the manual leaves it open it follows log entries 33 and 35, the model's choice. -/
def Obligations.TwinAndStewardPacketsAct : Prop :=
  ∀ (s s1 : State) (h : Hdr) (data : List Byte) (fencer : BitVec 11) (x : Shadow) (t : Nat),
    let a := h.addr.toNat
    let n := h.len.toNat + 1
    let d := h.src.toNat
    let steward := 0x1C0000000000
    let back (s u : State) (kind : Nat) (bs : List Byte) : Prop := ∃ p : Packet, u.outbox = s.outbox ++ [.packet p] ∧ p.kind = kind ∧ p.port = some 23 ∧
      p.tag = h.tag.toNat ∧ p.data = bs
    let quiet (u : State) : Prop := u = { s with csr := u.csr, links := u.links, outbox := u.outbox }
    Inv s →
      (Arrives s h kMIRROR → data.length = n → pairedNow s = true → a ≠ steward →
        (shadowAt s a n = some x → Gives (.pktMirror h data) s (fun u => memBytes u (shadowAddr s x a) n = data ∧ SameMemBut s u (shadowAddr s x a) n ∧
          back s u kACK [])) ∧
        (shadowAt s a n = none → (∀ r ∈ s.reqs, ∀ o k, r.cont ≠ .mirror o k) → Gives (.pktMirror h data) s (fun u => twinState u = 3 ∧ SameMem s u ∧
          (csrF s (twnCsr 0x18) 8 1 = 0 → csrGet u (twnCsr 0x18) = 0x103) ∧ (LedgerRoom s → Reported u 0x6000 0x38 DEGRADE)))) ∧
      (Arrives s h kMIRROR → data.length = n → pairedNow s = true → a = steward → takeRecord s data h.poison = some s1 →
        Gives (.pktMirror h data) s (fun u => u = { s1 with csr := u.csr, links := u.links, outbox := u.outbox } ∧ back s1 u kACK [])) ∧
      (Arrives s h kMIRROR → data.length = n → pairedNow s = false →
        Gives (.pktMirror h data) s (fun u => quiet u ∧ back s u kERROR (leBytes 8 eNO_TARGET))) ∧
      (Arrives s h kPROBE → h.len = 0 → Gives (.pktProbe h) s (fun u => quiet u ∧ Replies s u h kPROBE_ACK [] false)) ∧
      (Arrives s h kPROBE_ACK → h.len = 0 →
        (s.twin.probing = none → Gives (.pktProbeAck h) s (fun u => u = { s with probes := s.probes.filter (fun p => p.1 != d) })) ∧
        (s.twin.probing = some (t, false) → d = twinId s → Gives (.pktProbeAck h) s (fun u => u.twin.probing = some (t, true) ∧
          u.probes = s.probes.filter (fun p => p.1 != d)))) ∧
      (Arrives s h kMGMT → data.length = n →
        (Config.mgmtDepth < s.mgmtIn.length → Gives (.pktMgmt h data) s (fun u => quiet u ∧ Replies s u h kERROR (leBytes 8 eBUSY) false)) ∧
        (s.mgmtIn.length ≤ Config.mgmtDepth → keptMsg data = true → Gives (.pktMgmt h data) s (fun u =>
          u = { s with csr := u.csr, links := u.links, outbox := u.outbox, mgmtIn := s.mgmtIn ++ [(d, data)] } ∧ Replies s u h kACK [] false)) ∧
        (s.mgmtIn.length ≤ Config.mgmtDepth → keptMsg data = false → Gives (.pktMgmt h data) s (fun u => u.mgmtIn = s.mgmtIn ∧ SameMem s u))) ∧
      (Arrives s h kFENCE → Gives (.pktFence h fencer) s (fun u => twinState u = 5 ∧ halted u = true ∧ u.pins.heartbeat = false ∧
        (∀ k, k < 256 → (coreOf u k).task = none) ∧ (∀ i p, activeRun s i = some p → i < 8 → (runOf u i).map (fun y => y.2.state) = some 5) ∧
        (csrF s (twnCsr 0x18) 8 1 = 0 → csrGet u (twnCsr 0x18) = 0x104)))

/-- R424, R445, R446, R447, R448, R449, R462, R464, R466. Notices of a peer: SLOW until five milliseconds after the last one, DOWN and HALT end a FABRIC run unless a
twin serves the module, ABORT stops the run of its plan, TAKEOVER names the module that serves a device or takes this one's place, a beat keeps the pair alive; a
notice from outside the shape is answered with ERROR and changes nothing.
Where the manual leaves it open it follows log entries 33, 35 and 38, the model's choice. -/
def Obligations.NoticesSetThePeersState : Prop :=
  ∀ (s : State) (b x : BitVec 11) (cause st : BitVec 8) (time i : Nat) (id : Word),
    let d := b.toNat
    let y := x.toNat
    let peer : Prop := d ≠ ownId s ∧ s.shape.contains d = true ∧ deaf s = false
    let state (u : State) (j : Nat) : Nat := csrF u (peerAddr j) 0 2
    let named : List Instr := [.noticeDown b x, .noticeHalt b, .noticeAbort b id, .noticeTakeover b x, .noticeTakeoverEnd b x]
    Inv s →
      (d ≠ ownId s → s.shape.contains d = true → deaf s = true → ∀ c ∈ named, Waits c s) ∧
      (d ≠ ownId s → s.shape.contains d = false → deaf s = false → portUp s 23 = true → s.now ≤ time →
        ∀ c ∈ .noticeSlow b cause time :: .noticeBeat b st time :: named, Gives c s (fun u => SameMem s u ∧ u.tiles = s.tiles ∧ u.plans = s.plans ∧
          (LedgerRoom s → Reported u (0x5000 + d) 0x04 NOTE) ∧ ∃ p : Packet, u.outbox = s.outbox ++ [.packet p] ∧ p.kind = kERROR ∧ p.dst = d ∧
            p.data = leBytes 8 eOUTSIDE)) ∧
      (peer → s.now ≤ time → Gives (.noticeSlow b cause time) s (fun u => state u d = 1 ∧ csrF u (peerAddr d) 2 3 = cause.toNat % 8 ∧ u.now = time ∧
        tabGet (fun _ => 0) u.slowAt d = time ∧ SameMem s u)) ∧
      (peer → y ≠ ownId s → state s d < 2 → state s y ≠ 3 →
        (fabricSlot s = none → Gives (.noticeDown b x) s (fun u => u = { s with csr := u.csr } ∧ state u y = 2 ∧ SameCsrBut s u [peerAddr y])) ∧
        (fabricSlot s = some i → s.shape.contains y = true → twinAnswers s y = false → Gives (.noticeDown b x) s (fun u => state u y = 2 ∧
          RunFailed u i (0x5000 + y) 0x33 ∧ (LedgerRoom s → Reported u (0x5000 + y) 0x33 CONTAIN)))) ∧
      (peer → y = ownId s → state s d < 2 → Gives (.noticeDown b x) s (fun u => u = s)) ∧
      (peer → d ≠ twinId s → (∀ r ∈ s.reqs, r.dst ≠ d) →
        (fabricSlot s = none → Gives (.noticeHalt b) s (fun u => u = { s with csr := u.csr } ∧ state u d = 3)) ∧
        (fabricSlot s = some i → twinAnswers s d = false → Gives (.noticeHalt b) s (fun u => state u d = 3 ∧ RunFailed u i (0x5000 + d) 0x33 ∧
          (LedgerRoom s → Reported u (0x5000 + d) 0x33 CONTAIN)))) ∧
      (peer → state s d < 2 → (activeSlots s).filter (fun j => ((planOf s j).map (fun p => p.id)) == some id) = [] →
        Gives (.noticeAbort b id) s (fun u => u = s)) ∧
      (peer → state s d < 2 → (activeSlots s).filter (fun j => ((planOf s j).map (fun p => p.id)) == some id) = [i] →
        Gives (.noticeAbort b id) s (fun u => RunFailed u i (0x5000 + d) 0x27 ∧ (LedgerRoom s → Reported u (0x5000 + d) 0x27 CONTAIN) ∧
          (csrF s (fabCsr 0x18) 13 1 = 0 → csrGet u (fabCsr 0x18) = 0x2008))) ∧
      (peer → y ≠ ownId s → y ≠ d → (∀ e ∈ s.servedBy, e.1 ≠ d) → (∀ r ∈ s.reqs, r.dst ≠ y) →
        Gives (.noticeTakeover b x) s (fun u => servedDev u y = d ∧ csrF u (peerAddr y) 5 1 = 1 ∧ csrF u (peerAddr d) 5 1 = 0 ∧
          u.probes = s.probes.filter (fun p => p.1 != y) ∧ SameMem s u)) ∧
      (peer → y = ownId s → s.rest = 0 → twinState s ≠ 4 → Gives (.noticeTakeover b x) s (fun u => twinState u = 5 ∧ halted u = true)) ∧
      (peer → Gives (.noticeTakeoverEnd b x) s (fun u => servedDev u y = y ∧ csrF u (peerAddr y) 5 1 = 0 ∧ state u y = 0 ∧ SameMem s u)) ∧
      (peer → portUp s 23 = true → s.now ≤ time → d = twinId s → pairedNow s = true →
        (st.toNat ≠ 3 → Gives (.noticeBeat b st time) s (fun u => u.now = time ∧ u.twin.lastBeat = time ∧ u.twin.probing = none ∧ twinState u = twinState s ∧
          SameMem s u)) ∧
        (st.toNat = 3 → Gives (.noticeBeat b st time) s (fun u => twinState u = 3)))

/-- R446, R447, R462, R463. Timers of the fabric and the twin: an unanswered request fails and its target is probed, an unanswered probe makes it DOWN, SLOW ends
and is renewed, beats go out, a silent twin is probed, a probe's outcome is SPLIT or the loss of the twin, a fence that is not acknowledged ends in TAKEOVER.
Where the manual leaves it open it follows log entry 35, the model's choice. -/
def Obligations.FabricAndTwinTimersExpire : Prop :=
  ∀ (s : State) (g : BitVec 24) (b : BitVec 11) (time t : Nat) (r : Req) (a : CoreAcc) (k slot : Nat),
    let d := b.toNat
    let beat := csrF s (twnCsr 0x08) 0 16 * 1000
    let x := twinId s
    let serves (u : State) : Prop := twinState u = 4 ∧ servedDev u x = ownId s ∧ csrF u (peerAddr x) 5 1 = 1 ∧ u.twin.fencing = none ∧ u.twin.probing = none
    Inv s → s.now ≤ time → k < 256 →
      (reqOf s g.toNat = some r → r.held = false → r.kind = kREAD → csrF s (peerAddr r.dst) 0 2 ≠ 1 → r.sentAt + csrF s (fabCsr 0) 13 14 * 1000000 ≤ time →
        (∀ y ∈ s.reqs, y.held = false) → r.discard = false → r.cont = .coreAcc k slot → accOf s k slot = some a →
        (coreOf s k).task.any (fun y => y.id == a.tag) = true → Gives (.reqTimeout g time) s (fun u => u.now = time ∧ (coreOf u k).task = none ∧ (∃ y ∈ u.probes, y.1 = r.dst) ∧
          (csrF s (tileCsr k 0x38) 8 1 = 0 → csrGet u (tileCsr k 0x38) = 0x108) ∧
          (csrF s (fabCsr 0x18) 13 1 = 0 → csrGet u (fabCsr 0x18) = 0x2007))) ∧
      (s.probes.find? (fun p => p.1 == d) = some (d, t) → t + 1000000 ≤ time → csrF s (peerAddr d) 0 2 ≠ 3 →
        Gives (.probeTimeout b time) s (fun u => u.now = time ∧ csrF u (peerAddr d) 0 2 = 2 ∧ u.probes = s.probes.filter (fun p => p.1 != d))) ∧
      (s.gov.slowAt = some t → t + 1000000 ≤ time → slowCause s ≠ 0 →
        Gives (.slowRenew time) s (fun u => u.now = time ∧ u.gov.slowAt = some time ∧ SameMem s u)) ∧
      (csrF s (peerAddr d) 0 2 = 1 → tabGet (fun _ => 0) s.slowAt d + 5000000 ≤ time →
        Gives (.slowExpire b time) s (fun u => u.now = time ∧ csrF u (peerAddr d) 0 5 = 0 ∧ SameMem s u)) ∧
      (pairedNow s = true → halted s = false → time % beat = 0 →
        Gives (.twinBeatTimer time) s (fun u => u.now = time ∧ SameMem s u ∧
          csrGet u (twnCsr 0x58) = csrGet s (twnCsr 0x58) + (if s.twin.lastBeat + beat ≤ time then 1 else 0) ∧
          ∃ p : Packet, u.outbox = s.outbox ++ [.packet p] ∧ p.kind = kNOTICE ∧ p.port = some 23 ∧ p.data = noticeData 7 (twinState s) (ownId s) 0)) ∧
      (pairedNow s = true → halted s = false → s.twin.probing = none → s.twin.lastBeat + csrF s (twnCsr 0x08) 16 16 * 1000 ≤ time →
        Gives (.twinBeatMiss time) s (fun u => u.now = time ∧ u.twin.probing = some (time, false) ∧ SameMem s u)) ∧
      (s.twin.probing = some (t, true) → twinState s ≠ 3 → Gives (.twinProbeResult true) s (fun u => twinState u = 3 ∧ u.twin.probing = none)) ∧
      (s.twin.probing = some (t, false) → pairedNow s = true →
        (csrF s (twnCsr 0) 1 1 = 0 → Gives (.twinProbeResult false) s (fun u => twinState u = 3)) ∧
        (csrF s (twnCsr 0) 1 1 = 1 → activeSlots s = [] → (∀ y ∈ s.reqs, ∀ o c, y.cont ≠ .mirror o c) → Gives (.twinProbeResult false) s serves)) ∧
      (s.twin.fencing = some t → t + 1000000 ≤ time → activeSlots s = [] → (∀ y ∈ s.reqs, ∀ o c, y.cont ≠ .mirror o c) →
        Gives (.fenceTimeout time) s (fun u => serves u ∧ u.now = time))

/-! ### Ledger (chapter 20) -/

/-- R513, R515, R516, R517, R519, R521, R522, R528. The head of the queue is recorded with its level under the next sequence number; CONTAIN stops the plan of its
source, DEGRADE asserts ALERT# and isolates a failing tile, HALT halts the module; a repeat within COALESCE only counts. GRACE escalates what nobody acknowledged,
QUIET_PERIOD takes promotion away, LDG_ACK clears what is pending, LDG_INJ arms an injection, HEARTBEAT toggles.
Where the manual leaves it open it follows log entries 4, 53 and 63, the model's choice. -/
def Obligations.LedgerRecordsActsAndRecovers : Prop :=
  ∀ (s : State) (o : Option Msg) (m : Msg) (rest : List Msg) (n i time g t q : Nat) (c : ClassEnt) (r : LogRec) (x : BitVec 16) (y : BitVec 8) (v : Word),
    let l := s.ledger
    let src := m.source.toNat
    let kind := m.kind.toNat
    let lev := m.level.toNat
    let rec_ (u : State) (m : Msg) (level : Nat) (up : Bool) : Prop :=
      (tabGet (fun _ => none) u.ledger.ring (l.nextSeq % 4096)).map (fun z => (z.msg, z.level, z.seq, z.escalated)) = some (m, level, l.nextSeq, up)
    let heads : Prop := ((o = none ∧ l.queue = m :: rest) ∨ (o = some m ∧ l.queue = [] ∧ rest = [])) ∧ l.held = [] ∧ l.dropped = false
    let fresh : Prop := classOf s src kind = none ∧ firstGap 0 (l.classes.map (fun e => e.1)) < 1023 ∧ 2 ≤ faultN s
    Inv s →
      (heads → fresh →
        (lev = 0 → Gives (.faultMessage o) s (fun u => rec_ u m 0 false ∧ u.ledger.queue = rest ∧ csrGet u (ldgCnt 0) = csrGet s (ldgCnt 0) + 1 ∧
          (∃ z, classOf u src kind = some z ∧ z.2.p = 0 ∧ z.2.pending = none ∧ z.2.times = [extendTime s m]) ∧ SameMem s u ∧ u.tiles = s.tiles ∧
          u.plans = s.plans)) ∧
        (lev = 1 → slotOfSource s src = some i → Gives (.faultMessage o) s (fun u => rec_ u m 1 false ∧ RunFailed u i src kind)) ∧
        (lev = 2 → src / 0x1000 = 0 → kind = 0x11 → halted s = false → Gives (.faultMessage o) s (fun u => rec_ u m 2 false ∧ u.pins.alert = true ∧
          src % 256 ∈ u.ledger.isoTiles)) ∧
        (lev = 3 → s.rest = 0 → Gives (.faultMessage o) s (fun u => rec_ u m 3 false ∧ u.pins.alert = true ∧ halted u = true))) ∧
      (heads → classOf s src kind = some (n, c) → c.last = some (t, q) → extendTime s m < t + coalesceNs s → lev = 0 →
        Gives (.faultMessage o) s (fun u => u.ledger.nextSeq = l.nextSeq ∧ u.ledger.queue = rest ∧ csrGet u (ldgCnt 1) = csrGet s (ldgCnt 1) + 1 ∧
          SameCsrBut s u [ldgCnt 1] ∧ SameMem s u)) ∧
      (classOf s x.toNat y.toNat = some (n, c) → c.pending = some r → c.graceAt = some g → g ≤ time → s.now ≤ time → halted s = false →
        Gives (.graceExpiry x y time) s (fun u => rec_ u r.msg (min (r.level + 1) 3) true ∧ u.now = time ∧
          csrGet u (ldgCnt 4) = csrGet s (ldgCnt 4) + 1 ∧ (classAt u n).map (fun z => z.p) = some (min (c.p + 1) 3) ∧
          (1 ≤ r.level → u.pins.alert = true) ∧ (2 ≤ r.level → s.rest = 0 → halted u = true))) ∧
      (classOf s x.toNat y.toNat = some (n, c) → c.p ≠ 0 → c.pending = none → c.lastSeen + quietNs s ≤ time → s.now ≤ time → halted s = false →
        firstGap 0 (l.classes.map (fun e => e.1)) < 1023 →
        Gives (.quietPeriod x y time) s (fun u => u.now = time ∧ csrGet u (ldgCnt 5) = csrGet s (ldgCnt 5) + 1 ∧
          (classAt u n).map (fun z => (z.p, z.recoveries)) = some (0, min (c.recoveries + 1) (2 ^ 21 - 1)) ∧
          (tabGet (fun _ => none) u.ledger.ring (l.nextSeq % 4096)).map (fun z => (z.msg.source.toNat, z.msg.kind.toNat, z.level)) = some (0xB000, 0x58, 0))) ∧
      (stewardUp s = true → classOf s (getF v 0 16) (getF v 16 8) = some (n, c) →
        Gives (.ldgAck .steward v) s (fun u => u = { s with csr := u.csr, ledger := u.ledger } ∧ SameCsrBut s u [] ∧
          classAt u n = some (if getF v 24 1 = 1 then { c with pending := none, graceAt := none, p := 0, times := [] } else { c with pending := none, graceAt := none }) ∧
          ∀ j, j ≠ n → classAt u j = classAt s j)) ∧
      (stewardUp s = true →
        (csrF s (ldgCsr 0) 1 1 = 1 → getF v 24 16 ≠ 0 → getF v 16 8 = 0x10 ∨ getF v 16 8 = 0x11 ∨ getF v 16 8 = 0x12 ∨ getF v 16 8 = 0x30 →
          Gives (.ldgInjArm .steward v) s (fun u => u.ledger.inj = l.inj ++ [⟨getF v 0 16, getF v 16 8, getF v 24 16, csrF s (ldgCsr 0x30) 0 45⟩] ∧ SameMem s u)) ∧
        (csrF s (ldgCsr 0) 1 1 = 0 → Gives (.ldgInjArm .steward v) s (fun u => u = { s with csr := u.csr } ∧ SameCsrBut s u [ldgCsr 0x28]))) ∧
      (s.pins.heartbeatOn = true → s.now ≤ time → s.pins.heartbeatAt + 500000 ≤ time →
        Gives (.heartbeatToggle time) s (fun u => u.now = time ∧ u.pins = { s.pins with heartbeat := !s.pins.heartbeat, heartbeatAt := time }))

/-! ### Governor and supply (chapter 19) -/

/-- R494, R495, R497, R498, R502, R503, R506, R508. Above the cap the governor takes 20 mV from VCORE down to 0.60 V and then admission from the first class above its
floor; freed power gives steps back; a hot sensor, an over-current warning and a brownout limit at once and are reported.
Where the manual leaves it open it follows log entries 6 and 34, the model's choice. -/
def Obligations.GovernorLimitsAndReleases : Prop :=
  ∀ (s : State) (w : BitVec 11) (b : BitVec 7) (reading : BitVec 16) (time t v : Nat),
    let p := w.toNat
    let g := s.gov
    let target := govTarget s
    let k := b.toNat
    let x := reading.toInt
    let hist := (p :: g.powerHist).take 20
    let admits (u : State) (n : Nat) : Prop := ∀ j, j < 5 → csrF u (govCsr 0x20) (7 * j) 7 ≤ n
    let tick (Q : State → Prop) : Prop := Gives (.govTick w time) s (fun u => u.now = time ∧ SameMem s u ∧
      csrF u (govCsr 0x18) 10 11 = hist.foldl (fun a b => a + b) 0 / hist.length % 2048 ∧ Q u)
    Inv s → govUp s = true → s.now ≤ time →
      (time % 50000 = 0 → csrF s (govCsr 0) 1 1 = 0 → s.colls = [] → capW s < p →
        (600 < min g.cap.vcore target → tick (fun u => u.gov.cap = { g.cap with vcore := max 600 (min g.cap.vcore target - 20) } ∧ u.gov.belowSince = none)) ∧
        (min g.cap.vcore target ≤ 600 → tick (fun u => u.gov.cap = ⟨600, lowerAdmit g.cap.admits⟩))) ∧
      (time % 50000 = 0 → csrF s (govCsr 0) 1 1 = 1 → p ≤ 1500 → tick (fun u => u.gov.cap = g.cap ∧ csrF u (govCsr 0) 1 1 = 1)) ∧
      (time % 50000 = 0 → csrF s (govCsr 0) 1 1 = 1 → 1500 < p → tick (fun u => csrF u (govCsr 0) 1 1 = 0)) ∧
      (time % 50000 = 0 → csrF s (govCsr 0) 1 1 = 0 → p ≤ capW s → 100 * p ≤ 98 * capW s → g.belowSince = some t → t + 2000000 ≤ time →
        g.raisedAt + 200000 ≤ time → (∀ a ∈ g.cap.admits, a = 64) → g.cap ≠ Limit.max →
        tick (fun u => u.gov.raisedAt = time ∧ u.gov.cap = { g.cap with vcore := if g.cap.vcore + 20 < target then g.cap.vcore + 20 else 850 })) ∧
      (k < 96 →
        (sensorBad s k x = true → k ∉ g.excluded → Gives (.thermalSample b reading time) s (fun u => u.now = time ∧ k ∈ u.gov.excluded ∧
          (LedgerRoom s → Reported u 0x9001 0x49 NOTE))) ∧
        (sensorBad s k x = false → 11000 ≤ x → g.emergency = false → Gives (.thermalSample b reading time) s (fun u => u.now = time ∧ u.gov.emergency = true ∧
          admits u 16 ∧ csrF u (govCsr 0x18) 0 10 ≤ 600 ∧ csrF u (govCsr 0x18) 25 1 = 1 ∧ (LedgerRoom s → Reported u 0x9001 0x42 DEGRADE)))) ∧
      (g.fast = none → Gives .overcurrentWarning s (fun u => u.gov.fast = some s.now ∧ admits u 16 ∧ csrF u (govCsr 0x18) 23 1 = 1 ∧
        csrGet u (govCsr 0x48) = csrGet s (govCsr 0x48) + 1 ∧ (LedgerRoom s → Reported u 0x9002 0x47 NOTE))) ∧
      (g.fast = some t → t + 100000 ≤ time → Gives (.fastLimitRelease time) s (fun u => u.now = time ∧ u.gov.fast = none ∧
        u.gov.cap = { g.cap with admits := minAdmit g.cap.admits [16, 16, 16, 16, 16] } ∧ csrF u (govCsr 0x18) 23 1 = 0)) ∧
      (g.brown = none → Gives .brownoutEnter s (fun u => u.gov.brown = some (csrF s (govCsr 0x18) 0 10, s.now) ∧ admits u 32 ∧
        csrGet u (govCsr 0x58) = csrGet s (govCsr 0x58) + 1 ∧ csrF u (govCsr 0x18) 27 1 = 1 ∧ (LedgerRoom s → Reported u 0x9000 0x44 NOTE))) ∧
      (g.brown = some (v, t) → t + 1000000 ≤ time → Gives (.brownoutExit time) s (fun u => u.now = time ∧ u.gov.brown = none ∧ csrF u (govCsr 0x18) 27 1 = 0)) ∧
      Gives .vcoreDroop s (fun u => u = { s with csr := u.csr, ledger := u.ledger } ∧ (LedgerRoom s → Reported u 0x9002 0x46 NOTE))

/-! ### Resets, boot and Rest (chapter 21) -/

/-- R472, R505, R507, R508, R531, R536, R537, R569, R573. What removes the main rails or resets the main domain loses DRAM and tile SRAM: nothing defined is stored
there; plans, tiles and requests are gone, and boot goes on from the stage of Table 21-1. The trips are recorded for the flash log as a HALT, with ALERT#. The PCIe link trains again when PERST# is
released, and less than its full rate or width is noted.
Where the manual leaves it open it follows log entries 49 and 63, the model's choice. -/
def Obligations.PowerAndResetsTakeTheMainDomain : Prop :=
  ∀ (s : State) (n : BitVec 7) (time t0 : Nat),
    let lost (u : State) (a : Nat) : Prop := ∃ g, s.freeCtr ≤ g ∧ memByte u a = Config.freeByte g a
    let gone (u : State) : Prop := (∀ a, a < dramTop ∨ (sramBase ≤ a ∧ a < sramTop) → lost u a) ∧ u.tiles = [] ∧ u.plans = [] ∧ u.reqs = [] ∧ u.semQ = [] ∧
      u.pending = s.pending ∧ u.pins.ready = false ∧ u.pins.heartbeatOn = false ∧ (∀ i, i < 4096 → rgnValid u i = false)
    let off (u : State) : Prop := gone u ∧ u.pins.mains = false ∧ u.pins.pwrfail = true
    let stage : Nat := if s.boot = 1 then 1 else 2
    let logged (u : State) (src kind : Nat) : Prop := u.pins.alert = true ∧ ∃ r, u.ledger.backlog = s.ledger.backlog ++ [r] ∧ r.level = 3 ∧
      r.msg.source = BitVec.ofNat 16 src ∧ r.msg.kind = BitVec.ofNat 8 kind
    Inv s →
      (s.pins.mains = true → n.toNat < 96 →
        Gives (.thermtrip n) s (fun u => off u ∧ u.boot = stage ∧ u.pins.thermtrip = true ∧ logged u 0x9001 0x43)) ∧
      (s.pins.mains = true → s.gov.failAt = none → s.now ≤ time → Gives (.powerFail time) s (fun u => u.pins.pwrfail = true ∧ u.pins.mains = true ∧
        u.gov.failAt = some time ∧ u.now = time)) ∧
      (s.gov.failAt = some t0 → s.now ≤ time → time ≤ t0 + 2000000 →
        Gives (.holdupEnd time) s (fun u => off u ∧ u.boot = stage ∧ u.gov.failAt = none ∧ u.now = time ∧ logged u 0x9000 0x45)) ∧
      (s.pins.mains = true → s.boot ≠ 8 →
        Gives .vcoreSupervisor s (fun u => gone u ∧ u.pins.mains = true ∧ u.boot = (if s.pins.moduleReset then 8 else 3) ∧ logged u 0x9002 0x46)) ∧
      (s.pins.aux = true → Gives .auxLoss s (fun u => off u ∧ u.boot = 8 ∧ u.pins.aux = false)) ∧
      (s.pins.aux = false → Gives .auxPowerOn s (fun u => gone u ∧ u.pins.mains = false ∧ u.pins.aux = true ∧ u.boot = 1 ∧ u.now = 0 ∧
        u.pins.thermtrip = false ∧ u.ledger.nextSeq = 0)) ∧
      (s.pins.aux = true →
        (s.pins.pwrEn = false → Gives .pwrEnAssert s (fun u => u = { s with pins := { s.pins with pwrEn := true } })) ∧
        (s.pins.pwrEn = true → s.pins.mains = true → Gives .pwrEnRelease s (fun u => off u ∧ u.boot = stage ∧ u.pins.pwrEn = false)) ∧
        (s.pins.pwrEn = true → s.pins.mains = false → Gives .pwrEnRelease s (fun u => u = { s with pins := { s.pins with pwrEn := false } }))) ∧
      (s.pins.moduleReset = false →
        (s.pins.pwrEn = true → s.boot ≠ 1 → s.boot ≠ 2 → Gives .moduleResetAssert s (fun u => gone u ∧ u.boot = 8 ∧ u.pins.moduleReset = true ∧
          u.pins.mains = s.pins.mains)) ∧
        (s.boot = 1 ∨ s.boot = 2 → Gives .moduleResetAssert s (fun u => u = { s with pins := { s.pins with moduleReset := true } }))) ∧
      (s.pins.moduleReset = true → Gives .moduleResetRelease s (fun u =>
        u = { s with pins := { s.pins with moduleReset := false }, boot := if s.boot = 8 then 3 else s.boot })) ∧
      (s.pins.perst = false →
        (s.boot = 0 → Gives .perstAssert s (fun u => u.resetting = 2 ∧ u.pins.perst = true ∧ u.pins.ready = false ∧ u.pins.heartbeatOn = false ∧ u.tiles = [] ∧
          u.cmd = none ∧ u.pending = s.pending ∧ ∀ a, sramBase ≤ a → a < sramTop → lost u a)) ∧
        (s.boot ≠ 0 → Gives .perstAssert s (fun u => u = { s with pins := { s.pins with perst := true }, pcie := none }))) ∧
      (s.pins.perst = true →
        (s.pins.mains = true → s.boot = 0 ∨ s.boot = 6 ∨ s.boot = 7 → Gives .perstRelease s (fun u => ∃ rate lanes, 4 ≤ rate ∧ rate ≤ 6 ∧ (lanes = 8 ∨ lanes = 16) ∧
          u = { s with pins := { s.pins with perst := false }, pcie := some (rate, lanes), freeCtr := u.freeCtr, ledger := u.ledger, csr := u.csr } ∧
          (rate < 6 ∨ lanes < 16 → LedgerRoom s → Reported u 0x7000 0x35 NOTE) ∧ (rate = 6 → lanes = 16 → u.ledger = s.ledger))) ∧
        (s.pins.mains = false ∨ (0 < s.boot ∧ s.boot < 6) ∨ 7 < s.boot → Gives .perstRelease s (fun u => u = { s with pins := { s.pins with perst := false } })))

/-- R473, R538, R542, R544, R549, R554, R555, Table 21-3. A stage that is done leads to the next; an image that fails, or is not confirmed in time, leaves its
slot INVALID and the other slot boots; READY and HEARTBEAT come with stage 7 and after DEVICE_RESET. A watchdog that is not kicked is reported; D3hot and a wake
event lead into Rest and out of it, and what reached the resting module is served then.
Where the manual leaves it open it follows log entries 39, 49 and 50, the model's choice. -/
def Obligations.BootAndRestProceed : Prop :=
  ∀ (s : State) (l : List (BitVec 9)) (c : BitVec 2) (time k : Nat) (b : Bool) (x : Bool × Nat) (cm : Cmd) (v : Word) (h : Hdr),
    let s3 := inkCsr 0x08
    let wd := inkCsr 0x18
    let due := tabGet (fun _ => 0) s.mgmt.kicks c.toNat + csrF s wd 4 14 * 1000000
    let kicked (u : State) (z : Nat) : Prop := ∀ j, j < 4 → tabGet (fun _ => 0) u.mgmt.kicks j = z
    let fails (i : Instr) (bundle : Bool) (cause : Nat) (now : Nat) : Prop := Gives i s (fun u => slotState u k = 0 ∧ csrF u s3 8 1 = 1 ∧ csrF u s3 9 2 = cause ∧
      u.now = now ∧ (LedgerRoom s → Reported u 0xA000 0x51 NOTE) ∧ u.boot = (if bundle then (if (bootSlot u true).isSome then 3 else 4) else 1))
    Inv s → s.pins.aux = true →
      (s.boot = 1 → bootSlot s false = some k →
        Gives (.bootStageDone true l) s (fun u => u.boot = 2 ∧ slotState u k = 3 ∧
          (slotState s k = 2 → secCounter u 1 = (imageIn s k).secver % 65536 ∧ (slotState s (1 - k) = 3 →
            slotState u (1 - k) = if (imageIn s (1 - k)).secver = (imageIn s k).secver then 1 else 0))) ∧
        fails (.bootStageDone false l) false 1 s.now) ∧
      (s.boot = 2 → s.pins.pwrEn = true → Gives (.bootStageDone true l) s (fun u => u = { s with boot := 3 })) ∧
      (s.boot = 3 → s.pins.pwrEn = true → s.pins.moduleReset = false →
        Gives (.bootStageDone true l) s (fun u => u = { s with boot := 4, pins := { s.pins with mains := true, pwrfail := false }, mgmt := u.mgmt })) ∧
      (s.boot = 4 → bootSlot s true = some k →
        Gives (.bootStageDone true l) s (fun u => u.boot = 5 ∧ kicked u s.now ∧ csrF u wd 18 4 = 0 ∧ u = { s with boot := 5, mgmt := u.mgmt, csr := u.csr }) ∧
        fails (.bootStageDone false l) true 1 s.now) ∧
      (s.boot = 5 → Gives (.bootStageDone true l) s (fun u => u.boot = 6 ∧ (∀ p, p < 24 → portState u p = 1) ∧ (s.pins.perst = false → u.pcie.isSome = true) ∧
        ∀ d ∈ l, d.toNat < 384 → csrF u (chanAddr d.toNat 0) 0 2 = 2)) ∧
      (s.boot = 6 → Gives (.bootStageDone true l) s (fun u => u = { s with boot := 7 })) ∧
      (s.boot = 7 → Gives .bootReady s (fun u => u.boot = 0 ∧ u.pins.ready = true ∧ u.pins.heartbeatOn = true ∧ u.pins.heartbeatAt = s.now ∧
        (bootSlot s true = some k → slotState u k = 3))) ∧
      (s.boot = 0 → s.resetting ≠ 0 → Gives .deviceResetDone s (fun u => u.resetting = 0 ∧ u.pins.ready = true ∧ u.pins.heartbeatOn = true ∧ kicked u s.now ∧
        u.cmd = none ∧ SameMem s u ∧ (s.resetting = 1 → s.cmd = some cm → cm.opcode = 0x81 → ∃ code, (code = 0 ∨ code = 0x12) ∧
          csrGet u (hstCsr 0x1010) = BitVec.ofNat 64 (2 + cm.tag * 2 ^ 32) ∧ csrGet u (hstCsr 0x1018) = BitVec.ofNat 64 code))) ∧
      (s.mgmt.confirmAt.find? (fun z => z.1 == b) = some x → s.now ≤ time → x.2 ≤ time → bootSlot s b = some k →
        fails (.bootConfirmTimeout b time) b 2 time) ∧
      (s.pins.mains = true → s.rest = 0 → s.resetting = 0 → s.boot = 0 ∨ s.boot = 5 ∨ s.boot = 6 ∨ s.boot = 7 → csrF s wd (18 + c.toNat) 1 = 0 → s.now ≤ time →
        due ≤ time → Gives (.watchdogExpiry c time) s (fun u => u.now = time ∧ csrF u wd (18 + c.toNat) 1 = 1 ∧
          (LedgerRoom s → Reported u (0x8000 + c.toNat) 0x50 DEGRADE))) ∧
      (stewardUp s = true → Gives (.inkWdogKick .steward v) s (fun u => u = { s with csr := u.csr, mgmt := u.mgmt, ledger := u.ledger } ∧
        SameCsrBut s u [wd, ldgCsr 0x70] ∧
        ∀ j, j < 4 → tabGet (fun _ => 0) u.mgmt.kicks j = if v.getLsbD j then s.now else tabGet (fun _ => 0) s.mgmt.kicks j)) ∧
      (s.dstate = 0 → s.boot = 0 → s.pins.mains = true → s.pins.perst = false →
        (restFree s = true → s.cmd = none → s.oobCmd = none → Gives .d3hotEntry s (fun u => u.dstate = 3 ∧ u.rest = 1 ∧ u.tiles = [] ∧ u.pans = [])) ∧
        (activeSlots s ≠ [] → Gives .d3hotEntry s (fun u => u = { s with dstate := 3 }))) ∧
      (s.rest = 1 → Gives .restWake s (fun u => u = { s with rest := 2, dstate := 0 })) ∧
      (s.rest ≠ 1 → s.dstate = 3 → Gives .restWake s (fun u => u = { s with dstate := 0 })) ∧
      (s.rest = 2 → s.cmd = none → s.oobCmd = none → s.woken = [.pktProbe h] → s.ledger.haltNext = none → h.len = 0 → Arrives { s with rest := 0 } h kPROBE →
        Gives .restExitDone s (fun u => u.rest = 0 ∧ u.woken = [] ∧ SameMem s u ∧ Replies s u h kPROBE_ACK [] false)) ∧
      (s.rest = 2 → s.cmd = none → s.oobCmd = none → s.woken = [] →
        (s.ledger.haltNext = none → Gives .restExitDone s (fun u => u = { s with rest := 0, csr := u.csr, mgmt := u.mgmt } ∧ kicked u s.now)) ∧
        (s.ledger.haltNext ≠ none → Gives .restExitDone s (fun u => u.rest = 0 ∧ halted u = true)))

/-! ### Management (chapter 22) -/

/-- R527, R553, R554, R562, R563, R564, R570. The innkeeper answers the Alert Response Address and releases ALERT#, takes an MCTP endpoint ID, carries a PLDM update
from request to an image that is checked and written into the slot that is not active, serves the out-of-band mailbox, authorises JTAG for a good token alone, and
writes the flash: records of the log first, then settings and images. Layouts of DSP0236 and DSP0267 are the model's (log entries 43 and 44).
Where the manual leaves it open it follows log entries 42, 43, 44, 45 and 54, the model's choice. -/
def Obligations.ManagementInterfacesAnswer : Prop :=
  ∀ (s : State) (e : BitVec 8) (op : BitVec 8) (tag : BitVec 16) (d : List Byte) (p : Pldm) (r : LogRec) (rest : List LogRec) (n k : Nat) (ws : List Word)
      (jobs : List FlashJob) (x : FwImage) (c : Cmd),
    let m := s.mgmt
    let auth := inkCsr 0x20
    let out (bs : List Nat) : Out := .oob (bs.flatMap (leBytes 1))
    let update (cmd : BitVec 8) (d : List Byte) (q : Option Pldm) (o : Out) : Prop :=
      Gives (.pldmUpdate cmd d) s (fun u => u = { s with outbox := s.outbox ++ [o], mgmt := { m with pldm := q } })
    let sound (p : Pldm) : Bool := imgN p.got 4 1 == p.comp && (match fwChecks s p.got with
      | .ok _ => true
      | .error _ => false)
    let oob (code detail : Nat) (pay : List Byte) : Prop := Gives (.oobMailbox op tag d) s (fun u => u.pins.alert = true ∧ SameMem s u ∧
      u.mgmt.oobReady = m.oobReady ++ [leBytes 1 code ++ leBytes 2 tag.toNat ++ leBytes 1 0 ++ leBytes 4 detail ++ pay])
    Inv s → inkUp s = true →
      (s.pins.alert = true → Gives .alertResponse s (fun u => u.outbox = s.outbox ++ .oob (leBytes 1 (0x10 + Config.moduleId.toNat)) :: m.oobReady.map .oob ∧
        u = { s with pins := { s.pins with alert := false }, mgmt := { m with oobReady := [] }, outbox := u.outbox })) ∧
      (8 ≤ e.toNat → e ≠ 0xFF → Gives (.mctpControl 1 [0, e]) s (fun u =>
        u = { s with mgmt := { m with eid := e.toNat }, outbox := s.outbox ++ [out [0, 0, e.toNat, 0]] })) ∧
      Gives (.mctpControl 2 []) s (fun u => u = { s with outbox := s.outbox ++ [out [0, m.eid, 0, 0]] }) ∧
      (m.pldm = none → 11 ≤ d.length → 32 ≤ pay d 0 4 → 1 ≤ pay d 4 2 → pay d 4 2 ≤ 3 → s.cmd = none → s.ledger.isoFlash = false →
        update 0x10 d (some ⟨1, pay d 0 4, 0, 0, [], false, false⟩) (out [0x10, 0, 0, 0, 0])) ∧
      (m.pldm = some p →
        update 0x10 d m.pldm (out [0x10, 0x81]) ∧
        (p.stage = 1 → 3 ≤ d.length → update 0x13 d (some { p with stage := 2 }) (out [0x13, 0, 0, 0])) ∧
        (p.stage = 3 → p.size ≤ p.got.length → update 0x16 d (some { p with stage := 4, ended := true, ok := sound p }) (out [0x17, if sound p then 0 else 1])) ∧
        (p.stage = 4 → p.ok = true → imgN p.got 4 1 = 1 ∨ imgN p.got 4 1 = 2 → Gives (.pldmUpdate 0x17 d) s (fun u => ∃ i, slotState u i = 0 ∧
          (imgN p.got 4 1 = 1 → i < 2) ∧ (imgN p.got 4 1 = 2 → i = 2 ∨ i = 3) ∧ (slotState s i = 3 → ∀ j, j / 2 = i / 2 → j < 4 → slotState s j = 3) ∧
          u.mgmt.flashQ = m.flashQ ++ [.image i ⟨m.stamps + 1, imgN p.got 10 2, imgN p.got 6 4⟩])) ∧
        (p.stage ≠ 5 → update 0x1D d none (out (0x1D :: List.replicate 10 0)))) ∧
      (s.pins.ready = false →
        (op = 1 → d = [] → oob 0 0 (leBytes 4 0x10 ++ leBytes 4 (fwWord s) ++ leBytes 8 Config.serial.toNat ++ leBytes 2 (ownId s) ++
          leBytes 6 (liveChans s).length ++ leBytes 8 (regionTop s) ++ leBytes 8 (spareTop s) ++ leBytes 4 (imageIn s m.booted.2).secver)) ∧
        (op ≠ 1 → op ≠ 3 → op ≠ 0x40 → oob 3 0xFF [])) ∧
      (s.pins.ready = true →
        (s.rest ≠ 0 → Gives (.oobMailbox op tag d) s (fun u => u = { s with rest := 2, woken := s.woken ++ [.oobMailbox op tag d] })) ∧
        (s.rest = 0 → s.oobCmd = some c → oob 3 0xFF []) ∧
        (s.rest = 0 → s.oobCmd = none → s.cmd = none → s.resetting = 0 → s.aborting = false → oobLacks op.toNat = true → oob 1 op.toNat [])) ∧
      Gives (.jtagAuth d) s (fun u => u.mgmt = { m with challenges := m.challenges + 1 } ∧
        (tokenGood s d = true → u = { s with csr := u.csr, mgmt := u.mgmt } ∧ SameCsrBut s u [auth] ∧ csrF u auth 0 1 = 1 ∧ csrF u auth 1 3 = pay d 40 1 ∧
          csrF u auth 4 1 = 1) ∧
        (tokenGood s d = false → csrGet u auth = csrGet s auth ∧ (LedgerRoom s → Reported u 0xA002 0x04 NOTE))) ∧
      Gives .jtagDeauth s (fun u => u = { s with csr := u.csr } ∧ SameCsrBut s u [auth] ∧ csrF u auth 0 1 = 0 ∧ csrF u auth 1 3 = 0 ∧
        csrF u auth 4 1 = csrF s auth 4 1) ∧
      (s.ledger.isoFlash = false → s.ledger.backlog = r :: rest →
        Gives (.flashWriteDone true) s (fun u => tabGet (fun _ => none) u.ledger.flash (s.ledger.flashNext % 65536) = some r ∧
          u = { s with ledger := { s.ledger with flash := u.ledger.flash, flashNext := s.ledger.flashNext + 1, backlog := rest } }) ∧
        Gives (.flashWriteDone false) s (fun u => u.ledger.backlog = s.ledger.backlog ∧ u.mgmt = m ∧ (LedgerRoom s → Reported u 0xA001 0x52 NOTE))) ∧
      (s.ledger.isoFlash = true ∨ s.ledger.backlog = [] →
        (m.flashQ = .setting n ws :: jobs →
          Gives (.flashWriteDone true) s (fun u => storedWords u n = some ws ∧ (∀ j, j ≠ n → storedWords u j = storedWords s j) ∧ u.mgmt.flashQ = jobs) ∧
          Gives (.flashWriteDone false) s (fun u => u.mgmt.settings = m.settings ∧ u.mgmt.flashBad = true ∧ u.mgmt.flashQ = jobs ∧
            (LedgerRoom s → Reported u 0xA001 0x52 NOTE))) ∧
        (m.flashQ = .image k x :: jobs → m.pldm = none →
          (x ≠ firstImage k → Gives (.flashWriteDone true) s (fun u => imageIn u k = x ∧ u.mgmt.flashQ = jobs ∧ (k < 4 → slotState u k = 2) ∧
            (4 ≤ k → secCounter u 3 = x.secver % 65536))) ∧
          Gives (.flashWriteDone false) s (fun u => u.mgmt.images = m.images ∧ u.mgmt.flashBad = true ∧ u.mgmt.flashQ = jobs ∧
            (LedgerRoom s → Reported u 0xA001 0x52 NOTE))))

/-! ### The host interface (chapter 18) -/

/-- R478, R481, R483, R484, R525, Table 18-7. A mailbox command whose request is short or has a reserved byte set is refused BAD_PAYLOAD, and in HALT all but six are
refused HALTED: nothing else changes. IDENTIFY, GET_STATUS, GET_TELEMETRY, QUERY_RUN, READ_LOG and ATTEST answer with what they report and change nothing else, but
for the report that ATTEST stores.
Where the manual leaves it open it follows log entries 40, 46 and 47, the model's choice. -/
def Obligations.MailboxQueriesAnswer : Prop :=
  ∀ (s : State) (len : BitVec 15) (tag : BitVec 16) (off a : Nat) (x : Plan × Run),
    let p := payBytes s len.toNat
    let refuses (i : Instr) (code detail : Nat) : Prop := MbxAnswers i s tag code detail [] (MbxOnly s)
    let tells (i : Instr) (bs : List Byte) : Prop := MbxAnswers i s tag 0 0 bs (MbxOnly s)
    let good (l : List (Nat × Nat)) : Prop := badForm l p = none
    let from_ := pay p 4 4
    let recs : List (Nat × LogRec) := ((if pay p 0 1 = 0 then ringOrder s.ledger.ring 4096 s.ledger.nextSeq else ringOrder s.ledger.flash 65536 s.ledger.flashNext).filter
      (fun e => decide (from_ ≤ e.1))).take (pay p 8 4)
    Inv s → MbxFree s → len.toNat ≤ 16384 →
      (halted s = true → ∀ i ∈ [Instr.loadPlan len tag, .unloadPlan len tag, .run len tag, .stop len tag, .queryRun len tag, .allocRegion len tag,
        .freeRegion len tag, .tablePublish len tag, .setCap len tag, .setPolicy len tag, .setPersistent len tag, .clearFault len tag, .injectFault len tag,
        .traceCtrl len tag, .memTest len tag, .memRemap len tag, .linkTrain len tag, .setFabricId len tag, .twinPair len tag, .twinTakeover len tag,
        .fwUpdate len tag, .enterRest len tag], refuses i 0x10 0) ∧
      (halted s = false → ∀ e ∈ [(Instr.loadPlan len tag, [(0, 8), (8, 8), (16, 1), (17, 1), (24, 8)]), (.unloadPlan len tag, [(0, 1)]),
        (.run len tag, [(0, 1), (1, 1), (8, 8)]), (.stop len tag, [(0, 1)]), (.queryRun len tag, [(0, 1)]),
        (.allocRegion len tag, [(0, 8), (8, 1), (10, 2), (12, 1), (13, 1)]), (.freeRegion len tag, [(0, 2)]), (.tablePublish len tag, [(0, 8), (64, 64)]),
        (.setCap len tag, [(0, 2)]), (.setPolicy len tag, [(0, 2), (8, 8), (16, 1), (17, 1)]), (.setPersistent len tag, [(0, 2)]),
        (.clearFault len tag, [(0, 2), (2, 1)]), (.injectFault len tag, [(0, 2), (2, 1), (4, 4)]), (.traceCtrl len tag, [(0, 8), (8, 1), (9, 1), (10, 1)]),
        (.memTest len tag, [(0, 1), (1, 1), (2, 1), (16, 48)]), (.memRemap len tag, [(0, 48)]), (.linkTrain len tag, [(0, 4)]),
        (.setFabricId len tag, [(0, 2), (2, 2), (4, 1), (64, 256)]), (.twinPair len tag, [(0, 2)]), (.twinTakeover len tag, [(0, 2)]),
        (.fwUpdate len tag, [(0, 8), (8, 8)]), (.enterRest len tag, []), (.deviceReset len tag, []), (.identify len tag, []), (.getStatus len tag, []),
        (.getTelemetry len tag, [(0, 8)]), (.readLog len tag, [(0, 1), (4, 4), (8, 4)]), (.attest len tag, [(0, 32), (32, 8)])],
        badForm e.2 p = some off → refuses e.1 2 off) ∧
      (good [] → tells (.identify len tag) (leBytes 4 0x10 ++ leBytes 4 (fwWord s) ++ leBytes 8 Config.serial.toNat ++ leBytes 2 (ownId s) ++
        leBytes 6 (liveChans s).length ++ leBytes 8 (regionTop s) ++ leBytes 8 (spareTop s) ++ leBytes 4 (imageIn s s.mgmt.booted.2).secver)) ∧
      (good [] → tells (.getStatus len tag) (leBytes 8 (hstStatus s).toNat ++ (List.range 8).flatMap (fun i => leBytes 1 (runState s i)) ++
        leBytes 1 (if halted s then 3 else maxLevel s) ++ leBytes 3 (twinState s) ++ leBytes 2 (capW s))) ∧
      (good [(0, 8)] →
        (pay p 0 8 < 128 → tells (.getTelemetry len tag) (((List.range 7).filter (fun g => (pay p 0 8).testBit g)).flatMap (sensorGroup s))) ∧
        (128 ≤ pay p 0 8 → refuses (.getTelemetry len tag) 2 0)) ∧
      (good [(0, 1)] → halted s = false →
        (8 ≤ pay p 0 1 → refuses (.queryRun len tag) 2 0) ∧
        (pay p 0 1 < 8 → planOf s (pay p 0 1) = none → refuses (.queryRun len tag) 5 0) ∧
        (pay p 0 1 < 8 → planOf s (pay p 0 1) ≠ none → runOf s (pay p 0 1) = none → tells (.queryRun len tag) (List.replicate 23 0)) ∧
        (pay p 0 1 < 8 → runOf s (pay p 0 1) = some x → tells (.queryRun len tag) (leBytes 1 x.2.state ++ leBytes 3 (bit x.1.nondet) ++ leBytes 4 x.2.ordinal ++
          leBytes 2 x.2.faultSource ++ leBytes 6 x.2.faultCause ++ leBytes 7 x.2.faultAddr))) ∧
      (good [(0, 1), (4, 4), (8, 4)] →
        (2 ≤ pay p 0 1 → refuses (.readLog len tag) 2 0) ∧
        (pay p 0 1 < 2 → 511 < pay p 8 4 → refuses (.readLog len tag) 2 8) ∧
        (pay p 0 1 < 2 → pay p 8 4 ≤ 511 → tells (.readLog len tag) (leBytes 4 recs.length ++
          leBytes 12 (((recs.getLast?).map (fun e => e.1 + 1)).getD from_ % 2 ^ 32) ++ recs.flatMap (fun e => recBytes e.2)))) ∧
      (good [(0, 32), (32, 8)] →
        (flashHeld s = true → refuses (.attest len tag) 3 0xFF) ∧
        (flashHeld s = false → hostSpan s (BitVec.ofNat 64 (pay p 32 8)) 32768 true = none → refuses (.attest len tag) 5 0) ∧
        (flashHeld s = false → hostSpan s (BitVec.ofNat 64 (pay p 32 8)) 32768 true = some a →
          MbxAnswers (.attest len tag) s tag 0 0 (leBytes 4 17440) (fun u => let r := attestReport s (p.take 32)
            memBytes u a r.length = r ∧ SameMemBut s u a r.length ∧ u.plans = s.plans ∧ u.tiles = s.tiles ∧ u.ledger = s.ledger)))

/-- R36, R37, R39, R40, R43, R48, R107, R109, R110, R386, R478, R484, Table 14-4. LOAD_PLAN gives a checked image a free slot and leaves nothing of one that fails a check;
UNLOAD_PLAN frees its slot and regions; RUN starts a run and STOP asks it to stop; ALLOC_REGION places a region that overlaps no other, or changes nothing, and
FREE_REGION frees it; TABLE_PUBLISH gives a new version its slot and retires the old one.
Where the manual leaves it open it follows log entries 30, 37, 40 and 46, the model's choice. -/
def Obligations.MailboxPlansRegionsAndTables : Prop :=
  ∀ (s t : State) (len : BitVec 15) (tag : BitVec 16) (x : Plan) (r : Run) (c : Cmd) (a v : Nat) (tg : Tgt) (l : Load) (err : Nat × Nat) (bs : List Byte),
    let p := payBytes s len.toNat
    let refuses (i : Instr) (code detail : Nat) : Prop := MbxAnswers i s tag code detail [] (MbxOnly s)
    let f (off n : Nat) := pay p off n
    let slot := f 0 1
    let others (u : State) (k : Nat) : Prop := ∀ j, j ≠ k → planOf u j = planOf s j
    let loc : Word := BitVec.ofNat 64 (f 0 8)
    let size := f 0 8
    let newLoc := tgtAddr s tg
    let wanted : Word := BitVec.ofNat 64 (size + f 8 1 * 2 ^ 28 + f 10 2 * 2 ^ 30 + f 12 1 * 2 ^ 39 + f 13 1 * 2 ^ 43 + 8 * 2 ^ 48)
    let old : Desc := BitVec.ofNat 512 (memNat s newLoc 64)
    let d : Desc := BitVec.ofNat 512 (f 64 64)
    Inv s →
      (MbxFree s → halted s = false → len.toNat ≤ 16384 →
        (badForm [(0, 8), (8, 8), (16, 1), (17, 1), (24, 8)] p = none → f 8 8 ≠ 0 → f 16 1 < 8 ∨ f 16 1 = 0xFF → displaced s = false →
          (f 17 1 = 0 → f 24 8 = 0 → hostSpan s loc (f 8 8) false = some a →
            MbxBegins (.loadPlan len tag) s tag 0x10 (fun u => u.load = s.load ∧ u.plans = s.plans ∧ SameMem s u)) ∧
          (f 17 1 = 1 → f 24 8 % 65536 = 0 → 0x4000000 ≤ f 24 8 → hostSpan s loc (f 24 8) false = some a → MbxBegins (.loadPlan len tag) s tag 0x10 (fun u =>
            u.load = some ⟨loc, f 8 8, f 16 1, f 24 8, [], s.now, []⟩ ∧ csrGet u (hstCsr 0x28) = 0 ∧ csrGet u (hstCsr 0x30) = 0)) ∧
          (f 17 1 = 0 → f 24 8 = 0 → hostSpan s loc (f 8 8) false = none → refuses (.loadPlan len tag) 5 0)) ∧
        (badForm [(0, 1)] p = none → slot < 8 →
          (planOf s slot = none → refuses (.unloadPlan len tag) 5 0 ∧ refuses (.stop len tag) 5 0) ∧
          (planOf s slot = some x → planActive (some x) = true → refuses (.unloadPlan len tag) 3 slot) ∧
          (planOf s slot = some x → planActive (some x) = false → MbxAnswers (.unloadPlan len tag) s tag 0 0 [] (fun u => planOf u slot = none ∧ others u slot ∧
            ∀ i ∈ x.regions, i < 4096 → rgnValid u i = false)) ∧
          (activeRun s slot = some (x, r) → MbxAnswers (.stop len tag) s tag 0 0 [] (fun u =>
            planOf u slot = some { x with run := some { r with stopReq := true, state := 2 } } ∧ others u slot ∧ SameMem s u)) ∧
          (planOf s slot ≠ none → activeRun s slot = none → refuses (.stop len tag) 3 slot)) ∧
        (badForm [(0, 1), (1, 1), (8, 8)] p = none → slot < 8 → f 1 1 < 2 → planOf s slot = some x → displaced s = false →
          (planActive (some x) = true → refuses (.run len tag) 3 slot) ∧
          (planActive (some x) = false → 4 ≤ (activeSlots s).length → refuses (.run len tag) 3 0xFF) ∧
          (planActive (some x) = false → (activeSlots s).length < 4 →
            (∀ i ∈ activeSlots s, ∀ o, planOf s i = some o → o.clusterMask &&& x.clusterMask = 0 ∧ regionClash s o x = false) → doorbellClash s x = none →
            x.fabric = false →
            MbxAnswers (.run len tag) s tag 0 0 (leBytes 8 s.runCtr) (fun u => u.runCtr = s.runCtr + 1 ∧ others u slot ∧
              planOf u slot = some { x with run := some (freshRun (if f 1 1 = 1 then BitVec.ofNat 64 (f 8 8) else x.seed)) })) ∧
          (planActive (some x) = false → (activeSlots s).length < 4 → (activeSlots s).find? (fun i => (planOf s i).any (fun o =>
            (o.clusterMask &&& x.clusterMask) != 0 || regionClash s o x)) = some v → refuses (.run len tag) 0x0A v)) ∧
        (badForm [(0, 8), (8, 1), (10, 2), (12, 1), (13, 1)] p = none → f 8 1 < 4 → targetLegal (f 8 1) (f 10 2) false = true → f 12 1 < 16 → f 13 1 < 32 →
          size < 2 ^ 27 → sizeLegal s (f 8 1) size = true → displaced s = false → (f 13 1).testBit 2 = false →
          (((∃ j, j < 4096 ∧ rgnValid s j = false) ∧ (findPlace s wanted).isSome = true) ∨
              (validRegions s = [] ∧ s.twin.shadows = [] ∧ f 8 1 < 2 ∧ size ≤ spaceUnits s) → Gives (.allocRegion len tag) s (fun u =>
            ∃ i b, MbxShows u tag 0 0 (leBytes 8 i ++ leBytes 8 b) ∧ i < 4096 ∧ rgnValid s i = false ∧
              rgnValid u i = true ∧ rgnOwner u i = 8 ∧ rgnSize u i = size * 65536 ∧ rgnMode u i = f 8 1 ∧ rgnBase u i = b ∧ b % 65536 = 0 ∧
              (∀ j ∈ validRegions s, b + size * 65536 ≤ rgnBase s j ∨ rgnBase s j + rgnSize s j ≤ b) ∧ SameCsrBut s u (rgnAddr i :: rgnAttr i :: mbxRegs) ∧
              SameMemBut s u b (size * 65536))) ∧
          ((∀ j, j < 4096 → rgnValid s j = true) ∨ findPlace s wanted = none → refuses (.allocRegion len tag) 4 0)) ∧
        (badForm [(0, 2)] p = none → f 0 2 < 4096 →
          (rgnValid s (f 0 2) = false ∨ rgnOwner s (f 0 2) ≠ 8 → refuses (.freeRegion len tag) 5 0) ∧
          (rgnValid s (f 0 2) = true → rgnOwner s (f 0 2) = 8 → rgnMirrored s (f 0 2) = false → regionUser s (f 0 2) = some v → refuses (.freeRegion len tag) 3 v) ∧
          (rgnValid s (f 0 2) = true → rgnOwner s (f 0 2) = 8 → rgnMirrored s (f 0 2) = false → regionUser s (f 0 2) = none → MbxAnswers (.freeRegion len tag) s tag 0 0 [] (fun u =>
            csrGet u (rgnAttr (f 0 2)) = setF (csrGet s (rgnAttr (f 0 2))) 27 1 0 ∧ SameCsrBut s u (rgnAttr (f 0 2) :: mbxRegs) ∧ SameMem s u))) ∧
        (badForm [(0, 8), (64, 64)] p = none → locKind loc = 1 ∨ locKind loc = 2 → locBits loc = true → loc.toNat % 64 = 0 → displaced s = false →
          tableTgt s loc = none → refuses (.tablePublish len tag) 5 0) ∧
        (badForm [(0, 8), (64, 64)] p = none → locKind loc = 1 ∨ locKind loc = 2 → locBits loc = true → loc.toNat % 64 = 0 → displaced s = false →
          tableTgt s loc = some tg →
          (verLive s (tdVslot old) (tdId old) = false → refuses (.tablePublish len tag) 0x0B (tdVslot old)) ∧
          (verLive s (tdVslot old) (tdId old) = true → verHeld s (tdId d) = some v → refuses (.tablePublish len tag) 0x0A v) ∧
          (verLive s (tdVslot old) (tdId old) = true → verHeld s (tdId d) = none → tdLegal d = false → refuses (.tablePublish len tag) 2 64) ∧
          (verLive s (tdVslot old) (tdId old) = true → verHeld s (tdId d) = none → tdLegal d = true → verFree s = some v → tdWritable old = false →
            MbxAnswers (.tablePublish len tag) s tag 0 0 (leBytes 2 v) (fun u => verLive u v (tdId d) = true ∧
              memNat u newLoc 64 = (setF d 48 13 v).toNat ∧ SameMemBut s u newLoc 64 ∧ csrF u (tblVer (tdVslot old)) 0 2 = (if csrF s (tblVer (tdVslot old)) 26 32 = 0
                then 0 else 2))))) ∧
      (MbxInProgress s c 0x10 → c.tag = tag.toNat → s.load = none → let g := fun off n => pay c.payload off n
        hostSpan s (BitVec.ofNat 64 (g 0 8)) (g 8 8) false = some a →
        match loadImage s (memBytes s a (g 8 8)) (g 16 1) with
        | .error e => MbxAnswers .mailboxComplete s tag e.1 e.2 [] (MbxOnly { s with cmd := none })
        | .ok _ => Gives .mailboxComplete s (fun u => ∃ i q, (g 16 1 = 0xFF → i < 8) ∧ (g 16 1 ≠ 0xFF → i = g 16 1) ∧ planOf s i = none ∧ planOf u i = some q ∧
          q.run = none ∧ others u i ∧ MbxShows u tag 0 0 (loadResult i q))) ∧
      (MbxInProgress s c 0x10 → c.tag = tag.toNat → s.load = some l →
        (ringEnd s l = some (.error err) → MbxAnswers .mailboxComplete s tag err.1 err.2 [] (fun u => u.load = none ∧ u.plans = s.plans ∧ SameMem s u ∧
          ∀ i ∈ l.placed, i < 4096 → rgnValid u i = false)) ∧
        (ringEnd s l = some (.ok (bs, t)) → MbxAnswers .mailboxComplete s tag 0 0 bs (fun u => u.load = none ∧ u.plans = t.plans ∧ SameMem t u)))

/-- R374, R412, R413, R452, R454, R463, R478, R479, R484, R528, R542, R553. SET_CAP, SET_POLICY, CLEAR_FAULT, INJECT_FAULT, TRACE_CTRL, MEM_REMAP with channels and
ENTER_REST complete at once; SET_PERSISTENT, MEM_TEST, MEM_REMAP without channels, LINK_TRAIN, SET_FABRIC_ID, TWIN_PAIR, TWIN_TAKEOVER, FW_UPDATE and DEVICE_RESET
begin, and complete when their work is done.
Where the manual leaves it open it follows log entries 35, 41, 46, 47 and 60, the model's choice. -/
def Obligations.MailboxSettingsAndMaintenance : Prop :=
  ∀ (s : State) (len : BitVec 15) (tag : BitVec 16) (a n k : Nat) (al : Allow) (y : ClassEnt) (c : Cmd),
    let p := payBytes s len.toNat
    let f (off n : Nat) := pay p off n
    let refuses (i : Instr) (code detail : Nat) : Prop := MbxAnswers i s tag code detail [] (MbxOnly s)
    let does (i : Instr) (Q : State → Prop) : Prop := MbxAnswers i s tag 0 0 [] Q
    let begins (i : Instr) (op : Nat) (Q : State → Prop) : Prop := MbxBegins i s tag op Q
    let ends (code detail : Nat) (bs : List Byte) (Q : State → Prop) : Prop := MbxAnswers .mailboxComplete s tag code detail bs Q
    let set (bits : Nat) (ch : Nat) : Prop := ch < 384 ∧ bits.testBit ch = true
    let loc : Word := BitVec.ofNat 64 (f 0 8)
    let ids := (List.range 2048).filter (fun d => (ofLE ((p.drop 64).take 256)).testBit d)
    let groups := ((List.range 128).filter (fun g => ids.any (fun d => d / 16 == g))).length
    let trace := f 8 1 + f 9 1 * 4 + f 10 1 * 2 ^ 7
    Inv s →
      (MbxFree s → halted s = false → len.toNat ≤ 16384 →
        (badForm [(0, 2)] p = none →
          (600 ≤ f 0 2 → f 0 2 ≤ 1500 → does (.setCap len tag) (fun u => capW u = f 0 2 ∧ SameMem s u)) ∧
          (f 0 2 < 600 ∨ 1500 < f 0 2 → refuses (.setCap len tag) 2 0) ∧
          (f 0 2 ≠ 0xFFFF → settingNums.contains (f 0 2) = true → settingAllowed s (f 0 2) = true → flashHeld s = false →
            begins (.setPersistent len tag) 0x32 (fun u => u.mgmt.flashQ = [.setting (recordFor s (f 0 2)).1 (recordFor s (f 0 2)).2] ∧ u.mgmt.flashBad = false)) ∧
          (f 0 2 = 0x0102 → settingAllowed s 0x0102 = false → refuses (.setPersistent len tag) 0x0F 0) ∧
          (f 0 2 < 2048 → runningSlot s = some k → refuses (.twinPair len tag) 3 k) ∧
          (f 0 2 < 2048 → activeSlots s = [] → pairFails s (f 0 2) ≠ 0 → refuses (.twinPair len tag) 0x0E (pairFails s (f 0 2))) ∧
          (f 0 2 < 2048 → activeSlots s = [] → pairFails s (f 0 2) = 0 → begins (.twinPair len tag) 0x62 (fun u => u.cmd.map (fun y => y.rounds) = some [f 0 2] ∧
            u = { s with csr := u.csr, cmd := u.cmd } ∧ SameCsrBut s u mbxRegs)) ∧
          (f 0 2 < 2048 → displaced s = false → 1 ≤ twinState s → twinState s ≤ 3 → f 0 2 = twinId s →
            begins (.twinTakeover len tag) 0x63 (fun u => u.twin.fencing = some s.now ∧ ∃ q ∈ u.reqs, q.kind = kFENCE ∧ q.dst = twinId s)) ∧
          (f 0 2 < 2048 → displaced s = false → twinState s = 0 ∨ f 0 2 ≠ twinId s → refuses (.twinTakeover len tag) 0x0E 0)) ∧
        (badForm [(0, 2), (8, 8), (16, 1), (17, 1)] p = none → f 16 1 < 16 → f 17 1 < 16 → f 16 1 &&& f 17 1 = 0 →
          (f 0 2 = 0xFFFF → does (.setPolicy len tag) (fun u => (∀ g, g < 3 → u.freezeNext.testBit g = ((s.freezeNext.testBit g || (f 16 1).testBit g) &&
            !(f 17 1).testBit g)) ∧ csrF u (govCsr 0) 1 1 = (if (f 16 1).testBit 3 then 1 else if (f 17 1).testBit 3 then 0 else csrF s (govCsr 0) 1 1) ∧
            u.policyNext = s.policyNext)) ∧
          (paramOf (f 0 2) = some ⟨f 0 2, al, .steward⟩ → paramLegal s (f 0 2) (f 8 8) = true → does (.setPolicy len tag) (fun u =>
            assocGet u.policyNext (f 0 2) = some (f 8 8) ∧ u.policy = s.policy)) ∧
          (f 0 2 = 0 → f 8 8 < 2 →
            (s.freeze.testBit 0 = false → does (.setPolicy len tag) (fun u => ∀ k, k < 16 → csrF u (clusterCsr k 0) 0 1 = f 8 8)) ∧
            (s.freeze.testBit 0 = true → does (.setPolicy len tag) (fun u => assocGet u.policyNext 0 = some (f 8 8) ∧
              ∀ k, k < 16 → csrGet u (clusterCsr k 0) = csrGet s (clusterCsr k 0)))) ∧
          (paramOf (f 0 2) = some ⟨f 0 2, al, .steward⟩ → paramLegal s (f 0 2) (f 8 8) = false → refuses (.setPolicy len tag) 2 8)) ∧
        (badForm [(0, 2), (2, 1)] p = none → classOf s (f 0 2) (f 2 1) = some (n, y) → does (.clearFault len tag) (fun u =>
          classAt u n = some { y with pending := none, graceAt := none, p := 0, times := [] } ∧ ∀ j, j ≠ n → classAt u j = classAt s j)) ∧
        (badForm [(0, 2), (2, 1), (4, 4)] p = none → [0x10, 0x11, 0x12, 0x30].contains (f 2 1) = true →
          (csrF s (ldgCsr 0) 1 1 = 0 → refuses (.injectFault len tag) 0x0F 0) ∧
          (csrF s (ldgCsr 0) 1 1 = 1 → f 4 4 ≠ 0 → does (.injectFault len tag) (fun u =>
            u.ledger.inj = s.ledger.inj ++ [⟨f 0 2, f 2 1, f 4 4, csrF s (ldgCsr 0x30) 0 45⟩]))) ∧
        (badForm [(0, 8), (8, 1), (9, 1), (10, 1)] p = none → f 0 8 % 4096 = 0 → f 8 1 < 4 → 7 ≤ f 9 1 → f 9 1 ≤ 31 → f 10 1 ≤ 16 →
          ((f 8 1).testBit 0 = false ∨ inDram (locTgt s loc (32 * 2 ^ f 9 1) true) = true → does (.traceCtrl len tag) (fun u =>
            csrGet u (clusterCsr 0 0x20) = loc ∧ csrGet u (clusterCsr 0 0x28) = BitVec.ofNat 64 trace ∧
            ((f 8 1).testBit 0 = true → csrGet u (clusterCsr 0 0x30) = (if s.traceLost = 0 then 0 else 1) ∧ u.traceLost = 0) ∧
            ((f 8 1).testBit 0 = false ∨ s.traceLost = 0 → SameMem s u))) ∧
          ((f 8 1).testBit 0 = true → inDram (locTgt s loc (32 * 2 ^ f 9 1) true) = false → refuses (.traceCtrl len tag) 5 0)) ∧
        (badForm [(0, 1), (1, 1), (2, 1), (16, 48)] p = none → f 0 1 = 0 → f 1 1 < 64 → 1 ≤ f 2 1 → f 2 1 ≤ 64 →
          (runningSlot s = some k → refuses (.memTest len tag) 3 k) ∧
          (activeSlots s = [] → f 1 1 = 0 → MbxAnswers (.memTest len tag) s tag 0 0 (List.replicate 1544 0) (MbxOnly s)) ∧
          (activeSlots s = [] → k < 6 → (f 1 1).testBit k = true → (∀ j, j < k → (f 1 1).testBit j = false) → begins (.memTest len tag) 0x50 (fun u => SameMem s u ∧
            ∀ ch, set (f 16 48) ch → csrGet u (chanAddr ch 0x48) = 1 ∧ csrGet u (chanAddr ch 0x40) = BitVec.ofNat 64 (k + 64 + (f 2 1 - 1) * 1024)))) ∧
        (badForm [(0, 48)] p = none → activeSlots s = [] →
          (f 0 48 ≠ 0 → MbxAnswers (.memRemap len tag) s tag 0 0 (leBytes 8 0) (fun u => SameMem s u ∧ ∀ ch, set (f 0 48) ch → csrF s (chanAddr ch 0) 0 2 ≠ 2 →
            csrF u (chanAddr ch 0) 0 2 = 1 ∧ csrF u (chanAddr ch 0) 4 2 = 3)) ∧
          (f 0 48 = 0 → begins (.memRemap len tag) 0x51 (fun u => SameMem s u ∧ u.plans = s.plans))) ∧
        (badForm [(0, 4)] p = none → f 0 4 < 2 ^ 24 → begins (.linkTrain len tag) 0x60 (fun u => ∀ j, j < 24 → (f 0 4).testBit j = true → portState u j = 1)) ∧
        (badForm [(0, 2), (2, 2), (4, 1), (64, 256)] p = none → ids.length = f 2 2 → groups = f 4 1 → f 0 2 ∈ ids →
          ((∀ i, i < 8 → planOf s i = none) → begins (.setFabricId len tag) 0x61 (fun u => u.shape = ids ∧ ownId u = f 0 2 ∧ csrF u (fabCsr 0x08) 11 12 = f 2 2 ∧
            csrF u (fabCsr 0x08) 23 8 = f 4 1)) ∧
          ((List.range 8).find? (fun i => (planOf s i).isSome) = some k → refuses (.setFabricId len tag) 3 k)) ∧
        (badForm [(0, 8), (8, 8)] p = none → f 8 8 ≠ 0 → s.mgmt.pldm = none → flashHeld s = false → hostSpan s loc (f 8 8) false = some a →
          let img := memBytes s a (f 8 8)
          match fwChecks s img with
          | .error e => MbxAnswers (.fwUpdate len tag) s tag e.1 e.2 [] (MbxOnly s)
          | .ok _ => begins (.fwUpdate len tag) 0x70 (fun u => ∃ i x, u.mgmt.flashQ = [.image i x] ∧ x.secver = imgN img 10 2 ∧ (i < 4 → slotState u i = 0))) ∧
        (badForm [] p = none →
          (runningSlot s = some k → refuses (.enterRest len tag) 3 k) ∧
          (activeSlots s = [] → does (.enterRest len tag) (fun u => u.rest = 1 ∧ u.tiles = [] ∧ u.pans = [])))) ∧
      (MbxFree s → len.toNat ≤ 16384 → badForm [] p = none →
        begins (.deviceReset len tag) 0x81 (fun u => u.resetting = 1 ∧ u.tiles = [] ∧ u.pins.ready = false ∧ u.pins.heartbeatOn = false)) ∧
      (c.tag = tag.toNat →
        (MbxInProgress s c 0x32 → s.mgmt.flashQ = [] → s.mgmt.flashBad = false → ends 0 0 [] (MbxOnly { s with cmd := none })) ∧
        (MbxInProgress s c 0x32 → s.mgmt.flashQ = [] → s.mgmt.flashBad = true → ends 0x12 (lastEntry s) [] (MbxOnly { s with cmd := none })) ∧
        (MbxInProgress s c 0x50 → c.rounds = [] → c.errs = [] → (∀ ch, set (pay c.payload 16 48) ch → csrF s (chanAddr ch 0x48) 0 1 = 0) →
          ∃ bs : List Byte, ends 0 0 bs (MbxOnly { s with cmd := none }) ∧ bs.length = 1544 ∧ ∀ ch, set (pay c.payload 16 48) ch →
            (bs.drop (4 * ch)).take 4 = leBytes 4 (csrF s (chanAddr ch 0x48) 32 32)) ∧
        (MbxInProgress s c 0x51 → ∃ bs, ends 0 0 bs (fun u => ∀ ch, ch < 384 → csrF s (chanAddr ch 0) 0 2 = 1 → csrF u (chanAddr ch 0) 0 2 = 2)) ∧
        (MbxInProgress s c 0x60 → (∀ j, j < 24 → (pay c.payload 0 4).testBit j = true → portState s j ≠ 1) →
          ends 0 0 (leBytes 4 (getF (fabStatus s) 0 24) ++ leBytes 4 (getF (fabStatus s) 24 24)) (MbxOnly { s with cmd := none })) ∧
        (MbxInProgress s c 0x61 → (∀ j, j < 24 → (linkOf s j).step < 3 ∨ (linkOf s j).step = 5) → displaced s = false →
          ends 0 0 (leBytes 4 (csrF s (fabCsr 0x08) 32 32)) (MbxOnly { s with cmd := none })) ∧
        (MbxInProgress s c 0x62 → c.rounds = [k] → twinState s ≠ 4 → Gives .mailboxComplete s (fun u =>
          (∃ d, 1 ≤ d ∧ d ≤ 5 ∧ MbxShows u tag 0x0E d [] ∧ MbxOnly { s with cmd := none } u) ∨
          (u.cmd = some { c with rounds := [] } ∧ twinState u = 1 ∧ twinId u = k % 2048 ∧ SameMem s u))) ∧
        (MbxInProgress s c 0x62 → c.rounds = [] → pairReady s = true → ends 0 0 [] (fun u => twinState u = 2 ∧ u.plans = s.plans ∧ SameMem s u)) ∧
        (MbxInProgress s c 0x63 → s.twin.fencing = none → ends 0 0 [] (MbxOnly { s with cmd := none })) ∧
        (MbxInProgress s c 0x70 → s.mgmt.flashQ = [] → s.mgmt.flashBad = false →
          ends 0 0 (leBytes 4 (c.rounds.getD 0 0 % 2) ++ leBytes 4 (c.rounds.getD 1 0)) (MbxOnly { s with cmd := none })) ∧
        (MbxInProgress s c 0x70 → s.mgmt.flashQ = [] → s.mgmt.flashBad = true → ends 0x12 (lastEntry s) [] (MbxOnly { s with cmd := none })))

/-- R9, R11, R12, R28, R29, R37, R300–R302, R361, R475–R478, R482, R485–R487, R489–R492, R544, R577. What the host and the steward write to registers, doorbell pages, the abort
page, the payload and BAR2 acts as written: reserved values, registers that are absent or not the writer's, and pages not bound so are noted and change nothing; the
event ring starts, is read and reports; an access to a resting module wakes it and is held; a doorbell waits for the mirrors of the host's earlier writes; the steward
and JTAG write tile SRAM windows, the debug-only ones while no plan runs.
Where the manual leaves it open it follows log entries 4, 5, 46, 48, 50, 51, 61 and 65, the model's choice. -/
def Obligations.HostRegistersAndPagesAct : Prop :=
  ∀ (s x : State) (off : BitVec 14) (page : BitVec 8) (amount key tail head : BitVec 32) (o36 : BitVec 36) (bytes : List Byte) (ep : Bool) (v cfg : Word)
      (tag : BitVec 16) (len : BitVec 15) (n time b : Nat) (l : Load) (c : Cmd) (g : Tgt) (ad : BitVec 45) (rs : List (Nat × Nat)) (r : Reg) (who : Agent),
    let st := csrF s (hstCsr 0x1010) 0 2
    let regsOnly (u : State) (xs : List Nat) : Prop := u = { s with csr := u.csr } ∧ SameCsrBut s u xs
    let noted (i : Instr) (source kind level : Nat) : Prop :=
      Gives i s (fun u => u = { s with csr := u.csr, ledger := u.ledger } ∧ SameCsrBut s u [ldgCsr 0x70] ∧ (LedgerRoom s → Reported u source kind level))
    let d := page.toNat
    let t := dbTile s d
    let m := dbNum s d
    let amt := amount.toNat
    let at2 := bar2Addr s o36.toNat
    let upto := min v.toNat l.bytes
    let came : List Byte := (List.range (upto - l.got.length)).map (fun k => memByte s (rgnBase s (locIdx l.loc) + locOff l.loc + (l.got.length + k) % l.ring))
    let fed := csrPut s (hstCsr 0x28) v
    let lostN := (csrGet s evqLost).toNat
    Inv s →
      (hostUp s = true → s.rest ≠ 0 → ∀ e ∈ [(Instr.mbxAck, hstCsr 0x1010, 4), (.hstAbort key, hstCsr 0x80000, key.toNat),
        (.hstDbSignal page amount, hstCsr (0x10000 + 0x40 * d), amt), (.hstDbTally page amount, hstCsr (0x10008 + 0x40 * d), amt),
        (.hstDbWq page tail, hstCsr (0x10020 + 0x40 * d), tail.toNat)],
        Gives e.1 s (fun u => u = { s with rest := 2, woken := s.woken ++ [.registerWrite .host (BitVec.ofNat 45 e.2.1) 4 (BitVec.ofNat 64 e.2.2)] })) ∧
      (hostUp s = true → s.rest ≠ 0 → Gives (.identify len tag) s (fun u => u = { s with rest := 2, woken := s.woken ++
        [.registerWrite .host (BitVec.ofNat 45 (hstCsr 0x1000)) 8 (BitVec.ofNat 64 (1 + len.toNat * 2 ^ 8 + tag.toNat * 2 ^ 32)),
         .registerWrite .host (BitVec.ofNat 45 (hstCsr 0x1008)) 8 1] })) ∧
      (bar2Up s = true → s.rest ≠ 0 → Gives (.bar2Read o36 n) s (fun u => u = { s with rest := 2, woken := s.woken ++ [.bar2Read o36 n] }) ∧
        Gives (.bar2Write o36 bytes ep) s (fun u => u = { s with rest := 2, woken := s.woken ++ [.bar2Write o36 bytes ep] })) ∧
      (hostUp s = true → s.rest = 0 →
        (st = 2 → Gives .mbxAck s (fun u => regsOnly u [hstCsr 0x1010] ∧ csrGet u (hstCsr 0x1010) = setF (csrGet s (hstCsr 0x1010)) 0 2 0)) ∧
        (st ≠ 2 → Gives .mbxAck s (fun u => regsOnly u [])) ∧
        (st = 1 → len.toNat ≤ 16384 → Gives (.getStatus len tag) s (fun u => regsOnly u [hstCsr 0x1000, hstCsr 0x1028] ∧
          csrGet u (hstCsr 0x1028) = csrGet s (hstCsr 0x1028) + 1)) ∧
        (s.boot = 0 → s.resetting = 0 →
          (key ≠ 0x41425254 → noted (.hstAbort key) 0x7000 0x04 NOTE) ∧
          (key = 0x41425254 → s.aborting = true → Gives (.hstAbort key) s (fun u => regsOnly u [hstCsr 0x80008] ∧
            csrF u (hstCsr 0x80008) 1 15 = min (csrF s (hstCsr 0x80008) 1 15 + 1) 32767)) ∧
          (key = 0x41425254 → s.aborting = false → Gives (.hstAbort key) s (fun u => u.aborting = true ∧ csrF u (hstCsr 0x80008) 0 1 = 1 ∧ u.cmd = s.cmd ∧
            (∀ i ∈ activeSlots s, (runOf u i).map (fun x => x.2.state) = some 6) ∧ ∀ k, k < 256 → (coreOf u k).task = none)))) ∧
      (hostUp s = true → s.rest = 0 → agentPending s hostAgent = true ∨ s.dbHeld ≠ [] →
        ∀ e ∈ [(Instr.hstDbSignal page amount, 0x00, amt), (.hstDbTally page amount, 0x08, amt), (.hstDbWq page tail, 0x20, tail.toNat)],
          Gives e.1 s (fun u => u = { s with csr := u.csr, dbHeld := s.dbHeld ++ [(d, e.2)] } ∧ SameCsrBut s u [])) ∧
      (hostUp s = true → s.rest = 0 → agentPending s hostAgent = false → s.dbHeld = [] →
        (dbKind s d = 1 → t < 256 → m < 256 → 0 < amt → semVal s t m + amt < 2 ^ 32 → Gives (.hstDbSignal page amount) s (fun u => SameMem s u ∧ SameTilesBut s u t ∧
          ∃ j, semQueue u t m = (semQueue s t m).drop j ∧ semVal u t m + (((semQueue s t m).take j).map (fun w => w.amount)).sum = semVal s t m + amt)) ∧
        (dbKind s d = 1 → t < 256 → m < 256 → 2 ^ 32 ≤ semVal s t m + amt → 0 < amt →
          Gives (.hstDbSignal page amount) s (fun u => Misused s u t 0 m 2 ∧ semVal u t m = semVal s t m)) ∧
        (dbKind s d = 2 → t < 256 → m < 64 → 0 < amt → tallyGap (tallyVal s t m + amt) (csrF s (tallyAddr t m) 32 32) ≤ tallyDepth s t m →
          Gives (.hstDbTally page amount) s (fun u => tallyVal u t m = (tallyVal s t m + amt) % 2 ^ 32)) ∧
        (dbKind s d = 2 → t < 256 → m < 64 → 0 < amt → tallyDepth s t m < tallyGap (tallyVal s t m + amt) (csrF s (tallyAddr t m) 32 32) →
          Gives (.hstDbTally page amount) s (fun u => Misused s u t 1 m 3 ∧ csrGet u (tallyAddr t m) = csrGet s (tallyAddr t m))) ∧
        (dbKind s d = 3 → (tail.toNat + 2 ^ 32 - wqHead s (m / 256) (m % 256)) % 2 ^ 32 ≤ wqSize s (m / 256) (m % 256) → Gives (.hstDbWq page tail) s (fun u =>
          regsOnly u [wqPtr (m / 256) (m % 256)] ∧ wqTail u (m / 256) (m % 256) = tail.toNat ∧ wqHead u (m / 256) (m % 256) = wqHead s (m / 256) (m % 256))) ∧
        (dbKind s d = 3 → wqSize s (m / 256) (m % 256) < (tail.toNat + 2 ^ 32 - wqHead s (m / 256) (m % 256)) % 2 ^ 32 →
          noted (.hstDbWq page tail) (0x1000 + 16 * (m / 256)) 0x29 CONTAIN) ∧
        (dbKind s d ≠ 1 → noted (.hstDbSignal page amount) 0x7003 0x03 NOTE) ∧ (dbKind s d ≠ 2 → noted (.hstDbTally page amount) 0x7003 0x03 NOTE) ∧
        (dbKind s d ≠ 3 → noted (.hstDbWq page tail) 0x7003 0x03 NOTE)) ∧
      (hostUp s = true → off.toNat + bytes.length ≤ 16384 → off.toNat % 4 = 0 → bytes.length % 4 = 0 →
        (st ≠ 1 → Gives (.mbxPayloadWrite off bytes) s (fun u => u = { s with mbxPay := u.mbxPay } ∧ ∀ i, payByte u i =
          if off.toNat ≤ i ∧ i < off.toNat + bytes.length then bytes.getD (i - off.toNat) 0 else payByte s i)) ∧
        (st = 1 → noted (.mbxPayloadWrite off bytes) 0x7001 0x03 NOTE)) ∧
      (hostUp s = true →
        (s.load = none → Gives (.hstLoadProdWrite v) s (fun u => regsOnly u [hstCsr 0x28] ∧ csrGet u (hstCsr 0x28) = v)) ∧
        (s.load = some l → l.got.length ≤ upto → Gives (.hstLoadProdWrite v) s (fun u => csrGet u (hstCsr 0x28) = v ∧
          csrGet u (hstCsr 0x30) = BitVec.ofNat 64 upto ∧ u.plans = s.plans ∧ u.load.map (fun x => x.got) = some (l.got ++ came) ∧
          ((∀ im, earlyOf fed (l.got ++ came) l.bytes ≠ some (.ok im)) → SameMem s u ∧ u.load.map (fun x => x.placed) = some l.placed) ∧
          (∀ im idx, earlyOf fed (l.got ++ came) l.bytes = some (.ok im) → l.placed = [] → loadChecked fed l.slot im = .ok (idx, x) →
            u.load.map (fun y => y.placed) = some idx ∧ ∀ i ∈ idx, rgnValid u i = rgnValid x i))) ∧
        (csrF s evqCfg 0 1 = 0 → Gives (.evqEnable cfg) s (fun u => csrF u evqCfg 0 1 = 1 ∧ csrGet u evqPtr = 0 ∧ u.evqOldest = none ∧ SameMem s u)) ∧
        (lostN = 0 ∨ csrF s evqCfg 0 1 = 0 → Gives (.evqHeadWrite head) s (fun u => regsOnly u [evqPtr] ∧ csrF u evqPtr 0 32 = head.toNat ∧
          csrF u evqPtr 32 32 = csrF s evqPtr 32 32)) ∧
        (lostN ≠ 0 → csrF s evqCfg 0 1 = 1 → (csrF s evqPtr 32 32 + 2 ^ 32 - head.toNat) % 2 ^ 32 ≠ 2 ^ csrF s evqCfg 1 5 →
          Gives (.evqHeadWrite head) s (fun u => csrGet u evqLost = 0 ∧ csrF u evqPtr 0 32 = head.toNat ∧
            csrF u evqPtr 32 32 = (csrF s evqPtr 32 32 + 1) % 2 ^ 32))) ∧
      (s.load = some l → MbxInProgress s c 0x10 → c.tag = tag.toNat → l.got.length < l.bytes → ringEnd s l = none → s.now ≤ time →
        l.lastAdvance + 10000000000 ≤ time → MbxAnswers (.loadStalled time) s tag 0x13 (min (l.got.length / 1048576) (2 ^ 32 - 1)) [] (fun u => u.load = none ∧
          u.now = time ∧ u.plans = s.plans ∧ SameMem s u ∧ ∀ i ∈ l.placed, i < 4096 → rgnValid u i = false)) ∧
      (s.aborting = true → s.oobCmd = none → Gives .abortComplete s (fun u => u.aborting = false ∧ csrF u (hstCsr 0x80008) 0 1 = 0 ∧
        csrF u (hstCsr 0x80008) 32 32 = (csrF s (hstCsr 0x80008) 32 32 + 1) % 2 ^ 32 ∧ u.cmd = none ∧ csrF u (hstCsr 0x1010) 0 2 = 0 ∧
        (s.cmd = some c → csrF u (hstCsr 0x1018) 0 8 = 0x11) ∧ (s.cmd = none → LedgerRoom s → Reported u 0x7000 0x28 NOTE))) ∧
      (s.evqOldest = some b → s.evqRaised + csrF s evqCfg 13 10 * 1000 ≤ time → s.now ≤ time → Gives (.evqCoalesceTimer time) s (fun u => u.now = time ∧
        u.evqOldest = none ∧ u.evqRaised = time ∧ (csrF s (hstCsr (0xF0008 + 0x10 * csrF s evqCfg 6 6)) 32 1 = 0 →
          u.outbox = s.outbox ++ [.msix (csrF s evqCfg 6 6)]))) ∧
      (csrF s evqCfg 0 1 = 1 → Gives .evqWriteError s (fun u => csrF u evqCfg 0 1 = 0 ∧ SameMem s u ∧ (LedgerRoom s → Reported u 0x7004 0x25 CONTAIN))) ∧
      (bar2Up s = true → s.rest = 0 →
        (bar2Tgt s at2 n false = some g → s.ledger.inj = [] → s.ueSectors = [] → Gives (.bar2Read o36 n) s (fun u => u.outbox = s.outbox ++ [.bar2Data (memBytes s (tgtAddr s g) n)
          (psnIn s (tgtAddr s g) n)] ∧ u = { s with csr := u.csr, outbox := u.outbox })) ∧
        (bar2Tgt s at2 n false = none → Gives (.bar2Read o36 n) s (fun u => u.outbox = s.outbox ++ [.bar2Data (List.replicate n 0xFF) false] ∧
          (csrF s (hstCsr 0x20) 46 1 = 0 → csrGet u (hstCsr 0x20) = BitVec.ofNat 64 (at2 % 2 ^ 45 + 2 ^ 46)) ∧ (LedgerRoom s → Reported u 0x7002 0x04 NOTE))) ∧
        (bar2Tgt s at2 bytes.length true = some g → Gives (.bar2Write o36 bytes ep) s (fun u => memBytes u (tgtAddr s g) bytes.length = bytes ∧
          SameMemBut s u (tgtAddr s g) bytes.length ∧ (ep = true → 0 < bytes.length → psnIn u (tgtAddr s g) bytes.length = true) ∧ u.tiles = s.tiles)) ∧
        (bar2Tgt s at2 bytes.length true = none → Gives (.bar2Write o36 bytes ep) s (fun u => SameMem s u ∧ (csrF s (hstCsr 0x20) 46 1 = 0 →
          csrGet u (hstCsr 0x20) = BitVec.ofNat 64 (at2 % 2 ^ 45 + 2 ^ 45 + 2 ^ 46)) ∧ (LedgerRoom s → Reported u 0x7002 0x04 NOTE)))) ∧
      (stewardUp s = true →
        (getF v 0 11 ≤ 1600 → getF v 11 13 ≤ 5000 → Gives (.registerWrite .steward (BitVec.ofNat 45 (govCsr 0x10)) 8 v) s (fun u => regsOnly u [govCsr 0x10] ∧
          csrF u (govCsr 0x10) 0 24 = getF v 0 24)) ∧
        (1600 < getF v 0 11 → getF v 11 13 ≤ 5000 → Gives (.registerWrite .steward (BitVec.ofNat 45 (govCsr 0x10)) 8 v) s (fun u =>
          SameCsrBut s u [govCsr 0x10, ldgCsr 0x70] ∧ csrF u (govCsr 0x10) 0 11 = csrF s (govCsr 0x10) 0 11 ∧ csrF u (govCsr 0x10) 11 13 = getF v 11 13 ∧
          (LedgerRoom s → Reported u 0x9000 0x01 NOTE))) ∧
        (inCsrSpace ad.toNat = true → ad.toNat % 8 = 0 → regAt ad.toNat = none → noted (.registerWrite .steward ad 8 v) (csrSource ad.toNat) 0x02 NOTE) ∧
        (inCsrSpace ad.toNat = true → ad.toNat % 8 = 0 → regAt ad.toNat = some r → r.perm = .none →
          noted (.registerWrite .steward ad 8 v) (csrSource ad.toNat) 0x03 NOTE) ∧
        (inCsrSpace ad.toNat = true → (n ≠ 4 ∧ n ≠ 8) ∨ ad.toNat % n ≠ 0 → Gives (.registerWrite .steward ad n v) s (fun u => u = s)) ∧
        (cntClr ad.toNat = some (b, rs) → Gives (.counterClear .steward ad) s (fun u => ∀ e ∈ rs, ∀ x, e.1 ≤ x → x < e.1 + e.2 → csrGet u x = csrReset x))) ∧
      (sramBase ≤ ad.toNat → ad.toNat < sramTop → 0 < n → n ≤ 8 →
        (who = .steward ∧ stewardUp s = true) ∨ (who = .jtag ∧ csrF s (inkCsr 0x20) 2 1 = 1 ∧ s.pins.mains = true ∧ s.boot ≠ 8) →
        (∀ z, sramTgt ad.toNat n = .ok (.spad z) → Gives (.registerWrite who ad n v) s (fun u => memBytes u z n = leBytes n v.toNat ∧ SameMemBut s u z n)) ∧
        (∀ z, sramTgt ad.toNat n = .ok (.hole z) → noted (.registerWrite who ad n v) (0x600 + (z - sramBase) / 0x800000) 0x02 NOTE) ∧
        (sramTgt ad.toNat n = .error .straddle → noted (.registerWrite who ad n v) 0x8000 0x04 NOTE) ∧
        (sramTgt ad.toNat n = .error .fault →
          (activeSlots s = [] → Gives (.registerWrite who ad n v) s (fun u => memBytes u ad.toNat n = leBytes n v.toNat ∧ SameMemBut s u ad.toNat n)) ∧
          (activeSlots s ≠ [] → noted (.registerWrite who ad n v) 0x8000 0x04 NOTE))) ∧
      (inCsrSpace ad.toNat = false → ad.toNat < sramBase ∨ sramTop ≤ ad.toNat →
        exec (.registerWrite who ad n v) s = .fault (.illFormed "REGISTER_WRITE outside CSR space"))

/-! ### The block as a whole -/

/-- A step takes the command at the front of the queue and runs it on the state with the rest of the queue; on an empty queue the block idles (log entry 1), and in
D0 only time passes: memory, plans and the ledger stay as they are, nothing leaves the module, and the time base moves on by 1 ns. -/
def Obligations.StepRunsTheFrontCommand : Prop :=
  ∀ (s : State) (c : Instr) (rest : List Instr),
    step { s with pending := c :: rest } = exec c { s with pending := rest } ∧
    (s.pending = [] → ∃ u, step s = .next u ∧ u.pending = [] ∧ (s.dstate = 0 → u.now = s.now + 1 ∧ u.plans = s.plans ∧ SameMem s u ∧ u.ledger = s.ledger ∧
      u.outbox = s.outbox))

/-- R537, R540 and the reset columns of the register tables. After AUX power-on the time base is 0 and boot is at stage 1; nothing defined is stored in DRAM or tile
SRAM; no task, plan, request, stream or fault class exists; registers hold their tables' values; and the state is in canonical form. Where a table gives no value the
model's own stands (log entry 2). -/
def Obligations.ResetStateIsCanonicalAndAsTheTablesSay : Prop :=
  let z := State.reset
  Inv z ∧ z.pending = [] ∧ z.now = 0 ∧ z.boot = 1 ∧ z.rest = 0 ∧ z.resetting = 0 ∧ z.aborting = false ∧ z.pins.ready = false ∧ z.pins.pwrfail = true ∧
    z.pins.mains = false ∧ halted z = false ∧ z.ledger.queue = [] ∧ z.ledger.nextSeq = 0 ∧ z.reqs = [] ∧
    (∀ a, a < dramTop ∨ (sramBase ≤ a ∧ a < sramTop) → memByte z a = Config.freeByte 0 a) ∧
    z.woken = [] ∧ z.dbHeld = [] ∧ z.ueSectors = [] ∧ z.pcie = none ∧ z.mgmt.keys = none ∧
    (∀ k, tileOf z k = Tile.init) ∧ (∀ i, planOf z i = none) ∧ (∀ i, i < 4096 → rgnValid z i = false) ∧
    (∀ t, t < 256 → csrGet z (tileCsr t 0x2000) = BitVec.ofNat 64 (2048 + 1 * 2 ^ 16 + 7 * 2 ^ 17) ∧ csrGet z (tileCsr t 0x3008) = BitVec.ofNat 64 (262144 + 4096 * 2 ^ 19)) ∧
    (∀ c, c < 16 → csrGet z (clusterCsr c 0) = BitVec.ofNat 64 (1 + 2 + 10 * 8)) ∧
    (∀ p, p < 4 → csrGet z (memCsr p 0x10) = BitVec.ofNat 64 (12 + 4 * 2 ^ 5 + 4 * 2 ^ 10) ∧ csrGet z (memCsr p 0x18) = BitVec.ofNat 64 (128 + 8 * 2 ^ 16)) ∧
    csrGet z (fabCsr 0) = BitVec.ofNat 64 (2 + 4 + 64 * 8 + 20 * 2 ^ 13) ∧ csrGet z (fabCsr 0x08) = 0 ∧
    csrGet z (twnCsr 0) = 2 ∧ csrGet z (twnCsr 0x08) = BitVec.ofNat 64 (100 + 1000 * 2 ^ 16) ∧
    csrGet z (govCsr 0x08) = BitVec.ofNat 64 (1200 + 2000 * 2 ^ 11) ∧
    csrGet z (ldgCsr 0x08) = BitVec.ofNat 64 (16 + 1000 * 2 ^ 11 + 50 * 2 ^ 27 + 5000 * 2 ^ 41) ∧ csrGet z (hstCsr 0x1010) = 0 ∧ csrGet z (inkCsr 0x18) = BitVec.ofNat 64 (1000 * 16)

/-- R513, R540, and the canonical form of the model's data (the model's own). From every state that meets the invariant a step leads to one that meets it, whatever the command; the
queue has lost its front command and nothing else, what has left the module stays left, the time base never goes back but at AUX power-on, and free values are
never drawn twice.
Where the manual leaves it open it follows log entry 57, the model's choice. -/
def Obligations.EveryStepKeepsTheInvariant : Prop :=
  ∀ (s t : State), Inv s → step s = .next t →
    Inv t ∧ t.pending = s.pending.tail ∧ s.outbox <+: t.outbox ∧ (s.pending.head? ≠ some .auxPowerOn → s.now ≤ t.now) ∧ s.freeCtr ≤ t.freeCtr
end

