-- ==== Sys2Proof/Laws/State.lean ====
section
/-! SUPPORT. What each update of one part of the state leaves alone: one lemma per field. -/

namespace Sys2Proof.Machine

section
variable (s : State) (a : Nat) (v : Word)
@[simp] theorem csrPut_pending : (csrPut s a v).pending = s.pending := rfl
@[simp] theorem csrPut_now : (csrPut s a v).now = s.now := rfl
@[simp] theorem csrPut_freeCtr : (csrPut s a v).freeCtr = s.freeCtr := rfl
@[simp] theorem csrPut_outbox : (csrPut s a v).outbox = s.outbox := rfl
@[simp] theorem csrPut_mem : (csrPut s a v).mem = s.mem := rfl
@[simp] theorem csrPut_undef : (csrPut s a v).undef = s.undef := rfl
@[simp] theorem csrPut_dirty : (csrPut s a v).dirty = s.dirty := rfl
@[simp] theorem csrPut_staged : (csrPut s a v).staged = s.staged := rfl
@[simp] theorem csrPut_poison : (csrPut s a v).poison = s.poison := rfl
@[simp] theorem csrPut_ueSectors : (csrPut s a v).ueSectors = s.ueSectors := rfl
@[simp] theorem csrPut_patrol : (csrPut s a v).patrol = s.patrol := rfl
@[simp] theorem csrPut_badSpares : (csrPut s a v).badSpares = s.badSpares := rfl
@[simp] theorem csrPut_ceTrack : (csrPut s a v).ceTrack = s.ceTrack := rfl
@[simp] theorem csrPut_retireQ : (csrPut s a v).retireQ = s.retireQ := rfl
@[simp] theorem csrPut_lowPolls : (csrPut s a v).lowPolls = s.lowPolls := rfl
@[simp] theorem csrPut_tiles : (csrPut s a v).tiles = s.tiles := rfl
@[simp] theorem csrPut_disps : (csrPut s a v).disps = s.disps := rfl
@[simp] theorem csrPut_pans : (csrPut s a v).pans = s.pans := rfl
@[simp] theorem csrPut_suspended : (csrPut s a v).suspended = s.suspended := rfl
@[simp] theorem csrPut_ended : (csrPut s a v).ended = s.ended := rfl
@[simp] theorem csrPut_taskCtr : (csrPut s a v).taskCtr = s.taskCtr := rfl
@[simp] theorem csrPut_traceLost : (csrPut s a v).traceLost = s.traceLost := rfl
@[simp] theorem csrPut_semQ : (csrPut s a v).semQ = s.semQ := rfl
@[simp] theorem csrPut_tallyQ : (csrPut s a v).tallyQ = s.tallyQ := rfl
@[simp] theorem csrPut_notifyLast : (csrPut s a v).notifyLast = s.notifyLast := rfl
@[simp] theorem csrPut_barArr : (csrPut s a v).barArr = s.barArr := rfl
@[simp] theorem csrPut_barRel : (csrPut s a v).barRel = s.barRel := rfl
@[simp] theorem csrPut_groupWait : (csrPut s a v).groupWait = s.groupWait := rfl
@[simp] theorem csrPut_partials : (csrPut s a v).partials = s.partials := rfl
@[simp] theorem csrPut_reqs : (csrPut s a v).reqs = s.reqs := rfl
@[simp] theorem csrPut_nextTag : (csrPut s a v).nextTag = s.nextTag := rfl
@[simp] theorem csrPut_owed : (csrPut s a v).owed = s.owed := rfl
@[simp] theorem csrPut_links : (csrPut s a v).links = s.links := rfl
@[simp] theorem csrPut_shape : (csrPut s a v).shape = s.shape := rfl
@[simp] theorem csrPut_fabArr : (csrPut s a v).fabArr = s.fabArr := rfl
@[simp] theorem csrPut_colls : (csrPut s a v).colls = s.colls := rfl
@[simp] theorem csrPut_collHeld : (csrPut s a v).collHeld = s.collHeld := rfl
@[simp] theorem csrPut_probes : (csrPut s a v).probes = s.probes := rfl
@[simp] theorem csrPut_slowAt : (csrPut s a v).slowAt = s.slowAt := rfl
@[simp] theorem csrPut_servedBy : (csrPut s a v).servedBy = s.servedBy := rfl
@[simp] theorem csrPut_mgmtIn : (csrPut s a v).mgmtIn = s.mgmtIn := rfl
@[simp] theorem csrPut_twin : (csrPut s a v).twin = s.twin := rfl
@[simp] theorem csrPut_ledger : (csrPut s a v).ledger = s.ledger := rfl
@[simp] theorem csrPut_plans : (csrPut s a v).plans = s.plans := rfl
@[simp] theorem csrPut_runCtr : (csrPut s a v).runCtr = s.runCtr := rfl
@[simp] theorem csrPut_verInfo : (csrPut s a v).verInfo = s.verInfo := rfl
@[simp] theorem csrPut_redirect : (csrPut s a v).redirect = s.redirect := rfl
@[simp] theorem csrPut_moveFrom : (csrPut s a v).moveFrom = s.moveFrom := rfl
@[simp] theorem csrPut_grants : (csrPut s a v).grants = s.grants := rfl
@[simp] theorem csrPut_rdrStale : (csrPut s a v).rdrStale = s.rdrStale := rfl
@[simp] theorem csrPut_freed : (csrPut s a v).freed = s.freed := rfl
@[simp] theorem csrPut_copies : (csrPut s a v).copies = s.copies := rfl
@[simp] theorem csrPut_policy : (csrPut s a v).policy = s.policy := rfl
@[simp] theorem csrPut_policyNext : (csrPut s a v).policyNext = s.policyNext := rfl
@[simp] theorem csrPut_freeze : (csrPut s a v).freeze = s.freeze := rfl
@[simp] theorem csrPut_freezeNext : (csrPut s a v).freezeNext = s.freezeNext := rfl
@[simp] theorem csrPut_idleSince : (csrPut s a v).idleSince = s.idleSince := rfl
@[simp] theorem csrPut_cmd : (csrPut s a v).cmd = s.cmd := rfl
@[simp] theorem csrPut_oobCmd : (csrPut s a v).oobCmd = s.oobCmd := rfl
@[simp] theorem csrPut_mbxPay : (csrPut s a v).mbxPay = s.mbxPay := rfl
@[simp] theorem csrPut_mbxGen : (csrPut s a v).mbxGen = s.mbxGen := rfl
@[simp] theorem csrPut_load : (csrPut s a v).load = s.load := rfl
@[simp] theorem csrPut_evqOldest : (csrPut s a v).evqOldest = s.evqOldest := rfl
@[simp] theorem csrPut_evqRaised : (csrPut s a v).evqRaised = s.evqRaised := rfl
@[simp] theorem csrPut_dbHeld : (csrPut s a v).dbHeld = s.dbHeld := rfl
@[simp] theorem csrPut_aborting : (csrPut s a v).aborting = s.aborting := rfl
@[simp] theorem csrPut_dstate : (csrPut s a v).dstate = s.dstate := rfl
@[simp] theorem csrPut_boot : (csrPut s a v).boot = s.boot := rfl
@[simp] theorem csrPut_resetting : (csrPut s a v).resetting = s.resetting := rfl
@[simp] theorem csrPut_rest : (csrPut s a v).rest = s.rest := rfl
@[simp] theorem csrPut_woken : (csrPut s a v).woken = s.woken := rfl
@[simp] theorem csrPut_gov : (csrPut s a v).gov = s.gov := rfl
@[simp] theorem csrPut_mgmt : (csrPut s a v).mgmt = s.mgmt := rfl
@[simp] theorem csrPut_pins : (csrPut s a v).pins = s.pins := rfl
@[simp] theorem csrPut_pcie : (csrPut s a v).pcie = s.pcie := rfl
end

section
variable (s : State) (a lo w v : Nat)
@[simp] theorem csrSetF_pending : (csrSetF s a lo w v).pending = s.pending := rfl
@[simp] theorem csrSetF_now : (csrSetF s a lo w v).now = s.now := rfl
@[simp] theorem csrSetF_freeCtr : (csrSetF s a lo w v).freeCtr = s.freeCtr := rfl
@[simp] theorem csrSetF_outbox : (csrSetF s a lo w v).outbox = s.outbox := rfl
@[simp] theorem csrSetF_mem : (csrSetF s a lo w v).mem = s.mem := rfl
@[simp] theorem csrSetF_undef : (csrSetF s a lo w v).undef = s.undef := rfl
@[simp] theorem csrSetF_dirty : (csrSetF s a lo w v).dirty = s.dirty := rfl
@[simp] theorem csrSetF_staged : (csrSetF s a lo w v).staged = s.staged := rfl
@[simp] theorem csrSetF_poison : (csrSetF s a lo w v).poison = s.poison := rfl
@[simp] theorem csrSetF_ueSectors : (csrSetF s a lo w v).ueSectors = s.ueSectors := rfl
@[simp] theorem csrSetF_patrol : (csrSetF s a lo w v).patrol = s.patrol := rfl
@[simp] theorem csrSetF_badSpares : (csrSetF s a lo w v).badSpares = s.badSpares := rfl
@[simp] theorem csrSetF_ceTrack : (csrSetF s a lo w v).ceTrack = s.ceTrack := rfl
@[simp] theorem csrSetF_retireQ : (csrSetF s a lo w v).retireQ = s.retireQ := rfl
@[simp] theorem csrSetF_lowPolls : (csrSetF s a lo w v).lowPolls = s.lowPolls := rfl
@[simp] theorem csrSetF_tiles : (csrSetF s a lo w v).tiles = s.tiles := rfl
@[simp] theorem csrSetF_disps : (csrSetF s a lo w v).disps = s.disps := rfl
@[simp] theorem csrSetF_pans : (csrSetF s a lo w v).pans = s.pans := rfl
@[simp] theorem csrSetF_suspended : (csrSetF s a lo w v).suspended = s.suspended := rfl
@[simp] theorem csrSetF_ended : (csrSetF s a lo w v).ended = s.ended := rfl
@[simp] theorem csrSetF_taskCtr : (csrSetF s a lo w v).taskCtr = s.taskCtr := rfl
@[simp] theorem csrSetF_traceLost : (csrSetF s a lo w v).traceLost = s.traceLost := rfl
@[simp] theorem csrSetF_semQ : (csrSetF s a lo w v).semQ = s.semQ := rfl
@[simp] theorem csrSetF_tallyQ : (csrSetF s a lo w v).tallyQ = s.tallyQ := rfl
@[simp] theorem csrSetF_notifyLast : (csrSetF s a lo w v).notifyLast = s.notifyLast := rfl
@[simp] theorem csrSetF_barArr : (csrSetF s a lo w v).barArr = s.barArr := rfl
@[simp] theorem csrSetF_barRel : (csrSetF s a lo w v).barRel = s.barRel := rfl
@[simp] theorem csrSetF_groupWait : (csrSetF s a lo w v).groupWait = s.groupWait := rfl
@[simp] theorem csrSetF_partials : (csrSetF s a lo w v).partials = s.partials := rfl
@[simp] theorem csrSetF_reqs : (csrSetF s a lo w v).reqs = s.reqs := rfl
@[simp] theorem csrSetF_nextTag : (csrSetF s a lo w v).nextTag = s.nextTag := rfl
@[simp] theorem csrSetF_owed : (csrSetF s a lo w v).owed = s.owed := rfl
@[simp] theorem csrSetF_links : (csrSetF s a lo w v).links = s.links := rfl
@[simp] theorem csrSetF_shape : (csrSetF s a lo w v).shape = s.shape := rfl
@[simp] theorem csrSetF_fabArr : (csrSetF s a lo w v).fabArr = s.fabArr := rfl
@[simp] theorem csrSetF_colls : (csrSetF s a lo w v).colls = s.colls := rfl
@[simp] theorem csrSetF_collHeld : (csrSetF s a lo w v).collHeld = s.collHeld := rfl
@[simp] theorem csrSetF_probes : (csrSetF s a lo w v).probes = s.probes := rfl
@[simp] theorem csrSetF_slowAt : (csrSetF s a lo w v).slowAt = s.slowAt := rfl
@[simp] theorem csrSetF_servedBy : (csrSetF s a lo w v).servedBy = s.servedBy := rfl
@[simp] theorem csrSetF_mgmtIn : (csrSetF s a lo w v).mgmtIn = s.mgmtIn := rfl
@[simp] theorem csrSetF_twin : (csrSetF s a lo w v).twin = s.twin := rfl
@[simp] theorem csrSetF_ledger : (csrSetF s a lo w v).ledger = s.ledger := rfl
@[simp] theorem csrSetF_plans : (csrSetF s a lo w v).plans = s.plans := rfl
@[simp] theorem csrSetF_runCtr : (csrSetF s a lo w v).runCtr = s.runCtr := rfl
@[simp] theorem csrSetF_verInfo : (csrSetF s a lo w v).verInfo = s.verInfo := rfl
@[simp] theorem csrSetF_redirect : (csrSetF s a lo w v).redirect = s.redirect := rfl
@[simp] theorem csrSetF_moveFrom : (csrSetF s a lo w v).moveFrom = s.moveFrom := rfl
@[simp] theorem csrSetF_grants : (csrSetF s a lo w v).grants = s.grants := rfl
@[simp] theorem csrSetF_rdrStale : (csrSetF s a lo w v).rdrStale = s.rdrStale := rfl
@[simp] theorem csrSetF_freed : (csrSetF s a lo w v).freed = s.freed := rfl
@[simp] theorem csrSetF_copies : (csrSetF s a lo w v).copies = s.copies := rfl
@[simp] theorem csrSetF_policy : (csrSetF s a lo w v).policy = s.policy := rfl
@[simp] theorem csrSetF_policyNext : (csrSetF s a lo w v).policyNext = s.policyNext := rfl
@[simp] theorem csrSetF_freeze : (csrSetF s a lo w v).freeze = s.freeze := rfl
@[simp] theorem csrSetF_freezeNext : (csrSetF s a lo w v).freezeNext = s.freezeNext := rfl
@[simp] theorem csrSetF_idleSince : (csrSetF s a lo w v).idleSince = s.idleSince := rfl
@[simp] theorem csrSetF_cmd : (csrSetF s a lo w v).cmd = s.cmd := rfl
@[simp] theorem csrSetF_oobCmd : (csrSetF s a lo w v).oobCmd = s.oobCmd := rfl
@[simp] theorem csrSetF_mbxPay : (csrSetF s a lo w v).mbxPay = s.mbxPay := rfl
@[simp] theorem csrSetF_mbxGen : (csrSetF s a lo w v).mbxGen = s.mbxGen := rfl
@[simp] theorem csrSetF_load : (csrSetF s a lo w v).load = s.load := rfl
@[simp] theorem csrSetF_evqOldest : (csrSetF s a lo w v).evqOldest = s.evqOldest := rfl
@[simp] theorem csrSetF_evqRaised : (csrSetF s a lo w v).evqRaised = s.evqRaised := rfl
@[simp] theorem csrSetF_dbHeld : (csrSetF s a lo w v).dbHeld = s.dbHeld := rfl
@[simp] theorem csrSetF_aborting : (csrSetF s a lo w v).aborting = s.aborting := rfl
@[simp] theorem csrSetF_dstate : (csrSetF s a lo w v).dstate = s.dstate := rfl
@[simp] theorem csrSetF_boot : (csrSetF s a lo w v).boot = s.boot := rfl
@[simp] theorem csrSetF_resetting : (csrSetF s a lo w v).resetting = s.resetting := rfl
@[simp] theorem csrSetF_rest : (csrSetF s a lo w v).rest = s.rest := rfl
@[simp] theorem csrSetF_woken : (csrSetF s a lo w v).woken = s.woken := rfl
@[simp] theorem csrSetF_gov : (csrSetF s a lo w v).gov = s.gov := rfl
@[simp] theorem csrSetF_mgmt : (csrSetF s a lo w v).mgmt = s.mgmt := rfl
@[simp] theorem csrSetF_pins : (csrSetF s a lo w v).pins = s.pins := rfl
@[simp] theorem csrSetF_pcie : (csrSetF s a lo w v).pcie = s.pcie := rfl
end

section
variable (s : State) (a n : Nat)
@[simp] theorem csrAdd_pending : (csrAdd s a n).pending = s.pending := rfl
@[simp] theorem csrAdd_now : (csrAdd s a n).now = s.now := rfl
@[simp] theorem csrAdd_freeCtr : (csrAdd s a n).freeCtr = s.freeCtr := rfl
@[simp] theorem csrAdd_outbox : (csrAdd s a n).outbox = s.outbox := rfl
@[simp] theorem csrAdd_mem : (csrAdd s a n).mem = s.mem := rfl
@[simp] theorem csrAdd_undef : (csrAdd s a n).undef = s.undef := rfl
@[simp] theorem csrAdd_dirty : (csrAdd s a n).dirty = s.dirty := rfl
@[simp] theorem csrAdd_staged : (csrAdd s a n).staged = s.staged := rfl
@[simp] theorem csrAdd_poison : (csrAdd s a n).poison = s.poison := rfl
@[simp] theorem csrAdd_ueSectors : (csrAdd s a n).ueSectors = s.ueSectors := rfl
@[simp] theorem csrAdd_patrol : (csrAdd s a n).patrol = s.patrol := rfl
@[simp] theorem csrAdd_badSpares : (csrAdd s a n).badSpares = s.badSpares := rfl
@[simp] theorem csrAdd_ceTrack : (csrAdd s a n).ceTrack = s.ceTrack := rfl
@[simp] theorem csrAdd_retireQ : (csrAdd s a n).retireQ = s.retireQ := rfl
@[simp] theorem csrAdd_lowPolls : (csrAdd s a n).lowPolls = s.lowPolls := rfl
@[simp] theorem csrAdd_tiles : (csrAdd s a n).tiles = s.tiles := rfl
@[simp] theorem csrAdd_disps : (csrAdd s a n).disps = s.disps := rfl
@[simp] theorem csrAdd_pans : (csrAdd s a n).pans = s.pans := rfl
@[simp] theorem csrAdd_suspended : (csrAdd s a n).suspended = s.suspended := rfl
@[simp] theorem csrAdd_ended : (csrAdd s a n).ended = s.ended := rfl
@[simp] theorem csrAdd_taskCtr : (csrAdd s a n).taskCtr = s.taskCtr := rfl
@[simp] theorem csrAdd_traceLost : (csrAdd s a n).traceLost = s.traceLost := rfl
@[simp] theorem csrAdd_semQ : (csrAdd s a n).semQ = s.semQ := rfl
@[simp] theorem csrAdd_tallyQ : (csrAdd s a n).tallyQ = s.tallyQ := rfl
@[simp] theorem csrAdd_notifyLast : (csrAdd s a n).notifyLast = s.notifyLast := rfl
@[simp] theorem csrAdd_barArr : (csrAdd s a n).barArr = s.barArr := rfl
@[simp] theorem csrAdd_barRel : (csrAdd s a n).barRel = s.barRel := rfl
@[simp] theorem csrAdd_groupWait : (csrAdd s a n).groupWait = s.groupWait := rfl
@[simp] theorem csrAdd_partials : (csrAdd s a n).partials = s.partials := rfl
@[simp] theorem csrAdd_reqs : (csrAdd s a n).reqs = s.reqs := rfl
@[simp] theorem csrAdd_nextTag : (csrAdd s a n).nextTag = s.nextTag := rfl
@[simp] theorem csrAdd_owed : (csrAdd s a n).owed = s.owed := rfl
@[simp] theorem csrAdd_links : (csrAdd s a n).links = s.links := rfl
@[simp] theorem csrAdd_shape : (csrAdd s a n).shape = s.shape := rfl
@[simp] theorem csrAdd_fabArr : (csrAdd s a n).fabArr = s.fabArr := rfl
@[simp] theorem csrAdd_colls : (csrAdd s a n).colls = s.colls := rfl
@[simp] theorem csrAdd_collHeld : (csrAdd s a n).collHeld = s.collHeld := rfl
@[simp] theorem csrAdd_probes : (csrAdd s a n).probes = s.probes := rfl
@[simp] theorem csrAdd_slowAt : (csrAdd s a n).slowAt = s.slowAt := rfl
@[simp] theorem csrAdd_servedBy : (csrAdd s a n).servedBy = s.servedBy := rfl
@[simp] theorem csrAdd_mgmtIn : (csrAdd s a n).mgmtIn = s.mgmtIn := rfl
@[simp] theorem csrAdd_twin : (csrAdd s a n).twin = s.twin := rfl
@[simp] theorem csrAdd_ledger : (csrAdd s a n).ledger = s.ledger := rfl
@[simp] theorem csrAdd_plans : (csrAdd s a n).plans = s.plans := rfl
@[simp] theorem csrAdd_runCtr : (csrAdd s a n).runCtr = s.runCtr := rfl
@[simp] theorem csrAdd_verInfo : (csrAdd s a n).verInfo = s.verInfo := rfl
@[simp] theorem csrAdd_redirect : (csrAdd s a n).redirect = s.redirect := rfl
@[simp] theorem csrAdd_moveFrom : (csrAdd s a n).moveFrom = s.moveFrom := rfl
@[simp] theorem csrAdd_grants : (csrAdd s a n).grants = s.grants := rfl
@[simp] theorem csrAdd_rdrStale : (csrAdd s a n).rdrStale = s.rdrStale := rfl
@[simp] theorem csrAdd_freed : (csrAdd s a n).freed = s.freed := rfl
@[simp] theorem csrAdd_copies : (csrAdd s a n).copies = s.copies := rfl
@[simp] theorem csrAdd_policy : (csrAdd s a n).policy = s.policy := rfl
@[simp] theorem csrAdd_policyNext : (csrAdd s a n).policyNext = s.policyNext := rfl
@[simp] theorem csrAdd_freeze : (csrAdd s a n).freeze = s.freeze := rfl
@[simp] theorem csrAdd_freezeNext : (csrAdd s a n).freezeNext = s.freezeNext := rfl
@[simp] theorem csrAdd_idleSince : (csrAdd s a n).idleSince = s.idleSince := rfl
@[simp] theorem csrAdd_cmd : (csrAdd s a n).cmd = s.cmd := rfl
@[simp] theorem csrAdd_oobCmd : (csrAdd s a n).oobCmd = s.oobCmd := rfl
@[simp] theorem csrAdd_mbxPay : (csrAdd s a n).mbxPay = s.mbxPay := rfl
@[simp] theorem csrAdd_mbxGen : (csrAdd s a n).mbxGen = s.mbxGen := rfl
@[simp] theorem csrAdd_load : (csrAdd s a n).load = s.load := rfl
@[simp] theorem csrAdd_evqOldest : (csrAdd s a n).evqOldest = s.evqOldest := rfl
@[simp] theorem csrAdd_evqRaised : (csrAdd s a n).evqRaised = s.evqRaised := rfl
@[simp] theorem csrAdd_dbHeld : (csrAdd s a n).dbHeld = s.dbHeld := rfl
@[simp] theorem csrAdd_aborting : (csrAdd s a n).aborting = s.aborting := rfl
@[simp] theorem csrAdd_dstate : (csrAdd s a n).dstate = s.dstate := rfl
@[simp] theorem csrAdd_boot : (csrAdd s a n).boot = s.boot := rfl
@[simp] theorem csrAdd_resetting : (csrAdd s a n).resetting = s.resetting := rfl
@[simp] theorem csrAdd_rest : (csrAdd s a n).rest = s.rest := rfl
@[simp] theorem csrAdd_woken : (csrAdd s a n).woken = s.woken := rfl
@[simp] theorem csrAdd_gov : (csrAdd s a n).gov = s.gov := rfl
@[simp] theorem csrAdd_mgmt : (csrAdd s a n).mgmt = s.mgmt := rfl
@[simp] theorem csrAdd_pins : (csrAdd s a n).pins = s.pins := rfl
@[simp] theorem csrAdd_pcie : (csrAdd s a n).pcie = s.pcie := rfl
end

section
variable (s : State) (lo hi : Nat)
@[simp] theorem csrDrop_pending : (csrDrop s lo hi).pending = s.pending := rfl
@[simp] theorem csrDrop_now : (csrDrop s lo hi).now = s.now := rfl
@[simp] theorem csrDrop_freeCtr : (csrDrop s lo hi).freeCtr = s.freeCtr := rfl
@[simp] theorem csrDrop_outbox : (csrDrop s lo hi).outbox = s.outbox := rfl
@[simp] theorem csrDrop_mem : (csrDrop s lo hi).mem = s.mem := rfl
@[simp] theorem csrDrop_undef : (csrDrop s lo hi).undef = s.undef := rfl
@[simp] theorem csrDrop_dirty : (csrDrop s lo hi).dirty = s.dirty := rfl
@[simp] theorem csrDrop_staged : (csrDrop s lo hi).staged = s.staged := rfl
@[simp] theorem csrDrop_poison : (csrDrop s lo hi).poison = s.poison := rfl
@[simp] theorem csrDrop_ueSectors : (csrDrop s lo hi).ueSectors = s.ueSectors := rfl
@[simp] theorem csrDrop_patrol : (csrDrop s lo hi).patrol = s.patrol := rfl
@[simp] theorem csrDrop_badSpares : (csrDrop s lo hi).badSpares = s.badSpares := rfl
@[simp] theorem csrDrop_ceTrack : (csrDrop s lo hi).ceTrack = s.ceTrack := rfl
@[simp] theorem csrDrop_retireQ : (csrDrop s lo hi).retireQ = s.retireQ := rfl
@[simp] theorem csrDrop_lowPolls : (csrDrop s lo hi).lowPolls = s.lowPolls := rfl
@[simp] theorem csrDrop_tiles : (csrDrop s lo hi).tiles = s.tiles := rfl
@[simp] theorem csrDrop_disps : (csrDrop s lo hi).disps = s.disps := rfl
@[simp] theorem csrDrop_pans : (csrDrop s lo hi).pans = s.pans := rfl
@[simp] theorem csrDrop_suspended : (csrDrop s lo hi).suspended = s.suspended := rfl
@[simp] theorem csrDrop_ended : (csrDrop s lo hi).ended = s.ended := rfl
@[simp] theorem csrDrop_taskCtr : (csrDrop s lo hi).taskCtr = s.taskCtr := rfl
@[simp] theorem csrDrop_traceLost : (csrDrop s lo hi).traceLost = s.traceLost := rfl
@[simp] theorem csrDrop_semQ : (csrDrop s lo hi).semQ = s.semQ := rfl
@[simp] theorem csrDrop_tallyQ : (csrDrop s lo hi).tallyQ = s.tallyQ := rfl
@[simp] theorem csrDrop_notifyLast : (csrDrop s lo hi).notifyLast = s.notifyLast := rfl
@[simp] theorem csrDrop_barArr : (csrDrop s lo hi).barArr = s.barArr := rfl
@[simp] theorem csrDrop_barRel : (csrDrop s lo hi).barRel = s.barRel := rfl
@[simp] theorem csrDrop_groupWait : (csrDrop s lo hi).groupWait = s.groupWait := rfl
@[simp] theorem csrDrop_partials : (csrDrop s lo hi).partials = s.partials := rfl
@[simp] theorem csrDrop_reqs : (csrDrop s lo hi).reqs = s.reqs := rfl
@[simp] theorem csrDrop_nextTag : (csrDrop s lo hi).nextTag = s.nextTag := rfl
@[simp] theorem csrDrop_owed : (csrDrop s lo hi).owed = s.owed := rfl
@[simp] theorem csrDrop_links : (csrDrop s lo hi).links = s.links := rfl
@[simp] theorem csrDrop_shape : (csrDrop s lo hi).shape = s.shape := rfl
@[simp] theorem csrDrop_fabArr : (csrDrop s lo hi).fabArr = s.fabArr := rfl
@[simp] theorem csrDrop_colls : (csrDrop s lo hi).colls = s.colls := rfl
@[simp] theorem csrDrop_collHeld : (csrDrop s lo hi).collHeld = s.collHeld := rfl
@[simp] theorem csrDrop_probes : (csrDrop s lo hi).probes = s.probes := rfl
@[simp] theorem csrDrop_slowAt : (csrDrop s lo hi).slowAt = s.slowAt := rfl
@[simp] theorem csrDrop_servedBy : (csrDrop s lo hi).servedBy = s.servedBy := rfl
@[simp] theorem csrDrop_mgmtIn : (csrDrop s lo hi).mgmtIn = s.mgmtIn := rfl
@[simp] theorem csrDrop_twin : (csrDrop s lo hi).twin = s.twin := rfl
@[simp] theorem csrDrop_ledger : (csrDrop s lo hi).ledger = s.ledger := rfl
@[simp] theorem csrDrop_plans : (csrDrop s lo hi).plans = s.plans := rfl
@[simp] theorem csrDrop_runCtr : (csrDrop s lo hi).runCtr = s.runCtr := rfl
@[simp] theorem csrDrop_verInfo : (csrDrop s lo hi).verInfo = s.verInfo := rfl
@[simp] theorem csrDrop_redirect : (csrDrop s lo hi).redirect = s.redirect := rfl
@[simp] theorem csrDrop_moveFrom : (csrDrop s lo hi).moveFrom = s.moveFrom := rfl
@[simp] theorem csrDrop_grants : (csrDrop s lo hi).grants = s.grants := rfl
@[simp] theorem csrDrop_rdrStale : (csrDrop s lo hi).rdrStale = s.rdrStale := rfl
@[simp] theorem csrDrop_freed : (csrDrop s lo hi).freed = s.freed := rfl
@[simp] theorem csrDrop_copies : (csrDrop s lo hi).copies = s.copies := rfl
@[simp] theorem csrDrop_policy : (csrDrop s lo hi).policy = s.policy := rfl
@[simp] theorem csrDrop_policyNext : (csrDrop s lo hi).policyNext = s.policyNext := rfl
@[simp] theorem csrDrop_freeze : (csrDrop s lo hi).freeze = s.freeze := rfl
@[simp] theorem csrDrop_freezeNext : (csrDrop s lo hi).freezeNext = s.freezeNext := rfl
@[simp] theorem csrDrop_idleSince : (csrDrop s lo hi).idleSince = s.idleSince := rfl
@[simp] theorem csrDrop_cmd : (csrDrop s lo hi).cmd = s.cmd := rfl
@[simp] theorem csrDrop_oobCmd : (csrDrop s lo hi).oobCmd = s.oobCmd := rfl
@[simp] theorem csrDrop_mbxPay : (csrDrop s lo hi).mbxPay = s.mbxPay := rfl
@[simp] theorem csrDrop_mbxGen : (csrDrop s lo hi).mbxGen = s.mbxGen := rfl
@[simp] theorem csrDrop_load : (csrDrop s lo hi).load = s.load := rfl
@[simp] theorem csrDrop_evqOldest : (csrDrop s lo hi).evqOldest = s.evqOldest := rfl
@[simp] theorem csrDrop_evqRaised : (csrDrop s lo hi).evqRaised = s.evqRaised := rfl
@[simp] theorem csrDrop_dbHeld : (csrDrop s lo hi).dbHeld = s.dbHeld := rfl
@[simp] theorem csrDrop_aborting : (csrDrop s lo hi).aborting = s.aborting := rfl
@[simp] theorem csrDrop_dstate : (csrDrop s lo hi).dstate = s.dstate := rfl
@[simp] theorem csrDrop_boot : (csrDrop s lo hi).boot = s.boot := rfl
@[simp] theorem csrDrop_resetting : (csrDrop s lo hi).resetting = s.resetting := rfl
@[simp] theorem csrDrop_rest : (csrDrop s lo hi).rest = s.rest := rfl
@[simp] theorem csrDrop_woken : (csrDrop s lo hi).woken = s.woken := rfl
@[simp] theorem csrDrop_gov : (csrDrop s lo hi).gov = s.gov := rfl
@[simp] theorem csrDrop_mgmt : (csrDrop s lo hi).mgmt = s.mgmt := rfl
@[simp] theorem csrDrop_pins : (csrDrop s lo hi).pins = s.pins := rfl
@[simp] theorem csrDrop_pcie : (csrDrop s lo hi).pcie = s.pcie := rfl
end

section
variable (s : State) (t : Nat) (x : Tile)
@[simp] theorem setTile_pending : (setTile s t x).pending = s.pending := rfl
@[simp] theorem setTile_now : (setTile s t x).now = s.now := rfl
@[simp] theorem setTile_freeCtr : (setTile s t x).freeCtr = s.freeCtr := rfl
@[simp] theorem setTile_outbox : (setTile s t x).outbox = s.outbox := rfl
@[simp] theorem setTile_mem : (setTile s t x).mem = s.mem := rfl
@[simp] theorem setTile_undef : (setTile s t x).undef = s.undef := rfl
@[simp] theorem setTile_dirty : (setTile s t x).dirty = s.dirty := rfl
@[simp] theorem setTile_staged : (setTile s t x).staged = s.staged := rfl
@[simp] theorem setTile_poison : (setTile s t x).poison = s.poison := rfl
@[simp] theorem setTile_ueSectors : (setTile s t x).ueSectors = s.ueSectors := rfl
@[simp] theorem setTile_patrol : (setTile s t x).patrol = s.patrol := rfl
@[simp] theorem setTile_badSpares : (setTile s t x).badSpares = s.badSpares := rfl
@[simp] theorem setTile_ceTrack : (setTile s t x).ceTrack = s.ceTrack := rfl
@[simp] theorem setTile_retireQ : (setTile s t x).retireQ = s.retireQ := rfl
@[simp] theorem setTile_lowPolls : (setTile s t x).lowPolls = s.lowPolls := rfl
@[simp] theorem setTile_csr : (setTile s t x).csr = s.csr := rfl
@[simp] theorem setTile_disps : (setTile s t x).disps = s.disps := rfl
@[simp] theorem setTile_pans : (setTile s t x).pans = s.pans := rfl
@[simp] theorem setTile_suspended : (setTile s t x).suspended = s.suspended := rfl
@[simp] theorem setTile_ended : (setTile s t x).ended = s.ended := rfl
@[simp] theorem setTile_taskCtr : (setTile s t x).taskCtr = s.taskCtr := rfl
@[simp] theorem setTile_traceLost : (setTile s t x).traceLost = s.traceLost := rfl
@[simp] theorem setTile_semQ : (setTile s t x).semQ = s.semQ := rfl
@[simp] theorem setTile_tallyQ : (setTile s t x).tallyQ = s.tallyQ := rfl
@[simp] theorem setTile_notifyLast : (setTile s t x).notifyLast = s.notifyLast := rfl
@[simp] theorem setTile_barArr : (setTile s t x).barArr = s.barArr := rfl
@[simp] theorem setTile_barRel : (setTile s t x).barRel = s.barRel := rfl
@[simp] theorem setTile_groupWait : (setTile s t x).groupWait = s.groupWait := rfl
@[simp] theorem setTile_partials : (setTile s t x).partials = s.partials := rfl
@[simp] theorem setTile_reqs : (setTile s t x).reqs = s.reqs := rfl
@[simp] theorem setTile_nextTag : (setTile s t x).nextTag = s.nextTag := rfl
@[simp] theorem setTile_owed : (setTile s t x).owed = s.owed := rfl
@[simp] theorem setTile_links : (setTile s t x).links = s.links := rfl
@[simp] theorem setTile_shape : (setTile s t x).shape = s.shape := rfl
@[simp] theorem setTile_fabArr : (setTile s t x).fabArr = s.fabArr := rfl
@[simp] theorem setTile_colls : (setTile s t x).colls = s.colls := rfl
@[simp] theorem setTile_collHeld : (setTile s t x).collHeld = s.collHeld := rfl
@[simp] theorem setTile_probes : (setTile s t x).probes = s.probes := rfl
@[simp] theorem setTile_slowAt : (setTile s t x).slowAt = s.slowAt := rfl
@[simp] theorem setTile_servedBy : (setTile s t x).servedBy = s.servedBy := rfl
@[simp] theorem setTile_mgmtIn : (setTile s t x).mgmtIn = s.mgmtIn := rfl
@[simp] theorem setTile_twin : (setTile s t x).twin = s.twin := rfl
@[simp] theorem setTile_ledger : (setTile s t x).ledger = s.ledger := rfl
@[simp] theorem setTile_plans : (setTile s t x).plans = s.plans := rfl
@[simp] theorem setTile_runCtr : (setTile s t x).runCtr = s.runCtr := rfl
@[simp] theorem setTile_verInfo : (setTile s t x).verInfo = s.verInfo := rfl
@[simp] theorem setTile_redirect : (setTile s t x).redirect = s.redirect := rfl
@[simp] theorem setTile_moveFrom : (setTile s t x).moveFrom = s.moveFrom := rfl
@[simp] theorem setTile_grants : (setTile s t x).grants = s.grants := rfl
@[simp] theorem setTile_rdrStale : (setTile s t x).rdrStale = s.rdrStale := rfl
@[simp] theorem setTile_freed : (setTile s t x).freed = s.freed := rfl
@[simp] theorem setTile_copies : (setTile s t x).copies = s.copies := rfl
@[simp] theorem setTile_policy : (setTile s t x).policy = s.policy := rfl
@[simp] theorem setTile_policyNext : (setTile s t x).policyNext = s.policyNext := rfl
@[simp] theorem setTile_freeze : (setTile s t x).freeze = s.freeze := rfl
@[simp] theorem setTile_freezeNext : (setTile s t x).freezeNext = s.freezeNext := rfl
@[simp] theorem setTile_idleSince : (setTile s t x).idleSince = s.idleSince := rfl
@[simp] theorem setTile_cmd : (setTile s t x).cmd = s.cmd := rfl
@[simp] theorem setTile_oobCmd : (setTile s t x).oobCmd = s.oobCmd := rfl
@[simp] theorem setTile_mbxPay : (setTile s t x).mbxPay = s.mbxPay := rfl
@[simp] theorem setTile_mbxGen : (setTile s t x).mbxGen = s.mbxGen := rfl
@[simp] theorem setTile_load : (setTile s t x).load = s.load := rfl
@[simp] theorem setTile_evqOldest : (setTile s t x).evqOldest = s.evqOldest := rfl
@[simp] theorem setTile_evqRaised : (setTile s t x).evqRaised = s.evqRaised := rfl
@[simp] theorem setTile_dbHeld : (setTile s t x).dbHeld = s.dbHeld := rfl
@[simp] theorem setTile_aborting : (setTile s t x).aborting = s.aborting := rfl
@[simp] theorem setTile_dstate : (setTile s t x).dstate = s.dstate := rfl
@[simp] theorem setTile_boot : (setTile s t x).boot = s.boot := rfl
@[simp] theorem setTile_resetting : (setTile s t x).resetting = s.resetting := rfl
@[simp] theorem setTile_rest : (setTile s t x).rest = s.rest := rfl
@[simp] theorem setTile_woken : (setTile s t x).woken = s.woken := rfl
@[simp] theorem setTile_gov : (setTile s t x).gov = s.gov := rfl
@[simp] theorem setTile_mgmt : (setTile s t x).mgmt = s.mgmt := rfl
@[simp] theorem setTile_pins : (setTile s t x).pins = s.pins := rfl
@[simp] theorem setTile_pcie : (setTile s t x).pcie = s.pcie := rfl
end

section
variable (s : State) (t : Nat) (x : Core)
@[simp] theorem setCore_pending : (setCore s t x).pending = s.pending := rfl
@[simp] theorem setCore_now : (setCore s t x).now = s.now := rfl
@[simp] theorem setCore_freeCtr : (setCore s t x).freeCtr = s.freeCtr := rfl
@[simp] theorem setCore_outbox : (setCore s t x).outbox = s.outbox := rfl
@[simp] theorem setCore_mem : (setCore s t x).mem = s.mem := rfl
@[simp] theorem setCore_undef : (setCore s t x).undef = s.undef := rfl
@[simp] theorem setCore_dirty : (setCore s t x).dirty = s.dirty := rfl
@[simp] theorem setCore_staged : (setCore s t x).staged = s.staged := rfl
@[simp] theorem setCore_poison : (setCore s t x).poison = s.poison := rfl
@[simp] theorem setCore_ueSectors : (setCore s t x).ueSectors = s.ueSectors := rfl
@[simp] theorem setCore_patrol : (setCore s t x).patrol = s.patrol := rfl
@[simp] theorem setCore_badSpares : (setCore s t x).badSpares = s.badSpares := rfl
@[simp] theorem setCore_ceTrack : (setCore s t x).ceTrack = s.ceTrack := rfl
@[simp] theorem setCore_retireQ : (setCore s t x).retireQ = s.retireQ := rfl
@[simp] theorem setCore_lowPolls : (setCore s t x).lowPolls = s.lowPolls := rfl
@[simp] theorem setCore_csr : (setCore s t x).csr = s.csr := rfl
@[simp] theorem setCore_disps : (setCore s t x).disps = s.disps := rfl
@[simp] theorem setCore_pans : (setCore s t x).pans = s.pans := rfl
@[simp] theorem setCore_suspended : (setCore s t x).suspended = s.suspended := rfl
@[simp] theorem setCore_ended : (setCore s t x).ended = s.ended := rfl
@[simp] theorem setCore_taskCtr : (setCore s t x).taskCtr = s.taskCtr := rfl
@[simp] theorem setCore_traceLost : (setCore s t x).traceLost = s.traceLost := rfl
@[simp] theorem setCore_semQ : (setCore s t x).semQ = s.semQ := rfl
@[simp] theorem setCore_tallyQ : (setCore s t x).tallyQ = s.tallyQ := rfl
@[simp] theorem setCore_notifyLast : (setCore s t x).notifyLast = s.notifyLast := rfl
@[simp] theorem setCore_barArr : (setCore s t x).barArr = s.barArr := rfl
@[simp] theorem setCore_barRel : (setCore s t x).barRel = s.barRel := rfl
@[simp] theorem setCore_groupWait : (setCore s t x).groupWait = s.groupWait := rfl
@[simp] theorem setCore_partials : (setCore s t x).partials = s.partials := rfl
@[simp] theorem setCore_reqs : (setCore s t x).reqs = s.reqs := rfl
@[simp] theorem setCore_nextTag : (setCore s t x).nextTag = s.nextTag := rfl
@[simp] theorem setCore_owed : (setCore s t x).owed = s.owed := rfl
@[simp] theorem setCore_links : (setCore s t x).links = s.links := rfl
@[simp] theorem setCore_shape : (setCore s t x).shape = s.shape := rfl
@[simp] theorem setCore_fabArr : (setCore s t x).fabArr = s.fabArr := rfl
@[simp] theorem setCore_colls : (setCore s t x).colls = s.colls := rfl
@[simp] theorem setCore_collHeld : (setCore s t x).collHeld = s.collHeld := rfl
@[simp] theorem setCore_probes : (setCore s t x).probes = s.probes := rfl
@[simp] theorem setCore_slowAt : (setCore s t x).slowAt = s.slowAt := rfl
@[simp] theorem setCore_servedBy : (setCore s t x).servedBy = s.servedBy := rfl
@[simp] theorem setCore_mgmtIn : (setCore s t x).mgmtIn = s.mgmtIn := rfl
@[simp] theorem setCore_twin : (setCore s t x).twin = s.twin := rfl
@[simp] theorem setCore_ledger : (setCore s t x).ledger = s.ledger := rfl
@[simp] theorem setCore_plans : (setCore s t x).plans = s.plans := rfl
@[simp] theorem setCore_runCtr : (setCore s t x).runCtr = s.runCtr := rfl
@[simp] theorem setCore_verInfo : (setCore s t x).verInfo = s.verInfo := rfl
@[simp] theorem setCore_redirect : (setCore s t x).redirect = s.redirect := rfl
@[simp] theorem setCore_moveFrom : (setCore s t x).moveFrom = s.moveFrom := rfl
@[simp] theorem setCore_grants : (setCore s t x).grants = s.grants := rfl
@[simp] theorem setCore_rdrStale : (setCore s t x).rdrStale = s.rdrStale := rfl
@[simp] theorem setCore_freed : (setCore s t x).freed = s.freed := rfl
@[simp] theorem setCore_copies : (setCore s t x).copies = s.copies := rfl
@[simp] theorem setCore_policy : (setCore s t x).policy = s.policy := rfl
@[simp] theorem setCore_policyNext : (setCore s t x).policyNext = s.policyNext := rfl
@[simp] theorem setCore_freeze : (setCore s t x).freeze = s.freeze := rfl
@[simp] theorem setCore_freezeNext : (setCore s t x).freezeNext = s.freezeNext := rfl
@[simp] theorem setCore_idleSince : (setCore s t x).idleSince = s.idleSince := rfl
@[simp] theorem setCore_cmd : (setCore s t x).cmd = s.cmd := rfl
@[simp] theorem setCore_oobCmd : (setCore s t x).oobCmd = s.oobCmd := rfl
@[simp] theorem setCore_mbxPay : (setCore s t x).mbxPay = s.mbxPay := rfl
@[simp] theorem setCore_mbxGen : (setCore s t x).mbxGen = s.mbxGen := rfl
@[simp] theorem setCore_load : (setCore s t x).load = s.load := rfl
@[simp] theorem setCore_evqOldest : (setCore s t x).evqOldest = s.evqOldest := rfl
@[simp] theorem setCore_evqRaised : (setCore s t x).evqRaised = s.evqRaised := rfl
@[simp] theorem setCore_dbHeld : (setCore s t x).dbHeld = s.dbHeld := rfl
@[simp] theorem setCore_aborting : (setCore s t x).aborting = s.aborting := rfl
@[simp] theorem setCore_dstate : (setCore s t x).dstate = s.dstate := rfl
@[simp] theorem setCore_boot : (setCore s t x).boot = s.boot := rfl
@[simp] theorem setCore_resetting : (setCore s t x).resetting = s.resetting := rfl
@[simp] theorem setCore_rest : (setCore s t x).rest = s.rest := rfl
@[simp] theorem setCore_woken : (setCore s t x).woken = s.woken := rfl
@[simp] theorem setCore_gov : (setCore s t x).gov = s.gov := rfl
@[simp] theorem setCore_mgmt : (setCore s t x).mgmt = s.mgmt := rfl
@[simp] theorem setCore_pins : (setCore s t x).pins = s.pins := rfl
@[simp] theorem setCore_pcie : (setCore s t x).pcie = s.pcie := rfl
end

section
variable (s : State) (t : Nat) (x : Fgr)
@[simp] theorem setFgr_pending : (setFgr s t x).pending = s.pending := rfl
@[simp] theorem setFgr_now : (setFgr s t x).now = s.now := rfl
@[simp] theorem setFgr_freeCtr : (setFgr s t x).freeCtr = s.freeCtr := rfl
@[simp] theorem setFgr_outbox : (setFgr s t x).outbox = s.outbox := rfl
@[simp] theorem setFgr_mem : (setFgr s t x).mem = s.mem := rfl
@[simp] theorem setFgr_undef : (setFgr s t x).undef = s.undef := rfl
@[simp] theorem setFgr_dirty : (setFgr s t x).dirty = s.dirty := rfl
@[simp] theorem setFgr_staged : (setFgr s t x).staged = s.staged := rfl
@[simp] theorem setFgr_poison : (setFgr s t x).poison = s.poison := rfl
@[simp] theorem setFgr_ueSectors : (setFgr s t x).ueSectors = s.ueSectors := rfl
@[simp] theorem setFgr_patrol : (setFgr s t x).patrol = s.patrol := rfl
@[simp] theorem setFgr_badSpares : (setFgr s t x).badSpares = s.badSpares := rfl
@[simp] theorem setFgr_ceTrack : (setFgr s t x).ceTrack = s.ceTrack := rfl
@[simp] theorem setFgr_retireQ : (setFgr s t x).retireQ = s.retireQ := rfl
@[simp] theorem setFgr_lowPolls : (setFgr s t x).lowPolls = s.lowPolls := rfl
@[simp] theorem setFgr_csr : (setFgr s t x).csr = s.csr := rfl
@[simp] theorem setFgr_disps : (setFgr s t x).disps = s.disps := rfl
@[simp] theorem setFgr_pans : (setFgr s t x).pans = s.pans := rfl
@[simp] theorem setFgr_suspended : (setFgr s t x).suspended = s.suspended := rfl
@[simp] theorem setFgr_ended : (setFgr s t x).ended = s.ended := rfl
@[simp] theorem setFgr_taskCtr : (setFgr s t x).taskCtr = s.taskCtr := rfl
@[simp] theorem setFgr_traceLost : (setFgr s t x).traceLost = s.traceLost := rfl
@[simp] theorem setFgr_semQ : (setFgr s t x).semQ = s.semQ := rfl
@[simp] theorem setFgr_tallyQ : (setFgr s t x).tallyQ = s.tallyQ := rfl
@[simp] theorem setFgr_notifyLast : (setFgr s t x).notifyLast = s.notifyLast := rfl
@[simp] theorem setFgr_barArr : (setFgr s t x).barArr = s.barArr := rfl
@[simp] theorem setFgr_barRel : (setFgr s t x).barRel = s.barRel := rfl
@[simp] theorem setFgr_groupWait : (setFgr s t x).groupWait = s.groupWait := rfl
@[simp] theorem setFgr_partials : (setFgr s t x).partials = s.partials := rfl
@[simp] theorem setFgr_reqs : (setFgr s t x).reqs = s.reqs := rfl
@[simp] theorem setFgr_nextTag : (setFgr s t x).nextTag = s.nextTag := rfl
@[simp] theorem setFgr_owed : (setFgr s t x).owed = s.owed := rfl
@[simp] theorem setFgr_links : (setFgr s t x).links = s.links := rfl
@[simp] theorem setFgr_shape : (setFgr s t x).shape = s.shape := rfl
@[simp] theorem setFgr_fabArr : (setFgr s t x).fabArr = s.fabArr := rfl
@[simp] theorem setFgr_colls : (setFgr s t x).colls = s.colls := rfl
@[simp] theorem setFgr_collHeld : (setFgr s t x).collHeld = s.collHeld := rfl
@[simp] theorem setFgr_probes : (setFgr s t x).probes = s.probes := rfl
@[simp] theorem setFgr_slowAt : (setFgr s t x).slowAt = s.slowAt := rfl
@[simp] theorem setFgr_servedBy : (setFgr s t x).servedBy = s.servedBy := rfl
@[simp] theorem setFgr_mgmtIn : (setFgr s t x).mgmtIn = s.mgmtIn := rfl
@[simp] theorem setFgr_twin : (setFgr s t x).twin = s.twin := rfl
@[simp] theorem setFgr_ledger : (setFgr s t x).ledger = s.ledger := rfl
@[simp] theorem setFgr_plans : (setFgr s t x).plans = s.plans := rfl
@[simp] theorem setFgr_runCtr : (setFgr s t x).runCtr = s.runCtr := rfl
@[simp] theorem setFgr_verInfo : (setFgr s t x).verInfo = s.verInfo := rfl
@[simp] theorem setFgr_redirect : (setFgr s t x).redirect = s.redirect := rfl
@[simp] theorem setFgr_moveFrom : (setFgr s t x).moveFrom = s.moveFrom := rfl
@[simp] theorem setFgr_grants : (setFgr s t x).grants = s.grants := rfl
@[simp] theorem setFgr_rdrStale : (setFgr s t x).rdrStale = s.rdrStale := rfl
@[simp] theorem setFgr_freed : (setFgr s t x).freed = s.freed := rfl
@[simp] theorem setFgr_copies : (setFgr s t x).copies = s.copies := rfl
@[simp] theorem setFgr_policy : (setFgr s t x).policy = s.policy := rfl
@[simp] theorem setFgr_policyNext : (setFgr s t x).policyNext = s.policyNext := rfl
@[simp] theorem setFgr_freeze : (setFgr s t x).freeze = s.freeze := rfl
@[simp] theorem setFgr_freezeNext : (setFgr s t x).freezeNext = s.freezeNext := rfl
@[simp] theorem setFgr_idleSince : (setFgr s t x).idleSince = s.idleSince := rfl
@[simp] theorem setFgr_cmd : (setFgr s t x).cmd = s.cmd := rfl
@[simp] theorem setFgr_oobCmd : (setFgr s t x).oobCmd = s.oobCmd := rfl
@[simp] theorem setFgr_mbxPay : (setFgr s t x).mbxPay = s.mbxPay := rfl
@[simp] theorem setFgr_mbxGen : (setFgr s t x).mbxGen = s.mbxGen := rfl
@[simp] theorem setFgr_load : (setFgr s t x).load = s.load := rfl
@[simp] theorem setFgr_evqOldest : (setFgr s t x).evqOldest = s.evqOldest := rfl
@[simp] theorem setFgr_evqRaised : (setFgr s t x).evqRaised = s.evqRaised := rfl
@[simp] theorem setFgr_dbHeld : (setFgr s t x).dbHeld = s.dbHeld := rfl
@[simp] theorem setFgr_aborting : (setFgr s t x).aborting = s.aborting := rfl
@[simp] theorem setFgr_dstate : (setFgr s t x).dstate = s.dstate := rfl
@[simp] theorem setFgr_boot : (setFgr s t x).boot = s.boot := rfl
@[simp] theorem setFgr_resetting : (setFgr s t x).resetting = s.resetting := rfl
@[simp] theorem setFgr_rest : (setFgr s t x).rest = s.rest := rfl
@[simp] theorem setFgr_woken : (setFgr s t x).woken = s.woken := rfl
@[simp] theorem setFgr_gov : (setFgr s t x).gov = s.gov := rfl
@[simp] theorem setFgr_mgmt : (setFgr s t x).mgmt = s.mgmt := rfl
@[simp] theorem setFgr_pins : (setFgr s t x).pins = s.pins := rfl
@[simp] theorem setFgr_pcie : (setFgr s t x).pcie = s.pcie := rfl
end

section
variable (s : State) (t : Nat) (x : Cmb)
@[simp] theorem setCmb_pending : (setCmb s t x).pending = s.pending := rfl
@[simp] theorem setCmb_now : (setCmb s t x).now = s.now := rfl
@[simp] theorem setCmb_freeCtr : (setCmb s t x).freeCtr = s.freeCtr := rfl
@[simp] theorem setCmb_outbox : (setCmb s t x).outbox = s.outbox := rfl
@[simp] theorem setCmb_mem : (setCmb s t x).mem = s.mem := rfl
@[simp] theorem setCmb_undef : (setCmb s t x).undef = s.undef := rfl
@[simp] theorem setCmb_dirty : (setCmb s t x).dirty = s.dirty := rfl
@[simp] theorem setCmb_staged : (setCmb s t x).staged = s.staged := rfl
@[simp] theorem setCmb_poison : (setCmb s t x).poison = s.poison := rfl
@[simp] theorem setCmb_ueSectors : (setCmb s t x).ueSectors = s.ueSectors := rfl
@[simp] theorem setCmb_patrol : (setCmb s t x).patrol = s.patrol := rfl
@[simp] theorem setCmb_badSpares : (setCmb s t x).badSpares = s.badSpares := rfl
@[simp] theorem setCmb_ceTrack : (setCmb s t x).ceTrack = s.ceTrack := rfl
@[simp] theorem setCmb_retireQ : (setCmb s t x).retireQ = s.retireQ := rfl
@[simp] theorem setCmb_lowPolls : (setCmb s t x).lowPolls = s.lowPolls := rfl
@[simp] theorem setCmb_csr : (setCmb s t x).csr = s.csr := rfl
@[simp] theorem setCmb_disps : (setCmb s t x).disps = s.disps := rfl
@[simp] theorem setCmb_pans : (setCmb s t x).pans = s.pans := rfl
@[simp] theorem setCmb_suspended : (setCmb s t x).suspended = s.suspended := rfl
@[simp] theorem setCmb_ended : (setCmb s t x).ended = s.ended := rfl
@[simp] theorem setCmb_taskCtr : (setCmb s t x).taskCtr = s.taskCtr := rfl
@[simp] theorem setCmb_traceLost : (setCmb s t x).traceLost = s.traceLost := rfl
@[simp] theorem setCmb_semQ : (setCmb s t x).semQ = s.semQ := rfl
@[simp] theorem setCmb_tallyQ : (setCmb s t x).tallyQ = s.tallyQ := rfl
@[simp] theorem setCmb_notifyLast : (setCmb s t x).notifyLast = s.notifyLast := rfl
@[simp] theorem setCmb_barArr : (setCmb s t x).barArr = s.barArr := rfl
@[simp] theorem setCmb_barRel : (setCmb s t x).barRel = s.barRel := rfl
@[simp] theorem setCmb_groupWait : (setCmb s t x).groupWait = s.groupWait := rfl
@[simp] theorem setCmb_partials : (setCmb s t x).partials = s.partials := rfl
@[simp] theorem setCmb_reqs : (setCmb s t x).reqs = s.reqs := rfl
@[simp] theorem setCmb_nextTag : (setCmb s t x).nextTag = s.nextTag := rfl
@[simp] theorem setCmb_owed : (setCmb s t x).owed = s.owed := rfl
@[simp] theorem setCmb_links : (setCmb s t x).links = s.links := rfl
@[simp] theorem setCmb_shape : (setCmb s t x).shape = s.shape := rfl
@[simp] theorem setCmb_fabArr : (setCmb s t x).fabArr = s.fabArr := rfl
@[simp] theorem setCmb_colls : (setCmb s t x).colls = s.colls := rfl
@[simp] theorem setCmb_collHeld : (setCmb s t x).collHeld = s.collHeld := rfl
@[simp] theorem setCmb_probes : (setCmb s t x).probes = s.probes := rfl
@[simp] theorem setCmb_slowAt : (setCmb s t x).slowAt = s.slowAt := rfl
@[simp] theorem setCmb_servedBy : (setCmb s t x).servedBy = s.servedBy := rfl
@[simp] theorem setCmb_mgmtIn : (setCmb s t x).mgmtIn = s.mgmtIn := rfl
@[simp] theorem setCmb_twin : (setCmb s t x).twin = s.twin := rfl
@[simp] theorem setCmb_ledger : (setCmb s t x).ledger = s.ledger := rfl
@[simp] theorem setCmb_plans : (setCmb s t x).plans = s.plans := rfl
@[simp] theorem setCmb_runCtr : (setCmb s t x).runCtr = s.runCtr := rfl
@[simp] theorem setCmb_verInfo : (setCmb s t x).verInfo = s.verInfo := rfl
@[simp] theorem setCmb_redirect : (setCmb s t x).redirect = s.redirect := rfl
@[simp] theorem setCmb_moveFrom : (setCmb s t x).moveFrom = s.moveFrom := rfl
@[simp] theorem setCmb_grants : (setCmb s t x).grants = s.grants := rfl
@[simp] theorem setCmb_rdrStale : (setCmb s t x).rdrStale = s.rdrStale := rfl
@[simp] theorem setCmb_freed : (setCmb s t x).freed = s.freed := rfl
@[simp] theorem setCmb_copies : (setCmb s t x).copies = s.copies := rfl
@[simp] theorem setCmb_policy : (setCmb s t x).policy = s.policy := rfl
@[simp] theorem setCmb_policyNext : (setCmb s t x).policyNext = s.policyNext := rfl
@[simp] theorem setCmb_freeze : (setCmb s t x).freeze = s.freeze := rfl
@[simp] theorem setCmb_freezeNext : (setCmb s t x).freezeNext = s.freezeNext := rfl
@[simp] theorem setCmb_idleSince : (setCmb s t x).idleSince = s.idleSince := rfl
@[simp] theorem setCmb_cmd : (setCmb s t x).cmd = s.cmd := rfl
@[simp] theorem setCmb_oobCmd : (setCmb s t x).oobCmd = s.oobCmd := rfl
@[simp] theorem setCmb_mbxPay : (setCmb s t x).mbxPay = s.mbxPay := rfl
@[simp] theorem setCmb_mbxGen : (setCmb s t x).mbxGen = s.mbxGen := rfl
@[simp] theorem setCmb_load : (setCmb s t x).load = s.load := rfl
@[simp] theorem setCmb_evqOldest : (setCmb s t x).evqOldest = s.evqOldest := rfl
@[simp] theorem setCmb_evqRaised : (setCmb s t x).evqRaised = s.evqRaised := rfl
@[simp] theorem setCmb_dbHeld : (setCmb s t x).dbHeld = s.dbHeld := rfl
@[simp] theorem setCmb_aborting : (setCmb s t x).aborting = s.aborting := rfl
@[simp] theorem setCmb_dstate : (setCmb s t x).dstate = s.dstate := rfl
@[simp] theorem setCmb_boot : (setCmb s t x).boot = s.boot := rfl
@[simp] theorem setCmb_resetting : (setCmb s t x).resetting = s.resetting := rfl
@[simp] theorem setCmb_rest : (setCmb s t x).rest = s.rest := rfl
@[simp] theorem setCmb_woken : (setCmb s t x).woken = s.woken := rfl
@[simp] theorem setCmb_gov : (setCmb s t x).gov = s.gov := rfl
@[simp] theorem setCmb_mgmt : (setCmb s t x).mgmt = s.mgmt := rfl
@[simp] theorem setCmb_pins : (setCmb s t x).pins = s.pins := rfl
@[simp] theorem setCmb_pcie : (setCmb s t x).pcie = s.pcie := rfl
end

section
variable (s : State) (t : Nat) (x : Mxe)
@[simp] theorem setMxe_pending : (setMxe s t x).pending = s.pending := rfl
@[simp] theorem setMxe_now : (setMxe s t x).now = s.now := rfl
@[simp] theorem setMxe_freeCtr : (setMxe s t x).freeCtr = s.freeCtr := rfl
@[simp] theorem setMxe_outbox : (setMxe s t x).outbox = s.outbox := rfl
@[simp] theorem setMxe_mem : (setMxe s t x).mem = s.mem := rfl
@[simp] theorem setMxe_undef : (setMxe s t x).undef = s.undef := rfl
@[simp] theorem setMxe_dirty : (setMxe s t x).dirty = s.dirty := rfl
@[simp] theorem setMxe_staged : (setMxe s t x).staged = s.staged := rfl
@[simp] theorem setMxe_poison : (setMxe s t x).poison = s.poison := rfl
@[simp] theorem setMxe_ueSectors : (setMxe s t x).ueSectors = s.ueSectors := rfl
@[simp] theorem setMxe_patrol : (setMxe s t x).patrol = s.patrol := rfl
@[simp] theorem setMxe_badSpares : (setMxe s t x).badSpares = s.badSpares := rfl
@[simp] theorem setMxe_ceTrack : (setMxe s t x).ceTrack = s.ceTrack := rfl
@[simp] theorem setMxe_retireQ : (setMxe s t x).retireQ = s.retireQ := rfl
@[simp] theorem setMxe_lowPolls : (setMxe s t x).lowPolls = s.lowPolls := rfl
@[simp] theorem setMxe_csr : (setMxe s t x).csr = s.csr := rfl
@[simp] theorem setMxe_disps : (setMxe s t x).disps = s.disps := rfl
@[simp] theorem setMxe_pans : (setMxe s t x).pans = s.pans := rfl
@[simp] theorem setMxe_suspended : (setMxe s t x).suspended = s.suspended := rfl
@[simp] theorem setMxe_ended : (setMxe s t x).ended = s.ended := rfl
@[simp] theorem setMxe_taskCtr : (setMxe s t x).taskCtr = s.taskCtr := rfl
@[simp] theorem setMxe_traceLost : (setMxe s t x).traceLost = s.traceLost := rfl
@[simp] theorem setMxe_semQ : (setMxe s t x).semQ = s.semQ := rfl
@[simp] theorem setMxe_tallyQ : (setMxe s t x).tallyQ = s.tallyQ := rfl
@[simp] theorem setMxe_notifyLast : (setMxe s t x).notifyLast = s.notifyLast := rfl
@[simp] theorem setMxe_barArr : (setMxe s t x).barArr = s.barArr := rfl
@[simp] theorem setMxe_barRel : (setMxe s t x).barRel = s.barRel := rfl
@[simp] theorem setMxe_groupWait : (setMxe s t x).groupWait = s.groupWait := rfl
@[simp] theorem setMxe_partials : (setMxe s t x).partials = s.partials := rfl
@[simp] theorem setMxe_reqs : (setMxe s t x).reqs = s.reqs := rfl
@[simp] theorem setMxe_nextTag : (setMxe s t x).nextTag = s.nextTag := rfl
@[simp] theorem setMxe_owed : (setMxe s t x).owed = s.owed := rfl
@[simp] theorem setMxe_links : (setMxe s t x).links = s.links := rfl
@[simp] theorem setMxe_shape : (setMxe s t x).shape = s.shape := rfl
@[simp] theorem setMxe_fabArr : (setMxe s t x).fabArr = s.fabArr := rfl
@[simp] theorem setMxe_colls : (setMxe s t x).colls = s.colls := rfl
@[simp] theorem setMxe_collHeld : (setMxe s t x).collHeld = s.collHeld := rfl
@[simp] theorem setMxe_probes : (setMxe s t x).probes = s.probes := rfl
@[simp] theorem setMxe_slowAt : (setMxe s t x).slowAt = s.slowAt := rfl
@[simp] theorem setMxe_servedBy : (setMxe s t x).servedBy = s.servedBy := rfl
@[simp] theorem setMxe_mgmtIn : (setMxe s t x).mgmtIn = s.mgmtIn := rfl
@[simp] theorem setMxe_twin : (setMxe s t x).twin = s.twin := rfl
@[simp] theorem setMxe_ledger : (setMxe s t x).ledger = s.ledger := rfl
@[simp] theorem setMxe_plans : (setMxe s t x).plans = s.plans := rfl
@[simp] theorem setMxe_runCtr : (setMxe s t x).runCtr = s.runCtr := rfl
@[simp] theorem setMxe_verInfo : (setMxe s t x).verInfo = s.verInfo := rfl
@[simp] theorem setMxe_redirect : (setMxe s t x).redirect = s.redirect := rfl
@[simp] theorem setMxe_moveFrom : (setMxe s t x).moveFrom = s.moveFrom := rfl
@[simp] theorem setMxe_grants : (setMxe s t x).grants = s.grants := rfl
@[simp] theorem setMxe_rdrStale : (setMxe s t x).rdrStale = s.rdrStale := rfl
@[simp] theorem setMxe_freed : (setMxe s t x).freed = s.freed := rfl
@[simp] theorem setMxe_copies : (setMxe s t x).copies = s.copies := rfl
@[simp] theorem setMxe_policy : (setMxe s t x).policy = s.policy := rfl
@[simp] theorem setMxe_policyNext : (setMxe s t x).policyNext = s.policyNext := rfl
@[simp] theorem setMxe_freeze : (setMxe s t x).freeze = s.freeze := rfl
@[simp] theorem setMxe_freezeNext : (setMxe s t x).freezeNext = s.freezeNext := rfl
@[simp] theorem setMxe_idleSince : (setMxe s t x).idleSince = s.idleSince := rfl
@[simp] theorem setMxe_cmd : (setMxe s t x).cmd = s.cmd := rfl
@[simp] theorem setMxe_oobCmd : (setMxe s t x).oobCmd = s.oobCmd := rfl
@[simp] theorem setMxe_mbxPay : (setMxe s t x).mbxPay = s.mbxPay := rfl
@[simp] theorem setMxe_mbxGen : (setMxe s t x).mbxGen = s.mbxGen := rfl
@[simp] theorem setMxe_load : (setMxe s t x).load = s.load := rfl
@[simp] theorem setMxe_evqOldest : (setMxe s t x).evqOldest = s.evqOldest := rfl
@[simp] theorem setMxe_evqRaised : (setMxe s t x).evqRaised = s.evqRaised := rfl
@[simp] theorem setMxe_dbHeld : (setMxe s t x).dbHeld = s.dbHeld := rfl
@[simp] theorem setMxe_aborting : (setMxe s t x).aborting = s.aborting := rfl
@[simp] theorem setMxe_dstate : (setMxe s t x).dstate = s.dstate := rfl
@[simp] theorem setMxe_boot : (setMxe s t x).boot = s.boot := rfl
@[simp] theorem setMxe_resetting : (setMxe s t x).resetting = s.resetting := rfl
@[simp] theorem setMxe_rest : (setMxe s t x).rest = s.rest := rfl
@[simp] theorem setMxe_woken : (setMxe s t x).woken = s.woken := rfl
@[simp] theorem setMxe_gov : (setMxe s t x).gov = s.gov := rfl
@[simp] theorem setMxe_mgmt : (setMxe s t x).mgmt = s.mgmt := rfl
@[simp] theorem setMxe_pins : (setMxe s t x).pins = s.pins := rfl
@[simp] theorem setMxe_pcie : (setMxe s t x).pcie = s.pcie := rfl
end

section
variable (s : State) (t : Nat) (x : Vec)
@[simp] theorem setVec_pending : (setVec s t x).pending = s.pending := rfl
@[simp] theorem setVec_now : (setVec s t x).now = s.now := rfl
@[simp] theorem setVec_freeCtr : (setVec s t x).freeCtr = s.freeCtr := rfl
@[simp] theorem setVec_outbox : (setVec s t x).outbox = s.outbox := rfl
@[simp] theorem setVec_mem : (setVec s t x).mem = s.mem := rfl
@[simp] theorem setVec_undef : (setVec s t x).undef = s.undef := rfl
@[simp] theorem setVec_dirty : (setVec s t x).dirty = s.dirty := rfl
@[simp] theorem setVec_staged : (setVec s t x).staged = s.staged := rfl
@[simp] theorem setVec_poison : (setVec s t x).poison = s.poison := rfl
@[simp] theorem setVec_ueSectors : (setVec s t x).ueSectors = s.ueSectors := rfl
@[simp] theorem setVec_patrol : (setVec s t x).patrol = s.patrol := rfl
@[simp] theorem setVec_badSpares : (setVec s t x).badSpares = s.badSpares := rfl
@[simp] theorem setVec_ceTrack : (setVec s t x).ceTrack = s.ceTrack := rfl
@[simp] theorem setVec_retireQ : (setVec s t x).retireQ = s.retireQ := rfl
@[simp] theorem setVec_lowPolls : (setVec s t x).lowPolls = s.lowPolls := rfl
@[simp] theorem setVec_csr : (setVec s t x).csr = s.csr := rfl
@[simp] theorem setVec_disps : (setVec s t x).disps = s.disps := rfl
@[simp] theorem setVec_pans : (setVec s t x).pans = s.pans := rfl
@[simp] theorem setVec_suspended : (setVec s t x).suspended = s.suspended := rfl
@[simp] theorem setVec_ended : (setVec s t x).ended = s.ended := rfl
@[simp] theorem setVec_taskCtr : (setVec s t x).taskCtr = s.taskCtr := rfl
@[simp] theorem setVec_traceLost : (setVec s t x).traceLost = s.traceLost := rfl
@[simp] theorem setVec_semQ : (setVec s t x).semQ = s.semQ := rfl
@[simp] theorem setVec_tallyQ : (setVec s t x).tallyQ = s.tallyQ := rfl
@[simp] theorem setVec_notifyLast : (setVec s t x).notifyLast = s.notifyLast := rfl
@[simp] theorem setVec_barArr : (setVec s t x).barArr = s.barArr := rfl
@[simp] theorem setVec_barRel : (setVec s t x).barRel = s.barRel := rfl
@[simp] theorem setVec_groupWait : (setVec s t x).groupWait = s.groupWait := rfl
@[simp] theorem setVec_partials : (setVec s t x).partials = s.partials := rfl
@[simp] theorem setVec_reqs : (setVec s t x).reqs = s.reqs := rfl
@[simp] theorem setVec_nextTag : (setVec s t x).nextTag = s.nextTag := rfl
@[simp] theorem setVec_owed : (setVec s t x).owed = s.owed := rfl
@[simp] theorem setVec_links : (setVec s t x).links = s.links := rfl
@[simp] theorem setVec_shape : (setVec s t x).shape = s.shape := rfl
@[simp] theorem setVec_fabArr : (setVec s t x).fabArr = s.fabArr := rfl
@[simp] theorem setVec_colls : (setVec s t x).colls = s.colls := rfl
@[simp] theorem setVec_collHeld : (setVec s t x).collHeld = s.collHeld := rfl
@[simp] theorem setVec_probes : (setVec s t x).probes = s.probes := rfl
@[simp] theorem setVec_slowAt : (setVec s t x).slowAt = s.slowAt := rfl
@[simp] theorem setVec_servedBy : (setVec s t x).servedBy = s.servedBy := rfl
@[simp] theorem setVec_mgmtIn : (setVec s t x).mgmtIn = s.mgmtIn := rfl
@[simp] theorem setVec_twin : (setVec s t x).twin = s.twin := rfl
@[simp] theorem setVec_ledger : (setVec s t x).ledger = s.ledger := rfl
@[simp] theorem setVec_plans : (setVec s t x).plans = s.plans := rfl
@[simp] theorem setVec_runCtr : (setVec s t x).runCtr = s.runCtr := rfl
@[simp] theorem setVec_verInfo : (setVec s t x).verInfo = s.verInfo := rfl
@[simp] theorem setVec_redirect : (setVec s t x).redirect = s.redirect := rfl
@[simp] theorem setVec_moveFrom : (setVec s t x).moveFrom = s.moveFrom := rfl
@[simp] theorem setVec_grants : (setVec s t x).grants = s.grants := rfl
@[simp] theorem setVec_rdrStale : (setVec s t x).rdrStale = s.rdrStale := rfl
@[simp] theorem setVec_freed : (setVec s t x).freed = s.freed := rfl
@[simp] theorem setVec_copies : (setVec s t x).copies = s.copies := rfl
@[simp] theorem setVec_policy : (setVec s t x).policy = s.policy := rfl
@[simp] theorem setVec_policyNext : (setVec s t x).policyNext = s.policyNext := rfl
@[simp] theorem setVec_freeze : (setVec s t x).freeze = s.freeze := rfl
@[simp] theorem setVec_freezeNext : (setVec s t x).freezeNext = s.freezeNext := rfl
@[simp] theorem setVec_idleSince : (setVec s t x).idleSince = s.idleSince := rfl
@[simp] theorem setVec_cmd : (setVec s t x).cmd = s.cmd := rfl
@[simp] theorem setVec_oobCmd : (setVec s t x).oobCmd = s.oobCmd := rfl
@[simp] theorem setVec_mbxPay : (setVec s t x).mbxPay = s.mbxPay := rfl
@[simp] theorem setVec_mbxGen : (setVec s t x).mbxGen = s.mbxGen := rfl
@[simp] theorem setVec_load : (setVec s t x).load = s.load := rfl
@[simp] theorem setVec_evqOldest : (setVec s t x).evqOldest = s.evqOldest := rfl
@[simp] theorem setVec_evqRaised : (setVec s t x).evqRaised = s.evqRaised := rfl
@[simp] theorem setVec_dbHeld : (setVec s t x).dbHeld = s.dbHeld := rfl
@[simp] theorem setVec_aborting : (setVec s t x).aborting = s.aborting := rfl
@[simp] theorem setVec_dstate : (setVec s t x).dstate = s.dstate := rfl
@[simp] theorem setVec_boot : (setVec s t x).boot = s.boot := rfl
@[simp] theorem setVec_resetting : (setVec s t x).resetting = s.resetting := rfl
@[simp] theorem setVec_rest : (setVec s t x).rest = s.rest := rfl
@[simp] theorem setVec_woken : (setVec s t x).woken = s.woken := rfl
@[simp] theorem setVec_gov : (setVec s t x).gov = s.gov := rfl
@[simp] theorem setVec_mgmt : (setVec s t x).mgmt = s.mgmt := rfl
@[simp] theorem setVec_pins : (setVec s t x).pins = s.pins := rfl
@[simp] theorem setVec_pcie : (setVec s t x).pcie = s.pcie := rfl
end

section
variable (s : State) (t : Nat) (x : Prt)
@[simp] theorem setPrt_pending : (setPrt s t x).pending = s.pending := rfl
@[simp] theorem setPrt_now : (setPrt s t x).now = s.now := rfl
@[simp] theorem setPrt_freeCtr : (setPrt s t x).freeCtr = s.freeCtr := rfl
@[simp] theorem setPrt_outbox : (setPrt s t x).outbox = s.outbox := rfl
@[simp] theorem setPrt_mem : (setPrt s t x).mem = s.mem := rfl
@[simp] theorem setPrt_undef : (setPrt s t x).undef = s.undef := rfl
@[simp] theorem setPrt_dirty : (setPrt s t x).dirty = s.dirty := rfl
@[simp] theorem setPrt_staged : (setPrt s t x).staged = s.staged := rfl
@[simp] theorem setPrt_poison : (setPrt s t x).poison = s.poison := rfl
@[simp] theorem setPrt_ueSectors : (setPrt s t x).ueSectors = s.ueSectors := rfl
@[simp] theorem setPrt_patrol : (setPrt s t x).patrol = s.patrol := rfl
@[simp] theorem setPrt_badSpares : (setPrt s t x).badSpares = s.badSpares := rfl
@[simp] theorem setPrt_ceTrack : (setPrt s t x).ceTrack = s.ceTrack := rfl
@[simp] theorem setPrt_retireQ : (setPrt s t x).retireQ = s.retireQ := rfl
@[simp] theorem setPrt_lowPolls : (setPrt s t x).lowPolls = s.lowPolls := rfl
@[simp] theorem setPrt_csr : (setPrt s t x).csr = s.csr := rfl
@[simp] theorem setPrt_disps : (setPrt s t x).disps = s.disps := rfl
@[simp] theorem setPrt_pans : (setPrt s t x).pans = s.pans := rfl
@[simp] theorem setPrt_suspended : (setPrt s t x).suspended = s.suspended := rfl
@[simp] theorem setPrt_ended : (setPrt s t x).ended = s.ended := rfl
@[simp] theorem setPrt_taskCtr : (setPrt s t x).taskCtr = s.taskCtr := rfl
@[simp] theorem setPrt_traceLost : (setPrt s t x).traceLost = s.traceLost := rfl
@[simp] theorem setPrt_semQ : (setPrt s t x).semQ = s.semQ := rfl
@[simp] theorem setPrt_tallyQ : (setPrt s t x).tallyQ = s.tallyQ := rfl
@[simp] theorem setPrt_notifyLast : (setPrt s t x).notifyLast = s.notifyLast := rfl
@[simp] theorem setPrt_barArr : (setPrt s t x).barArr = s.barArr := rfl
@[simp] theorem setPrt_barRel : (setPrt s t x).barRel = s.barRel := rfl
@[simp] theorem setPrt_groupWait : (setPrt s t x).groupWait = s.groupWait := rfl
@[simp] theorem setPrt_partials : (setPrt s t x).partials = s.partials := rfl
@[simp] theorem setPrt_reqs : (setPrt s t x).reqs = s.reqs := rfl
@[simp] theorem setPrt_nextTag : (setPrt s t x).nextTag = s.nextTag := rfl
@[simp] theorem setPrt_owed : (setPrt s t x).owed = s.owed := rfl
@[simp] theorem setPrt_links : (setPrt s t x).links = s.links := rfl
@[simp] theorem setPrt_shape : (setPrt s t x).shape = s.shape := rfl
@[simp] theorem setPrt_fabArr : (setPrt s t x).fabArr = s.fabArr := rfl
@[simp] theorem setPrt_colls : (setPrt s t x).colls = s.colls := rfl
@[simp] theorem setPrt_collHeld : (setPrt s t x).collHeld = s.collHeld := rfl
@[simp] theorem setPrt_probes : (setPrt s t x).probes = s.probes := rfl
@[simp] theorem setPrt_slowAt : (setPrt s t x).slowAt = s.slowAt := rfl
@[simp] theorem setPrt_servedBy : (setPrt s t x).servedBy = s.servedBy := rfl
@[simp] theorem setPrt_mgmtIn : (setPrt s t x).mgmtIn = s.mgmtIn := rfl
@[simp] theorem setPrt_twin : (setPrt s t x).twin = s.twin := rfl
@[simp] theorem setPrt_ledger : (setPrt s t x).ledger = s.ledger := rfl
@[simp] theorem setPrt_plans : (setPrt s t x).plans = s.plans := rfl
@[simp] theorem setPrt_runCtr : (setPrt s t x).runCtr = s.runCtr := rfl
@[simp] theorem setPrt_verInfo : (setPrt s t x).verInfo = s.verInfo := rfl
@[simp] theorem setPrt_redirect : (setPrt s t x).redirect = s.redirect := rfl
@[simp] theorem setPrt_moveFrom : (setPrt s t x).moveFrom = s.moveFrom := rfl
@[simp] theorem setPrt_grants : (setPrt s t x).grants = s.grants := rfl
@[simp] theorem setPrt_rdrStale : (setPrt s t x).rdrStale = s.rdrStale := rfl
@[simp] theorem setPrt_freed : (setPrt s t x).freed = s.freed := rfl
@[simp] theorem setPrt_copies : (setPrt s t x).copies = s.copies := rfl
@[simp] theorem setPrt_policy : (setPrt s t x).policy = s.policy := rfl
@[simp] theorem setPrt_policyNext : (setPrt s t x).policyNext = s.policyNext := rfl
@[simp] theorem setPrt_freeze : (setPrt s t x).freeze = s.freeze := rfl
@[simp] theorem setPrt_freezeNext : (setPrt s t x).freezeNext = s.freezeNext := rfl
@[simp] theorem setPrt_idleSince : (setPrt s t x).idleSince = s.idleSince := rfl
@[simp] theorem setPrt_cmd : (setPrt s t x).cmd = s.cmd := rfl
@[simp] theorem setPrt_oobCmd : (setPrt s t x).oobCmd = s.oobCmd := rfl
@[simp] theorem setPrt_mbxPay : (setPrt s t x).mbxPay = s.mbxPay := rfl
@[simp] theorem setPrt_mbxGen : (setPrt s t x).mbxGen = s.mbxGen := rfl
@[simp] theorem setPrt_load : (setPrt s t x).load = s.load := rfl
@[simp] theorem setPrt_evqOldest : (setPrt s t x).evqOldest = s.evqOldest := rfl
@[simp] theorem setPrt_evqRaised : (setPrt s t x).evqRaised = s.evqRaised := rfl
@[simp] theorem setPrt_dbHeld : (setPrt s t x).dbHeld = s.dbHeld := rfl
@[simp] theorem setPrt_aborting : (setPrt s t x).aborting = s.aborting := rfl
@[simp] theorem setPrt_dstate : (setPrt s t x).dstate = s.dstate := rfl
@[simp] theorem setPrt_boot : (setPrt s t x).boot = s.boot := rfl
@[simp] theorem setPrt_resetting : (setPrt s t x).resetting = s.resetting := rfl
@[simp] theorem setPrt_rest : (setPrt s t x).rest = s.rest := rfl
@[simp] theorem setPrt_woken : (setPrt s t x).woken = s.woken := rfl
@[simp] theorem setPrt_gov : (setPrt s t x).gov = s.gov := rfl
@[simp] theorem setPrt_mgmt : (setPrt s t x).mgmt = s.mgmt := rfl
@[simp] theorem setPrt_pins : (setPrt s t x).pins = s.pins := rfl
@[simp] theorem setPrt_pcie : (setPrt s t x).pcie = s.pcie := rfl
end

section
variable (s : State) (t c : Nat) (x : Option Stream)
@[simp] theorem setCtx_pending : (setCtx s t c x).pending = s.pending := rfl
@[simp] theorem setCtx_now : (setCtx s t c x).now = s.now := rfl
@[simp] theorem setCtx_freeCtr : (setCtx s t c x).freeCtr = s.freeCtr := rfl
@[simp] theorem setCtx_outbox : (setCtx s t c x).outbox = s.outbox := rfl
@[simp] theorem setCtx_mem : (setCtx s t c x).mem = s.mem := rfl
@[simp] theorem setCtx_undef : (setCtx s t c x).undef = s.undef := rfl
@[simp] theorem setCtx_dirty : (setCtx s t c x).dirty = s.dirty := rfl
@[simp] theorem setCtx_staged : (setCtx s t c x).staged = s.staged := rfl
@[simp] theorem setCtx_poison : (setCtx s t c x).poison = s.poison := rfl
@[simp] theorem setCtx_ueSectors : (setCtx s t c x).ueSectors = s.ueSectors := rfl
@[simp] theorem setCtx_patrol : (setCtx s t c x).patrol = s.patrol := rfl
@[simp] theorem setCtx_badSpares : (setCtx s t c x).badSpares = s.badSpares := rfl
@[simp] theorem setCtx_ceTrack : (setCtx s t c x).ceTrack = s.ceTrack := rfl
@[simp] theorem setCtx_retireQ : (setCtx s t c x).retireQ = s.retireQ := rfl
@[simp] theorem setCtx_lowPolls : (setCtx s t c x).lowPolls = s.lowPolls := rfl
@[simp] theorem setCtx_csr : (setCtx s t c x).csr = s.csr := rfl
@[simp] theorem setCtx_disps : (setCtx s t c x).disps = s.disps := rfl
@[simp] theorem setCtx_pans : (setCtx s t c x).pans = s.pans := rfl
@[simp] theorem setCtx_suspended : (setCtx s t c x).suspended = s.suspended := rfl
@[simp] theorem setCtx_ended : (setCtx s t c x).ended = s.ended := rfl
@[simp] theorem setCtx_taskCtr : (setCtx s t c x).taskCtr = s.taskCtr := rfl
@[simp] theorem setCtx_traceLost : (setCtx s t c x).traceLost = s.traceLost := rfl
@[simp] theorem setCtx_semQ : (setCtx s t c x).semQ = s.semQ := rfl
@[simp] theorem setCtx_tallyQ : (setCtx s t c x).tallyQ = s.tallyQ := rfl
@[simp] theorem setCtx_notifyLast : (setCtx s t c x).notifyLast = s.notifyLast := rfl
@[simp] theorem setCtx_barArr : (setCtx s t c x).barArr = s.barArr := rfl
@[simp] theorem setCtx_barRel : (setCtx s t c x).barRel = s.barRel := rfl
@[simp] theorem setCtx_groupWait : (setCtx s t c x).groupWait = s.groupWait := rfl
@[simp] theorem setCtx_partials : (setCtx s t c x).partials = s.partials := rfl
@[simp] theorem setCtx_reqs : (setCtx s t c x).reqs = s.reqs := rfl
@[simp] theorem setCtx_nextTag : (setCtx s t c x).nextTag = s.nextTag := rfl
@[simp] theorem setCtx_owed : (setCtx s t c x).owed = s.owed := rfl
@[simp] theorem setCtx_links : (setCtx s t c x).links = s.links := rfl
@[simp] theorem setCtx_shape : (setCtx s t c x).shape = s.shape := rfl
@[simp] theorem setCtx_fabArr : (setCtx s t c x).fabArr = s.fabArr := rfl
@[simp] theorem setCtx_colls : (setCtx s t c x).colls = s.colls := rfl
@[simp] theorem setCtx_collHeld : (setCtx s t c x).collHeld = s.collHeld := rfl
@[simp] theorem setCtx_probes : (setCtx s t c x).probes = s.probes := rfl
@[simp] theorem setCtx_slowAt : (setCtx s t c x).slowAt = s.slowAt := rfl
@[simp] theorem setCtx_servedBy : (setCtx s t c x).servedBy = s.servedBy := rfl
@[simp] theorem setCtx_mgmtIn : (setCtx s t c x).mgmtIn = s.mgmtIn := rfl
@[simp] theorem setCtx_twin : (setCtx s t c x).twin = s.twin := rfl
@[simp] theorem setCtx_ledger : (setCtx s t c x).ledger = s.ledger := rfl
@[simp] theorem setCtx_plans : (setCtx s t c x).plans = s.plans := rfl
@[simp] theorem setCtx_runCtr : (setCtx s t c x).runCtr = s.runCtr := rfl
@[simp] theorem setCtx_verInfo : (setCtx s t c x).verInfo = s.verInfo := rfl
@[simp] theorem setCtx_redirect : (setCtx s t c x).redirect = s.redirect := rfl
@[simp] theorem setCtx_moveFrom : (setCtx s t c x).moveFrom = s.moveFrom := rfl
@[simp] theorem setCtx_grants : (setCtx s t c x).grants = s.grants := rfl
@[simp] theorem setCtx_rdrStale : (setCtx s t c x).rdrStale = s.rdrStale := rfl
@[simp] theorem setCtx_freed : (setCtx s t c x).freed = s.freed := rfl
@[simp] theorem setCtx_copies : (setCtx s t c x).copies = s.copies := rfl
@[simp] theorem setCtx_policy : (setCtx s t c x).policy = s.policy := rfl
@[simp] theorem setCtx_policyNext : (setCtx s t c x).policyNext = s.policyNext := rfl
@[simp] theorem setCtx_freeze : (setCtx s t c x).freeze = s.freeze := rfl
@[simp] theorem setCtx_freezeNext : (setCtx s t c x).freezeNext = s.freezeNext := rfl
@[simp] theorem setCtx_idleSince : (setCtx s t c x).idleSince = s.idleSince := rfl
@[simp] theorem setCtx_cmd : (setCtx s t c x).cmd = s.cmd := rfl
@[simp] theorem setCtx_oobCmd : (setCtx s t c x).oobCmd = s.oobCmd := rfl
@[simp] theorem setCtx_mbxPay : (setCtx s t c x).mbxPay = s.mbxPay := rfl
@[simp] theorem setCtx_mbxGen : (setCtx s t c x).mbxGen = s.mbxGen := rfl
@[simp] theorem setCtx_load : (setCtx s t c x).load = s.load := rfl
@[simp] theorem setCtx_evqOldest : (setCtx s t c x).evqOldest = s.evqOldest := rfl
@[simp] theorem setCtx_evqRaised : (setCtx s t c x).evqRaised = s.evqRaised := rfl
@[simp] theorem setCtx_dbHeld : (setCtx s t c x).dbHeld = s.dbHeld := rfl
@[simp] theorem setCtx_aborting : (setCtx s t c x).aborting = s.aborting := rfl
@[simp] theorem setCtx_dstate : (setCtx s t c x).dstate = s.dstate := rfl
@[simp] theorem setCtx_boot : (setCtx s t c x).boot = s.boot := rfl
@[simp] theorem setCtx_resetting : (setCtx s t c x).resetting = s.resetting := rfl
@[simp] theorem setCtx_rest : (setCtx s t c x).rest = s.rest := rfl
@[simp] theorem setCtx_woken : (setCtx s t c x).woken = s.woken := rfl
@[simp] theorem setCtx_gov : (setCtx s t c x).gov = s.gov := rfl
@[simp] theorem setCtx_mgmt : (setCtx s t c x).mgmt = s.mgmt := rfl
@[simp] theorem setCtx_pins : (setCtx s t c x).pins = s.pins := rfl
@[simp] theorem setCtx_pcie : (setCtx s t c x).pcie = s.pcie := rfl
end

section
variable (s : State) (c : Nat) (x : Disp)
@[simp] theorem setDisp_pending : (setDisp s c x).pending = s.pending := rfl
@[simp] theorem setDisp_now : (setDisp s c x).now = s.now := rfl
@[simp] theorem setDisp_freeCtr : (setDisp s c x).freeCtr = s.freeCtr := rfl
@[simp] theorem setDisp_outbox : (setDisp s c x).outbox = s.outbox := rfl
@[simp] theorem setDisp_mem : (setDisp s c x).mem = s.mem := rfl
@[simp] theorem setDisp_undef : (setDisp s c x).undef = s.undef := rfl
@[simp] theorem setDisp_dirty : (setDisp s c x).dirty = s.dirty := rfl
@[simp] theorem setDisp_staged : (setDisp s c x).staged = s.staged := rfl
@[simp] theorem setDisp_poison : (setDisp s c x).poison = s.poison := rfl
@[simp] theorem setDisp_ueSectors : (setDisp s c x).ueSectors = s.ueSectors := rfl
@[simp] theorem setDisp_patrol : (setDisp s c x).patrol = s.patrol := rfl
@[simp] theorem setDisp_badSpares : (setDisp s c x).badSpares = s.badSpares := rfl
@[simp] theorem setDisp_ceTrack : (setDisp s c x).ceTrack = s.ceTrack := rfl
@[simp] theorem setDisp_retireQ : (setDisp s c x).retireQ = s.retireQ := rfl
@[simp] theorem setDisp_lowPolls : (setDisp s c x).lowPolls = s.lowPolls := rfl
@[simp] theorem setDisp_csr : (setDisp s c x).csr = s.csr := rfl
@[simp] theorem setDisp_tiles : (setDisp s c x).tiles = s.tiles := rfl
@[simp] theorem setDisp_pans : (setDisp s c x).pans = s.pans := rfl
@[simp] theorem setDisp_suspended : (setDisp s c x).suspended = s.suspended := rfl
@[simp] theorem setDisp_ended : (setDisp s c x).ended = s.ended := rfl
@[simp] theorem setDisp_taskCtr : (setDisp s c x).taskCtr = s.taskCtr := rfl
@[simp] theorem setDisp_traceLost : (setDisp s c x).traceLost = s.traceLost := rfl
@[simp] theorem setDisp_semQ : (setDisp s c x).semQ = s.semQ := rfl
@[simp] theorem setDisp_tallyQ : (setDisp s c x).tallyQ = s.tallyQ := rfl
@[simp] theorem setDisp_notifyLast : (setDisp s c x).notifyLast = s.notifyLast := rfl
@[simp] theorem setDisp_barArr : (setDisp s c x).barArr = s.barArr := rfl
@[simp] theorem setDisp_barRel : (setDisp s c x).barRel = s.barRel := rfl
@[simp] theorem setDisp_groupWait : (setDisp s c x).groupWait = s.groupWait := rfl
@[simp] theorem setDisp_partials : (setDisp s c x).partials = s.partials := rfl
@[simp] theorem setDisp_reqs : (setDisp s c x).reqs = s.reqs := rfl
@[simp] theorem setDisp_nextTag : (setDisp s c x).nextTag = s.nextTag := rfl
@[simp] theorem setDisp_owed : (setDisp s c x).owed = s.owed := rfl
@[simp] theorem setDisp_links : (setDisp s c x).links = s.links := rfl
@[simp] theorem setDisp_shape : (setDisp s c x).shape = s.shape := rfl
@[simp] theorem setDisp_fabArr : (setDisp s c x).fabArr = s.fabArr := rfl
@[simp] theorem setDisp_colls : (setDisp s c x).colls = s.colls := rfl
@[simp] theorem setDisp_collHeld : (setDisp s c x).collHeld = s.collHeld := rfl
@[simp] theorem setDisp_probes : (setDisp s c x).probes = s.probes := rfl
@[simp] theorem setDisp_slowAt : (setDisp s c x).slowAt = s.slowAt := rfl
@[simp] theorem setDisp_servedBy : (setDisp s c x).servedBy = s.servedBy := rfl
@[simp] theorem setDisp_mgmtIn : (setDisp s c x).mgmtIn = s.mgmtIn := rfl
@[simp] theorem setDisp_twin : (setDisp s c x).twin = s.twin := rfl
@[simp] theorem setDisp_ledger : (setDisp s c x).ledger = s.ledger := rfl
@[simp] theorem setDisp_plans : (setDisp s c x).plans = s.plans := rfl
@[simp] theorem setDisp_runCtr : (setDisp s c x).runCtr = s.runCtr := rfl
@[simp] theorem setDisp_verInfo : (setDisp s c x).verInfo = s.verInfo := rfl
@[simp] theorem setDisp_redirect : (setDisp s c x).redirect = s.redirect := rfl
@[simp] theorem setDisp_moveFrom : (setDisp s c x).moveFrom = s.moveFrom := rfl
@[simp] theorem setDisp_grants : (setDisp s c x).grants = s.grants := rfl
@[simp] theorem setDisp_rdrStale : (setDisp s c x).rdrStale = s.rdrStale := rfl
@[simp] theorem setDisp_freed : (setDisp s c x).freed = s.freed := rfl
@[simp] theorem setDisp_copies : (setDisp s c x).copies = s.copies := rfl
@[simp] theorem setDisp_policy : (setDisp s c x).policy = s.policy := rfl
@[simp] theorem setDisp_policyNext : (setDisp s c x).policyNext = s.policyNext := rfl
@[simp] theorem setDisp_freeze : (setDisp s c x).freeze = s.freeze := rfl
@[simp] theorem setDisp_freezeNext : (setDisp s c x).freezeNext = s.freezeNext := rfl
@[simp] theorem setDisp_idleSince : (setDisp s c x).idleSince = s.idleSince := rfl
@[simp] theorem setDisp_cmd : (setDisp s c x).cmd = s.cmd := rfl
@[simp] theorem setDisp_oobCmd : (setDisp s c x).oobCmd = s.oobCmd := rfl
@[simp] theorem setDisp_mbxPay : (setDisp s c x).mbxPay = s.mbxPay := rfl
@[simp] theorem setDisp_mbxGen : (setDisp s c x).mbxGen = s.mbxGen := rfl
@[simp] theorem setDisp_load : (setDisp s c x).load = s.load := rfl
@[simp] theorem setDisp_evqOldest : (setDisp s c x).evqOldest = s.evqOldest := rfl
@[simp] theorem setDisp_evqRaised : (setDisp s c x).evqRaised = s.evqRaised := rfl
@[simp] theorem setDisp_dbHeld : (setDisp s c x).dbHeld = s.dbHeld := rfl
@[simp] theorem setDisp_aborting : (setDisp s c x).aborting = s.aborting := rfl
@[simp] theorem setDisp_dstate : (setDisp s c x).dstate = s.dstate := rfl
@[simp] theorem setDisp_boot : (setDisp s c x).boot = s.boot := rfl
@[simp] theorem setDisp_resetting : (setDisp s c x).resetting = s.resetting := rfl
@[simp] theorem setDisp_rest : (setDisp s c x).rest = s.rest := rfl
@[simp] theorem setDisp_woken : (setDisp s c x).woken = s.woken := rfl
@[simp] theorem setDisp_gov : (setDisp s c x).gov = s.gov := rfl
@[simp] theorem setDisp_mgmt : (setDisp s c x).mgmt = s.mgmt := rfl
@[simp] theorem setDisp_pins : (setDisp s c x).pins = s.pins := rfl
@[simp] theorem setDisp_pcie : (setDisp s c x).pcie = s.pcie := rfl
end

section
variable (s : State) (c : Nat) (x : Pantry)
@[simp] theorem setPan_pending : (setPan s c x).pending = s.pending := rfl
@[simp] theorem setPan_now : (setPan s c x).now = s.now := rfl
@[simp] theorem setPan_freeCtr : (setPan s c x).freeCtr = s.freeCtr := rfl
@[simp] theorem setPan_outbox : (setPan s c x).outbox = s.outbox := rfl
@[simp] theorem setPan_mem : (setPan s c x).mem = s.mem := rfl
@[simp] theorem setPan_undef : (setPan s c x).undef = s.undef := rfl
@[simp] theorem setPan_dirty : (setPan s c x).dirty = s.dirty := rfl
@[simp] theorem setPan_staged : (setPan s c x).staged = s.staged := rfl
@[simp] theorem setPan_poison : (setPan s c x).poison = s.poison := rfl
@[simp] theorem setPan_ueSectors : (setPan s c x).ueSectors = s.ueSectors := rfl
@[simp] theorem setPan_patrol : (setPan s c x).patrol = s.patrol := rfl
@[simp] theorem setPan_badSpares : (setPan s c x).badSpares = s.badSpares := rfl
@[simp] theorem setPan_ceTrack : (setPan s c x).ceTrack = s.ceTrack := rfl
@[simp] theorem setPan_retireQ : (setPan s c x).retireQ = s.retireQ := rfl
@[simp] theorem setPan_lowPolls : (setPan s c x).lowPolls = s.lowPolls := rfl
@[simp] theorem setPan_csr : (setPan s c x).csr = s.csr := rfl
@[simp] theorem setPan_tiles : (setPan s c x).tiles = s.tiles := rfl
@[simp] theorem setPan_disps : (setPan s c x).disps = s.disps := rfl
@[simp] theorem setPan_suspended : (setPan s c x).suspended = s.suspended := rfl
@[simp] theorem setPan_ended : (setPan s c x).ended = s.ended := rfl
@[simp] theorem setPan_taskCtr : (setPan s c x).taskCtr = s.taskCtr := rfl
@[simp] theorem setPan_traceLost : (setPan s c x).traceLost = s.traceLost := rfl
@[simp] theorem setPan_semQ : (setPan s c x).semQ = s.semQ := rfl
@[simp] theorem setPan_tallyQ : (setPan s c x).tallyQ = s.tallyQ := rfl
@[simp] theorem setPan_notifyLast : (setPan s c x).notifyLast = s.notifyLast := rfl
@[simp] theorem setPan_barArr : (setPan s c x).barArr = s.barArr := rfl
@[simp] theorem setPan_barRel : (setPan s c x).barRel = s.barRel := rfl
@[simp] theorem setPan_groupWait : (setPan s c x).groupWait = s.groupWait := rfl
@[simp] theorem setPan_partials : (setPan s c x).partials = s.partials := rfl
@[simp] theorem setPan_reqs : (setPan s c x).reqs = s.reqs := rfl
@[simp] theorem setPan_nextTag : (setPan s c x).nextTag = s.nextTag := rfl
@[simp] theorem setPan_owed : (setPan s c x).owed = s.owed := rfl
@[simp] theorem setPan_links : (setPan s c x).links = s.links := rfl
@[simp] theorem setPan_shape : (setPan s c x).shape = s.shape := rfl
@[simp] theorem setPan_fabArr : (setPan s c x).fabArr = s.fabArr := rfl
@[simp] theorem setPan_colls : (setPan s c x).colls = s.colls := rfl
@[simp] theorem setPan_collHeld : (setPan s c x).collHeld = s.collHeld := rfl
@[simp] theorem setPan_probes : (setPan s c x).probes = s.probes := rfl
@[simp] theorem setPan_slowAt : (setPan s c x).slowAt = s.slowAt := rfl
@[simp] theorem setPan_servedBy : (setPan s c x).servedBy = s.servedBy := rfl
@[simp] theorem setPan_mgmtIn : (setPan s c x).mgmtIn = s.mgmtIn := rfl
@[simp] theorem setPan_twin : (setPan s c x).twin = s.twin := rfl
@[simp] theorem setPan_ledger : (setPan s c x).ledger = s.ledger := rfl
@[simp] theorem setPan_plans : (setPan s c x).plans = s.plans := rfl
@[simp] theorem setPan_runCtr : (setPan s c x).runCtr = s.runCtr := rfl
@[simp] theorem setPan_verInfo : (setPan s c x).verInfo = s.verInfo := rfl
@[simp] theorem setPan_redirect : (setPan s c x).redirect = s.redirect := rfl
@[simp] theorem setPan_moveFrom : (setPan s c x).moveFrom = s.moveFrom := rfl
@[simp] theorem setPan_grants : (setPan s c x).grants = s.grants := rfl
@[simp] theorem setPan_rdrStale : (setPan s c x).rdrStale = s.rdrStale := rfl
@[simp] theorem setPan_freed : (setPan s c x).freed = s.freed := rfl
@[simp] theorem setPan_copies : (setPan s c x).copies = s.copies := rfl
@[simp] theorem setPan_policy : (setPan s c x).policy = s.policy := rfl
@[simp] theorem setPan_policyNext : (setPan s c x).policyNext = s.policyNext := rfl
@[simp] theorem setPan_freeze : (setPan s c x).freeze = s.freeze := rfl
@[simp] theorem setPan_freezeNext : (setPan s c x).freezeNext = s.freezeNext := rfl
@[simp] theorem setPan_idleSince : (setPan s c x).idleSince = s.idleSince := rfl
@[simp] theorem setPan_cmd : (setPan s c x).cmd = s.cmd := rfl
@[simp] theorem setPan_oobCmd : (setPan s c x).oobCmd = s.oobCmd := rfl
@[simp] theorem setPan_mbxPay : (setPan s c x).mbxPay = s.mbxPay := rfl
@[simp] theorem setPan_mbxGen : (setPan s c x).mbxGen = s.mbxGen := rfl
@[simp] theorem setPan_load : (setPan s c x).load = s.load := rfl
@[simp] theorem setPan_evqOldest : (setPan s c x).evqOldest = s.evqOldest := rfl
@[simp] theorem setPan_evqRaised : (setPan s c x).evqRaised = s.evqRaised := rfl
@[simp] theorem setPan_dbHeld : (setPan s c x).dbHeld = s.dbHeld := rfl
@[simp] theorem setPan_aborting : (setPan s c x).aborting = s.aborting := rfl
@[simp] theorem setPan_dstate : (setPan s c x).dstate = s.dstate := rfl
@[simp] theorem setPan_boot : (setPan s c x).boot = s.boot := rfl
@[simp] theorem setPan_resetting : (setPan s c x).resetting = s.resetting := rfl
@[simp] theorem setPan_rest : (setPan s c x).rest = s.rest := rfl
@[simp] theorem setPan_woken : (setPan s c x).woken = s.woken := rfl
@[simp] theorem setPan_gov : (setPan s c x).gov = s.gov := rfl
@[simp] theorem setPan_mgmt : (setPan s c x).mgmt = s.mgmt := rfl
@[simp] theorem setPan_pins : (setPan s c x).pins = s.pins := rfl
@[simp] theorem setPan_pcie : (setPan s c x).pcie = s.pcie := rfl
end

section
variable (s : State) (p : Nat) (x : Link)
@[simp] theorem setLink_pending : (setLink s p x).pending = s.pending := rfl
@[simp] theorem setLink_now : (setLink s p x).now = s.now := rfl
@[simp] theorem setLink_freeCtr : (setLink s p x).freeCtr = s.freeCtr := rfl
@[simp] theorem setLink_outbox : (setLink s p x).outbox = s.outbox := rfl
@[simp] theorem setLink_mem : (setLink s p x).mem = s.mem := rfl
@[simp] theorem setLink_undef : (setLink s p x).undef = s.undef := rfl
@[simp] theorem setLink_dirty : (setLink s p x).dirty = s.dirty := rfl
@[simp] theorem setLink_staged : (setLink s p x).staged = s.staged := rfl
@[simp] theorem setLink_poison : (setLink s p x).poison = s.poison := rfl
@[simp] theorem setLink_ueSectors : (setLink s p x).ueSectors = s.ueSectors := rfl
@[simp] theorem setLink_patrol : (setLink s p x).patrol = s.patrol := rfl
@[simp] theorem setLink_badSpares : (setLink s p x).badSpares = s.badSpares := rfl
@[simp] theorem setLink_ceTrack : (setLink s p x).ceTrack = s.ceTrack := rfl
@[simp] theorem setLink_retireQ : (setLink s p x).retireQ = s.retireQ := rfl
@[simp] theorem setLink_lowPolls : (setLink s p x).lowPolls = s.lowPolls := rfl
@[simp] theorem setLink_csr : (setLink s p x).csr = s.csr := rfl
@[simp] theorem setLink_tiles : (setLink s p x).tiles = s.tiles := rfl
@[simp] theorem setLink_disps : (setLink s p x).disps = s.disps := rfl
@[simp] theorem setLink_pans : (setLink s p x).pans = s.pans := rfl
@[simp] theorem setLink_suspended : (setLink s p x).suspended = s.suspended := rfl
@[simp] theorem setLink_ended : (setLink s p x).ended = s.ended := rfl
@[simp] theorem setLink_taskCtr : (setLink s p x).taskCtr = s.taskCtr := rfl
@[simp] theorem setLink_traceLost : (setLink s p x).traceLost = s.traceLost := rfl
@[simp] theorem setLink_semQ : (setLink s p x).semQ = s.semQ := rfl
@[simp] theorem setLink_tallyQ : (setLink s p x).tallyQ = s.tallyQ := rfl
@[simp] theorem setLink_notifyLast : (setLink s p x).notifyLast = s.notifyLast := rfl
@[simp] theorem setLink_barArr : (setLink s p x).barArr = s.barArr := rfl
@[simp] theorem setLink_barRel : (setLink s p x).barRel = s.barRel := rfl
@[simp] theorem setLink_groupWait : (setLink s p x).groupWait = s.groupWait := rfl
@[simp] theorem setLink_partials : (setLink s p x).partials = s.partials := rfl
@[simp] theorem setLink_reqs : (setLink s p x).reqs = s.reqs := rfl
@[simp] theorem setLink_nextTag : (setLink s p x).nextTag = s.nextTag := rfl
@[simp] theorem setLink_owed : (setLink s p x).owed = s.owed := rfl
@[simp] theorem setLink_shape : (setLink s p x).shape = s.shape := rfl
@[simp] theorem setLink_fabArr : (setLink s p x).fabArr = s.fabArr := rfl
@[simp] theorem setLink_colls : (setLink s p x).colls = s.colls := rfl
@[simp] theorem setLink_collHeld : (setLink s p x).collHeld = s.collHeld := rfl
@[simp] theorem setLink_probes : (setLink s p x).probes = s.probes := rfl
@[simp] theorem setLink_slowAt : (setLink s p x).slowAt = s.slowAt := rfl
@[simp] theorem setLink_servedBy : (setLink s p x).servedBy = s.servedBy := rfl
@[simp] theorem setLink_mgmtIn : (setLink s p x).mgmtIn = s.mgmtIn := rfl
@[simp] theorem setLink_twin : (setLink s p x).twin = s.twin := rfl
@[simp] theorem setLink_ledger : (setLink s p x).ledger = s.ledger := rfl
@[simp] theorem setLink_plans : (setLink s p x).plans = s.plans := rfl
@[simp] theorem setLink_runCtr : (setLink s p x).runCtr = s.runCtr := rfl
@[simp] theorem setLink_verInfo : (setLink s p x).verInfo = s.verInfo := rfl
@[simp] theorem setLink_redirect : (setLink s p x).redirect = s.redirect := rfl
@[simp] theorem setLink_moveFrom : (setLink s p x).moveFrom = s.moveFrom := rfl
@[simp] theorem setLink_grants : (setLink s p x).grants = s.grants := rfl
@[simp] theorem setLink_rdrStale : (setLink s p x).rdrStale = s.rdrStale := rfl
@[simp] theorem setLink_freed : (setLink s p x).freed = s.freed := rfl
@[simp] theorem setLink_copies : (setLink s p x).copies = s.copies := rfl
@[simp] theorem setLink_policy : (setLink s p x).policy = s.policy := rfl
@[simp] theorem setLink_policyNext : (setLink s p x).policyNext = s.policyNext := rfl
@[simp] theorem setLink_freeze : (setLink s p x).freeze = s.freeze := rfl
@[simp] theorem setLink_freezeNext : (setLink s p x).freezeNext = s.freezeNext := rfl
@[simp] theorem setLink_idleSince : (setLink s p x).idleSince = s.idleSince := rfl
@[simp] theorem setLink_cmd : (setLink s p x).cmd = s.cmd := rfl
@[simp] theorem setLink_oobCmd : (setLink s p x).oobCmd = s.oobCmd := rfl
@[simp] theorem setLink_mbxPay : (setLink s p x).mbxPay = s.mbxPay := rfl
@[simp] theorem setLink_mbxGen : (setLink s p x).mbxGen = s.mbxGen := rfl
@[simp] theorem setLink_load : (setLink s p x).load = s.load := rfl
@[simp] theorem setLink_evqOldest : (setLink s p x).evqOldest = s.evqOldest := rfl
@[simp] theorem setLink_evqRaised : (setLink s p x).evqRaised = s.evqRaised := rfl
@[simp] theorem setLink_dbHeld : (setLink s p x).dbHeld = s.dbHeld := rfl
@[simp] theorem setLink_aborting : (setLink s p x).aborting = s.aborting := rfl
@[simp] theorem setLink_dstate : (setLink s p x).dstate = s.dstate := rfl
@[simp] theorem setLink_boot : (setLink s p x).boot = s.boot := rfl
@[simp] theorem setLink_resetting : (setLink s p x).resetting = s.resetting := rfl
@[simp] theorem setLink_rest : (setLink s p x).rest = s.rest := rfl
@[simp] theorem setLink_woken : (setLink s p x).woken = s.woken := rfl
@[simp] theorem setLink_gov : (setLink s p x).gov = s.gov := rfl
@[simp] theorem setLink_mgmt : (setLink s p x).mgmt = s.mgmt := rfl
@[simp] theorem setLink_pins : (setLink s p x).pins = s.pins := rfl
@[simp] theorem setLink_pcie : (setLink s p x).pcie = s.pcie := rfl
end

section
variable (s : State) (i : Nat) (x : Option Plan)
@[simp] theorem setPlan_pending : (setPlan s i x).pending = s.pending := rfl
@[simp] theorem setPlan_now : (setPlan s i x).now = s.now := rfl
@[simp] theorem setPlan_freeCtr : (setPlan s i x).freeCtr = s.freeCtr := rfl
@[simp] theorem setPlan_outbox : (setPlan s i x).outbox = s.outbox := rfl
@[simp] theorem setPlan_mem : (setPlan s i x).mem = s.mem := rfl
@[simp] theorem setPlan_undef : (setPlan s i x).undef = s.undef := rfl
@[simp] theorem setPlan_dirty : (setPlan s i x).dirty = s.dirty := rfl
@[simp] theorem setPlan_staged : (setPlan s i x).staged = s.staged := rfl
@[simp] theorem setPlan_poison : (setPlan s i x).poison = s.poison := rfl
@[simp] theorem setPlan_ueSectors : (setPlan s i x).ueSectors = s.ueSectors := rfl
@[simp] theorem setPlan_patrol : (setPlan s i x).patrol = s.patrol := rfl
@[simp] theorem setPlan_badSpares : (setPlan s i x).badSpares = s.badSpares := rfl
@[simp] theorem setPlan_ceTrack : (setPlan s i x).ceTrack = s.ceTrack := rfl
@[simp] theorem setPlan_retireQ : (setPlan s i x).retireQ = s.retireQ := rfl
@[simp] theorem setPlan_lowPolls : (setPlan s i x).lowPolls = s.lowPolls := rfl
@[simp] theorem setPlan_csr : (setPlan s i x).csr = s.csr := rfl
@[simp] theorem setPlan_tiles : (setPlan s i x).tiles = s.tiles := rfl
@[simp] theorem setPlan_disps : (setPlan s i x).disps = s.disps := rfl
@[simp] theorem setPlan_pans : (setPlan s i x).pans = s.pans := rfl
@[simp] theorem setPlan_suspended : (setPlan s i x).suspended = s.suspended := rfl
@[simp] theorem setPlan_ended : (setPlan s i x).ended = s.ended := rfl
@[simp] theorem setPlan_taskCtr : (setPlan s i x).taskCtr = s.taskCtr := rfl
@[simp] theorem setPlan_traceLost : (setPlan s i x).traceLost = s.traceLost := rfl
@[simp] theorem setPlan_semQ : (setPlan s i x).semQ = s.semQ := rfl
@[simp] theorem setPlan_tallyQ : (setPlan s i x).tallyQ = s.tallyQ := rfl
@[simp] theorem setPlan_notifyLast : (setPlan s i x).notifyLast = s.notifyLast := rfl
@[simp] theorem setPlan_barArr : (setPlan s i x).barArr = s.barArr := rfl
@[simp] theorem setPlan_barRel : (setPlan s i x).barRel = s.barRel := rfl
@[simp] theorem setPlan_groupWait : (setPlan s i x).groupWait = s.groupWait := rfl
@[simp] theorem setPlan_partials : (setPlan s i x).partials = s.partials := rfl
@[simp] theorem setPlan_reqs : (setPlan s i x).reqs = s.reqs := rfl
@[simp] theorem setPlan_nextTag : (setPlan s i x).nextTag = s.nextTag := rfl
@[simp] theorem setPlan_owed : (setPlan s i x).owed = s.owed := rfl
@[simp] theorem setPlan_links : (setPlan s i x).links = s.links := rfl
@[simp] theorem setPlan_shape : (setPlan s i x).shape = s.shape := rfl
@[simp] theorem setPlan_fabArr : (setPlan s i x).fabArr = s.fabArr := rfl
@[simp] theorem setPlan_colls : (setPlan s i x).colls = s.colls := rfl
@[simp] theorem setPlan_collHeld : (setPlan s i x).collHeld = s.collHeld := rfl
@[simp] theorem setPlan_probes : (setPlan s i x).probes = s.probes := rfl
@[simp] theorem setPlan_slowAt : (setPlan s i x).slowAt = s.slowAt := rfl
@[simp] theorem setPlan_servedBy : (setPlan s i x).servedBy = s.servedBy := rfl
@[simp] theorem setPlan_mgmtIn : (setPlan s i x).mgmtIn = s.mgmtIn := rfl
@[simp] theorem setPlan_twin : (setPlan s i x).twin = s.twin := rfl
@[simp] theorem setPlan_ledger : (setPlan s i x).ledger = s.ledger := rfl
@[simp] theorem setPlan_runCtr : (setPlan s i x).runCtr = s.runCtr := rfl
@[simp] theorem setPlan_verInfo : (setPlan s i x).verInfo = s.verInfo := rfl
@[simp] theorem setPlan_redirect : (setPlan s i x).redirect = s.redirect := rfl
@[simp] theorem setPlan_moveFrom : (setPlan s i x).moveFrom = s.moveFrom := rfl
@[simp] theorem setPlan_grants : (setPlan s i x).grants = s.grants := rfl
@[simp] theorem setPlan_rdrStale : (setPlan s i x).rdrStale = s.rdrStale := rfl
@[simp] theorem setPlan_freed : (setPlan s i x).freed = s.freed := rfl
@[simp] theorem setPlan_copies : (setPlan s i x).copies = s.copies := rfl
@[simp] theorem setPlan_policy : (setPlan s i x).policy = s.policy := rfl
@[simp] theorem setPlan_policyNext : (setPlan s i x).policyNext = s.policyNext := rfl
@[simp] theorem setPlan_freeze : (setPlan s i x).freeze = s.freeze := rfl
@[simp] theorem setPlan_freezeNext : (setPlan s i x).freezeNext = s.freezeNext := rfl
@[simp] theorem setPlan_idleSince : (setPlan s i x).idleSince = s.idleSince := rfl
@[simp] theorem setPlan_cmd : (setPlan s i x).cmd = s.cmd := rfl
@[simp] theorem setPlan_oobCmd : (setPlan s i x).oobCmd = s.oobCmd := rfl
@[simp] theorem setPlan_mbxPay : (setPlan s i x).mbxPay = s.mbxPay := rfl
@[simp] theorem setPlan_mbxGen : (setPlan s i x).mbxGen = s.mbxGen := rfl
@[simp] theorem setPlan_load : (setPlan s i x).load = s.load := rfl
@[simp] theorem setPlan_evqOldest : (setPlan s i x).evqOldest = s.evqOldest := rfl
@[simp] theorem setPlan_evqRaised : (setPlan s i x).evqRaised = s.evqRaised := rfl
@[simp] theorem setPlan_dbHeld : (setPlan s i x).dbHeld = s.dbHeld := rfl
@[simp] theorem setPlan_aborting : (setPlan s i x).aborting = s.aborting := rfl
@[simp] theorem setPlan_dstate : (setPlan s i x).dstate = s.dstate := rfl
@[simp] theorem setPlan_boot : (setPlan s i x).boot = s.boot := rfl
@[simp] theorem setPlan_resetting : (setPlan s i x).resetting = s.resetting := rfl
@[simp] theorem setPlan_rest : (setPlan s i x).rest = s.rest := rfl
@[simp] theorem setPlan_woken : (setPlan s i x).woken = s.woken := rfl
@[simp] theorem setPlan_gov : (setPlan s i x).gov = s.gov := rfl
@[simp] theorem setPlan_mgmt : (setPlan s i x).mgmt = s.mgmt := rfl
@[simp] theorem setPlan_pins : (setPlan s i x).pins = s.pins := rfl
@[simp] theorem setPlan_pcie : (setPlan s i x).pcie = s.pcie := rfl
end

section
variable (s : State) (o : Out)
@[simp] theorem emitOut_pending : (emitOut s o).pending = s.pending := rfl
@[simp] theorem emitOut_now : (emitOut s o).now = s.now := rfl
@[simp] theorem emitOut_freeCtr : (emitOut s o).freeCtr = s.freeCtr := rfl
@[simp] theorem emitOut_mem : (emitOut s o).mem = s.mem := rfl
@[simp] theorem emitOut_undef : (emitOut s o).undef = s.undef := rfl
@[simp] theorem emitOut_dirty : (emitOut s o).dirty = s.dirty := rfl
@[simp] theorem emitOut_staged : (emitOut s o).staged = s.staged := rfl
@[simp] theorem emitOut_poison : (emitOut s o).poison = s.poison := rfl
@[simp] theorem emitOut_ueSectors : (emitOut s o).ueSectors = s.ueSectors := rfl
@[simp] theorem emitOut_patrol : (emitOut s o).patrol = s.patrol := rfl
@[simp] theorem emitOut_badSpares : (emitOut s o).badSpares = s.badSpares := rfl
@[simp] theorem emitOut_ceTrack : (emitOut s o).ceTrack = s.ceTrack := rfl
@[simp] theorem emitOut_retireQ : (emitOut s o).retireQ = s.retireQ := rfl
@[simp] theorem emitOut_lowPolls : (emitOut s o).lowPolls = s.lowPolls := rfl
@[simp] theorem emitOut_csr : (emitOut s o).csr = s.csr := rfl
@[simp] theorem emitOut_tiles : (emitOut s o).tiles = s.tiles := rfl
@[simp] theorem emitOut_disps : (emitOut s o).disps = s.disps := rfl
@[simp] theorem emitOut_pans : (emitOut s o).pans = s.pans := rfl
@[simp] theorem emitOut_suspended : (emitOut s o).suspended = s.suspended := rfl
@[simp] theorem emitOut_ended : (emitOut s o).ended = s.ended := rfl
@[simp] theorem emitOut_taskCtr : (emitOut s o).taskCtr = s.taskCtr := rfl
@[simp] theorem emitOut_traceLost : (emitOut s o).traceLost = s.traceLost := rfl
@[simp] theorem emitOut_semQ : (emitOut s o).semQ = s.semQ := rfl
@[simp] theorem emitOut_tallyQ : (emitOut s o).tallyQ = s.tallyQ := rfl
@[simp] theorem emitOut_notifyLast : (emitOut s o).notifyLast = s.notifyLast := rfl
@[simp] theorem emitOut_barArr : (emitOut s o).barArr = s.barArr := rfl
@[simp] theorem emitOut_barRel : (emitOut s o).barRel = s.barRel := rfl
@[simp] theorem emitOut_groupWait : (emitOut s o).groupWait = s.groupWait := rfl
@[simp] theorem emitOut_partials : (emitOut s o).partials = s.partials := rfl
@[simp] theorem emitOut_reqs : (emitOut s o).reqs = s.reqs := rfl
@[simp] theorem emitOut_nextTag : (emitOut s o).nextTag = s.nextTag := rfl
@[simp] theorem emitOut_owed : (emitOut s o).owed = s.owed := rfl
@[simp] theorem emitOut_links : (emitOut s o).links = s.links := rfl
@[simp] theorem emitOut_shape : (emitOut s o).shape = s.shape := rfl
@[simp] theorem emitOut_fabArr : (emitOut s o).fabArr = s.fabArr := rfl
@[simp] theorem emitOut_colls : (emitOut s o).colls = s.colls := rfl
@[simp] theorem emitOut_collHeld : (emitOut s o).collHeld = s.collHeld := rfl
@[simp] theorem emitOut_probes : (emitOut s o).probes = s.probes := rfl
@[simp] theorem emitOut_slowAt : (emitOut s o).slowAt = s.slowAt := rfl
@[simp] theorem emitOut_servedBy : (emitOut s o).servedBy = s.servedBy := rfl
@[simp] theorem emitOut_mgmtIn : (emitOut s o).mgmtIn = s.mgmtIn := rfl
@[simp] theorem emitOut_twin : (emitOut s o).twin = s.twin := rfl
@[simp] theorem emitOut_ledger : (emitOut s o).ledger = s.ledger := rfl
@[simp] theorem emitOut_plans : (emitOut s o).plans = s.plans := rfl
@[simp] theorem emitOut_runCtr : (emitOut s o).runCtr = s.runCtr := rfl
@[simp] theorem emitOut_verInfo : (emitOut s o).verInfo = s.verInfo := rfl
@[simp] theorem emitOut_redirect : (emitOut s o).redirect = s.redirect := rfl
@[simp] theorem emitOut_moveFrom : (emitOut s o).moveFrom = s.moveFrom := rfl
@[simp] theorem emitOut_grants : (emitOut s o).grants = s.grants := rfl
@[simp] theorem emitOut_rdrStale : (emitOut s o).rdrStale = s.rdrStale := rfl
@[simp] theorem emitOut_freed : (emitOut s o).freed = s.freed := rfl
@[simp] theorem emitOut_copies : (emitOut s o).copies = s.copies := rfl
@[simp] theorem emitOut_policy : (emitOut s o).policy = s.policy := rfl
@[simp] theorem emitOut_policyNext : (emitOut s o).policyNext = s.policyNext := rfl
@[simp] theorem emitOut_freeze : (emitOut s o).freeze = s.freeze := rfl
@[simp] theorem emitOut_freezeNext : (emitOut s o).freezeNext = s.freezeNext := rfl
@[simp] theorem emitOut_idleSince : (emitOut s o).idleSince = s.idleSince := rfl
@[simp] theorem emitOut_cmd : (emitOut s o).cmd = s.cmd := rfl
@[simp] theorem emitOut_oobCmd : (emitOut s o).oobCmd = s.oobCmd := rfl
@[simp] theorem emitOut_mbxPay : (emitOut s o).mbxPay = s.mbxPay := rfl
@[simp] theorem emitOut_mbxGen : (emitOut s o).mbxGen = s.mbxGen := rfl
@[simp] theorem emitOut_load : (emitOut s o).load = s.load := rfl
@[simp] theorem emitOut_evqOldest : (emitOut s o).evqOldest = s.evqOldest := rfl
@[simp] theorem emitOut_evqRaised : (emitOut s o).evqRaised = s.evqRaised := rfl
@[simp] theorem emitOut_dbHeld : (emitOut s o).dbHeld = s.dbHeld := rfl
@[simp] theorem emitOut_aborting : (emitOut s o).aborting = s.aborting := rfl
@[simp] theorem emitOut_dstate : (emitOut s o).dstate = s.dstate := rfl
@[simp] theorem emitOut_boot : (emitOut s o).boot = s.boot := rfl
@[simp] theorem emitOut_resetting : (emitOut s o).resetting = s.resetting := rfl
@[simp] theorem emitOut_rest : (emitOut s o).rest = s.rest := rfl
@[simp] theorem emitOut_woken : (emitOut s o).woken = s.woken := rfl
@[simp] theorem emitOut_gov : (emitOut s o).gov = s.gov := rfl
@[simp] theorem emitOut_mgmt : (emitOut s o).mgmt = s.mgmt := rfl
@[simp] theorem emitOut_pins : (emitOut s o).pins = s.pins := rfl
@[simp] theorem emitOut_pcie : (emitOut s o).pcie = s.pcie := rfl
end

section
variable (s : State) (a : Nat) (bs : List Byte)
@[simp] theorem storeBytes_pending : (storeBytes s a bs).pending = s.pending := rfl
@[simp] theorem storeBytes_now : (storeBytes s a bs).now = s.now := rfl
@[simp] theorem storeBytes_freeCtr : (storeBytes s a bs).freeCtr = s.freeCtr := rfl
@[simp] theorem storeBytes_outbox : (storeBytes s a bs).outbox = s.outbox := rfl
@[simp] theorem storeBytes_dirty : (storeBytes s a bs).dirty = s.dirty := rfl
@[simp] theorem storeBytes_staged : (storeBytes s a bs).staged = s.staged := rfl
@[simp] theorem storeBytes_poison : (storeBytes s a bs).poison = s.poison := rfl
@[simp] theorem storeBytes_ueSectors : (storeBytes s a bs).ueSectors = s.ueSectors := rfl
@[simp] theorem storeBytes_patrol : (storeBytes s a bs).patrol = s.patrol := rfl
@[simp] theorem storeBytes_badSpares : (storeBytes s a bs).badSpares = s.badSpares := rfl
@[simp] theorem storeBytes_ceTrack : (storeBytes s a bs).ceTrack = s.ceTrack := rfl
@[simp] theorem storeBytes_retireQ : (storeBytes s a bs).retireQ = s.retireQ := rfl
@[simp] theorem storeBytes_lowPolls : (storeBytes s a bs).lowPolls = s.lowPolls := rfl
@[simp] theorem storeBytes_csr : (storeBytes s a bs).csr = s.csr := rfl
@[simp] theorem storeBytes_tiles : (storeBytes s a bs).tiles = s.tiles := rfl
@[simp] theorem storeBytes_disps : (storeBytes s a bs).disps = s.disps := rfl
@[simp] theorem storeBytes_pans : (storeBytes s a bs).pans = s.pans := rfl
@[simp] theorem storeBytes_suspended : (storeBytes s a bs).suspended = s.suspended := rfl
@[simp] theorem storeBytes_ended : (storeBytes s a bs).ended = s.ended := rfl
@[simp] theorem storeBytes_taskCtr : (storeBytes s a bs).taskCtr = s.taskCtr := rfl
@[simp] theorem storeBytes_traceLost : (storeBytes s a bs).traceLost = s.traceLost := rfl
@[simp] theorem storeBytes_semQ : (storeBytes s a bs).semQ = s.semQ := rfl
@[simp] theorem storeBytes_tallyQ : (storeBytes s a bs).tallyQ = s.tallyQ := rfl
@[simp] theorem storeBytes_notifyLast : (storeBytes s a bs).notifyLast = s.notifyLast := rfl
@[simp] theorem storeBytes_barArr : (storeBytes s a bs).barArr = s.barArr := rfl
@[simp] theorem storeBytes_barRel : (storeBytes s a bs).barRel = s.barRel := rfl
@[simp] theorem storeBytes_groupWait : (storeBytes s a bs).groupWait = s.groupWait := rfl
@[simp] theorem storeBytes_partials : (storeBytes s a bs).partials = s.partials := rfl
@[simp] theorem storeBytes_reqs : (storeBytes s a bs).reqs = s.reqs := rfl
@[simp] theorem storeBytes_nextTag : (storeBytes s a bs).nextTag = s.nextTag := rfl
@[simp] theorem storeBytes_owed : (storeBytes s a bs).owed = s.owed := rfl
@[simp] theorem storeBytes_links : (storeBytes s a bs).links = s.links := rfl
@[simp] theorem storeBytes_shape : (storeBytes s a bs).shape = s.shape := rfl
@[simp] theorem storeBytes_fabArr : (storeBytes s a bs).fabArr = s.fabArr := rfl
@[simp] theorem storeBytes_colls : (storeBytes s a bs).colls = s.colls := rfl
@[simp] theorem storeBytes_collHeld : (storeBytes s a bs).collHeld = s.collHeld := rfl
@[simp] theorem storeBytes_probes : (storeBytes s a bs).probes = s.probes := rfl
@[simp] theorem storeBytes_slowAt : (storeBytes s a bs).slowAt = s.slowAt := rfl
@[simp] theorem storeBytes_servedBy : (storeBytes s a bs).servedBy = s.servedBy := rfl
@[simp] theorem storeBytes_mgmtIn : (storeBytes s a bs).mgmtIn = s.mgmtIn := rfl
@[simp] theorem storeBytes_twin : (storeBytes s a bs).twin = s.twin := rfl
@[simp] theorem storeBytes_ledger : (storeBytes s a bs).ledger = s.ledger := rfl
@[simp] theorem storeBytes_plans : (storeBytes s a bs).plans = s.plans := rfl
@[simp] theorem storeBytes_runCtr : (storeBytes s a bs).runCtr = s.runCtr := rfl
@[simp] theorem storeBytes_verInfo : (storeBytes s a bs).verInfo = s.verInfo := rfl
@[simp] theorem storeBytes_redirect : (storeBytes s a bs).redirect = s.redirect := rfl
@[simp] theorem storeBytes_moveFrom : (storeBytes s a bs).moveFrom = s.moveFrom := rfl
@[simp] theorem storeBytes_grants : (storeBytes s a bs).grants = s.grants := rfl
@[simp] theorem storeBytes_rdrStale : (storeBytes s a bs).rdrStale = s.rdrStale := rfl
@[simp] theorem storeBytes_freed : (storeBytes s a bs).freed = s.freed := rfl
@[simp] theorem storeBytes_copies : (storeBytes s a bs).copies = s.copies := rfl
@[simp] theorem storeBytes_policy : (storeBytes s a bs).policy = s.policy := rfl
@[simp] theorem storeBytes_policyNext : (storeBytes s a bs).policyNext = s.policyNext := rfl
@[simp] theorem storeBytes_freeze : (storeBytes s a bs).freeze = s.freeze := rfl
@[simp] theorem storeBytes_freezeNext : (storeBytes s a bs).freezeNext = s.freezeNext := rfl
@[simp] theorem storeBytes_idleSince : (storeBytes s a bs).idleSince = s.idleSince := rfl
@[simp] theorem storeBytes_cmd : (storeBytes s a bs).cmd = s.cmd := rfl
@[simp] theorem storeBytes_oobCmd : (storeBytes s a bs).oobCmd = s.oobCmd := rfl
@[simp] theorem storeBytes_mbxPay : (storeBytes s a bs).mbxPay = s.mbxPay := rfl
@[simp] theorem storeBytes_mbxGen : (storeBytes s a bs).mbxGen = s.mbxGen := rfl
@[simp] theorem storeBytes_load : (storeBytes s a bs).load = s.load := rfl
@[simp] theorem storeBytes_evqOldest : (storeBytes s a bs).evqOldest = s.evqOldest := rfl
@[simp] theorem storeBytes_evqRaised : (storeBytes s a bs).evqRaised = s.evqRaised := rfl
@[simp] theorem storeBytes_dbHeld : (storeBytes s a bs).dbHeld = s.dbHeld := rfl
@[simp] theorem storeBytes_aborting : (storeBytes s a bs).aborting = s.aborting := rfl
@[simp] theorem storeBytes_dstate : (storeBytes s a bs).dstate = s.dstate := rfl
@[simp] theorem storeBytes_boot : (storeBytes s a bs).boot = s.boot := rfl
@[simp] theorem storeBytes_resetting : (storeBytes s a bs).resetting = s.resetting := rfl
@[simp] theorem storeBytes_rest : (storeBytes s a bs).rest = s.rest := rfl
@[simp] theorem storeBytes_woken : (storeBytes s a bs).woken = s.woken := rfl
@[simp] theorem storeBytes_gov : (storeBytes s a bs).gov = s.gov := rfl
@[simp] theorem storeBytes_mgmt : (storeBytes s a bs).mgmt = s.mgmt := rfl
@[simp] theorem storeBytes_pins : (storeBytes s a bs).pins = s.pins := rfl
@[simp] theorem storeBytes_pcie : (storeBytes s a bs).pcie = s.pcie := rfl
end

section
variable (s : State) (lo hi : Nat)
@[simp] theorem zeroSpan_pending : (zeroSpan s lo hi).pending = s.pending := rfl
@[simp] theorem zeroSpan_now : (zeroSpan s lo hi).now = s.now := rfl
@[simp] theorem zeroSpan_freeCtr : (zeroSpan s lo hi).freeCtr = s.freeCtr := rfl
@[simp] theorem zeroSpan_outbox : (zeroSpan s lo hi).outbox = s.outbox := rfl
@[simp] theorem zeroSpan_dirty : (zeroSpan s lo hi).dirty = s.dirty := rfl
@[simp] theorem zeroSpan_staged : (zeroSpan s lo hi).staged = s.staged := rfl
@[simp] theorem zeroSpan_poison : (zeroSpan s lo hi).poison = s.poison := rfl
@[simp] theorem zeroSpan_ueSectors : (zeroSpan s lo hi).ueSectors = s.ueSectors := rfl
@[simp] theorem zeroSpan_patrol : (zeroSpan s lo hi).patrol = s.patrol := rfl
@[simp] theorem zeroSpan_badSpares : (zeroSpan s lo hi).badSpares = s.badSpares := rfl
@[simp] theorem zeroSpan_ceTrack : (zeroSpan s lo hi).ceTrack = s.ceTrack := rfl
@[simp] theorem zeroSpan_retireQ : (zeroSpan s lo hi).retireQ = s.retireQ := rfl
@[simp] theorem zeroSpan_lowPolls : (zeroSpan s lo hi).lowPolls = s.lowPolls := rfl
@[simp] theorem zeroSpan_csr : (zeroSpan s lo hi).csr = s.csr := rfl
@[simp] theorem zeroSpan_tiles : (zeroSpan s lo hi).tiles = s.tiles := rfl
@[simp] theorem zeroSpan_disps : (zeroSpan s lo hi).disps = s.disps := rfl
@[simp] theorem zeroSpan_pans : (zeroSpan s lo hi).pans = s.pans := rfl
@[simp] theorem zeroSpan_suspended : (zeroSpan s lo hi).suspended = s.suspended := rfl
@[simp] theorem zeroSpan_ended : (zeroSpan s lo hi).ended = s.ended := rfl
@[simp] theorem zeroSpan_taskCtr : (zeroSpan s lo hi).taskCtr = s.taskCtr := rfl
@[simp] theorem zeroSpan_traceLost : (zeroSpan s lo hi).traceLost = s.traceLost := rfl
@[simp] theorem zeroSpan_semQ : (zeroSpan s lo hi).semQ = s.semQ := rfl
@[simp] theorem zeroSpan_tallyQ : (zeroSpan s lo hi).tallyQ = s.tallyQ := rfl
@[simp] theorem zeroSpan_notifyLast : (zeroSpan s lo hi).notifyLast = s.notifyLast := rfl
@[simp] theorem zeroSpan_barArr : (zeroSpan s lo hi).barArr = s.barArr := rfl
@[simp] theorem zeroSpan_barRel : (zeroSpan s lo hi).barRel = s.barRel := rfl
@[simp] theorem zeroSpan_groupWait : (zeroSpan s lo hi).groupWait = s.groupWait := rfl
@[simp] theorem zeroSpan_partials : (zeroSpan s lo hi).partials = s.partials := rfl
@[simp] theorem zeroSpan_reqs : (zeroSpan s lo hi).reqs = s.reqs := rfl
@[simp] theorem zeroSpan_nextTag : (zeroSpan s lo hi).nextTag = s.nextTag := rfl
@[simp] theorem zeroSpan_owed : (zeroSpan s lo hi).owed = s.owed := rfl
@[simp] theorem zeroSpan_links : (zeroSpan s lo hi).links = s.links := rfl
@[simp] theorem zeroSpan_shape : (zeroSpan s lo hi).shape = s.shape := rfl
@[simp] theorem zeroSpan_fabArr : (zeroSpan s lo hi).fabArr = s.fabArr := rfl
@[simp] theorem zeroSpan_colls : (zeroSpan s lo hi).colls = s.colls := rfl
@[simp] theorem zeroSpan_collHeld : (zeroSpan s lo hi).collHeld = s.collHeld := rfl
@[simp] theorem zeroSpan_probes : (zeroSpan s lo hi).probes = s.probes := rfl
@[simp] theorem zeroSpan_slowAt : (zeroSpan s lo hi).slowAt = s.slowAt := rfl
@[simp] theorem zeroSpan_servedBy : (zeroSpan s lo hi).servedBy = s.servedBy := rfl
@[simp] theorem zeroSpan_mgmtIn : (zeroSpan s lo hi).mgmtIn = s.mgmtIn := rfl
@[simp] theorem zeroSpan_twin : (zeroSpan s lo hi).twin = s.twin := rfl
@[simp] theorem zeroSpan_ledger : (zeroSpan s lo hi).ledger = s.ledger := rfl
@[simp] theorem zeroSpan_plans : (zeroSpan s lo hi).plans = s.plans := rfl
@[simp] theorem zeroSpan_runCtr : (zeroSpan s lo hi).runCtr = s.runCtr := rfl
@[simp] theorem zeroSpan_verInfo : (zeroSpan s lo hi).verInfo = s.verInfo := rfl
@[simp] theorem zeroSpan_redirect : (zeroSpan s lo hi).redirect = s.redirect := rfl
@[simp] theorem zeroSpan_moveFrom : (zeroSpan s lo hi).moveFrom = s.moveFrom := rfl
@[simp] theorem zeroSpan_grants : (zeroSpan s lo hi).grants = s.grants := rfl
@[simp] theorem zeroSpan_rdrStale : (zeroSpan s lo hi).rdrStale = s.rdrStale := rfl
@[simp] theorem zeroSpan_freed : (zeroSpan s lo hi).freed = s.freed := rfl
@[simp] theorem zeroSpan_copies : (zeroSpan s lo hi).copies = s.copies := rfl
@[simp] theorem zeroSpan_policy : (zeroSpan s lo hi).policy = s.policy := rfl
@[simp] theorem zeroSpan_policyNext : (zeroSpan s lo hi).policyNext = s.policyNext := rfl
@[simp] theorem zeroSpan_freeze : (zeroSpan s lo hi).freeze = s.freeze := rfl
@[simp] theorem zeroSpan_freezeNext : (zeroSpan s lo hi).freezeNext = s.freezeNext := rfl
@[simp] theorem zeroSpan_idleSince : (zeroSpan s lo hi).idleSince = s.idleSince := rfl
@[simp] theorem zeroSpan_cmd : (zeroSpan s lo hi).cmd = s.cmd := rfl
@[simp] theorem zeroSpan_oobCmd : (zeroSpan s lo hi).oobCmd = s.oobCmd := rfl
@[simp] theorem zeroSpan_mbxPay : (zeroSpan s lo hi).mbxPay = s.mbxPay := rfl
@[simp] theorem zeroSpan_mbxGen : (zeroSpan s lo hi).mbxGen = s.mbxGen := rfl
@[simp] theorem zeroSpan_load : (zeroSpan s lo hi).load = s.load := rfl
@[simp] theorem zeroSpan_evqOldest : (zeroSpan s lo hi).evqOldest = s.evqOldest := rfl
@[simp] theorem zeroSpan_evqRaised : (zeroSpan s lo hi).evqRaised = s.evqRaised := rfl
@[simp] theorem zeroSpan_dbHeld : (zeroSpan s lo hi).dbHeld = s.dbHeld := rfl
@[simp] theorem zeroSpan_aborting : (zeroSpan s lo hi).aborting = s.aborting := rfl
@[simp] theorem zeroSpan_dstate : (zeroSpan s lo hi).dstate = s.dstate := rfl
@[simp] theorem zeroSpan_boot : (zeroSpan s lo hi).boot = s.boot := rfl
@[simp] theorem zeroSpan_resetting : (zeroSpan s lo hi).resetting = s.resetting := rfl
@[simp] theorem zeroSpan_rest : (zeroSpan s lo hi).rest = s.rest := rfl
@[simp] theorem zeroSpan_woken : (zeroSpan s lo hi).woken = s.woken := rfl
@[simp] theorem zeroSpan_gov : (zeroSpan s lo hi).gov = s.gov := rfl
@[simp] theorem zeroSpan_mgmt : (zeroSpan s lo hi).mgmt = s.mgmt := rfl
@[simp] theorem zeroSpan_pins : (zeroSpan s lo hi).pins = s.pins := rfl
@[simp] theorem zeroSpan_pcie : (zeroSpan s lo hi).pcie = s.pcie := rfl
end

section
variable (s : State) (a : Nat) (b : Bool)
@[simp] theorem setPsn_pending : (setPsn s a b).pending = s.pending := rfl
@[simp] theorem setPsn_now : (setPsn s a b).now = s.now := rfl
@[simp] theorem setPsn_freeCtr : (setPsn s a b).freeCtr = s.freeCtr := rfl
@[simp] theorem setPsn_outbox : (setPsn s a b).outbox = s.outbox := rfl
@[simp] theorem setPsn_mem : (setPsn s a b).mem = s.mem := rfl
@[simp] theorem setPsn_undef : (setPsn s a b).undef = s.undef := rfl
@[simp] theorem setPsn_dirty : (setPsn s a b).dirty = s.dirty := rfl
@[simp] theorem setPsn_staged : (setPsn s a b).staged = s.staged := rfl
@[simp] theorem setPsn_ueSectors : (setPsn s a b).ueSectors = s.ueSectors := rfl
@[simp] theorem setPsn_patrol : (setPsn s a b).patrol = s.patrol := rfl
@[simp] theorem setPsn_badSpares : (setPsn s a b).badSpares = s.badSpares := rfl
@[simp] theorem setPsn_ceTrack : (setPsn s a b).ceTrack = s.ceTrack := rfl
@[simp] theorem setPsn_retireQ : (setPsn s a b).retireQ = s.retireQ := rfl
@[simp] theorem setPsn_lowPolls : (setPsn s a b).lowPolls = s.lowPolls := rfl
@[simp] theorem setPsn_csr : (setPsn s a b).csr = s.csr := rfl
@[simp] theorem setPsn_tiles : (setPsn s a b).tiles = s.tiles := rfl
@[simp] theorem setPsn_disps : (setPsn s a b).disps = s.disps := rfl
@[simp] theorem setPsn_pans : (setPsn s a b).pans = s.pans := rfl
@[simp] theorem setPsn_suspended : (setPsn s a b).suspended = s.suspended := rfl
@[simp] theorem setPsn_ended : (setPsn s a b).ended = s.ended := rfl
@[simp] theorem setPsn_taskCtr : (setPsn s a b).taskCtr = s.taskCtr := rfl
@[simp] theorem setPsn_traceLost : (setPsn s a b).traceLost = s.traceLost := rfl
@[simp] theorem setPsn_semQ : (setPsn s a b).semQ = s.semQ := rfl
@[simp] theorem setPsn_tallyQ : (setPsn s a b).tallyQ = s.tallyQ := rfl
@[simp] theorem setPsn_notifyLast : (setPsn s a b).notifyLast = s.notifyLast := rfl
@[simp] theorem setPsn_barArr : (setPsn s a b).barArr = s.barArr := rfl
@[simp] theorem setPsn_barRel : (setPsn s a b).barRel = s.barRel := rfl
@[simp] theorem setPsn_groupWait : (setPsn s a b).groupWait = s.groupWait := rfl
@[simp] theorem setPsn_partials : (setPsn s a b).partials = s.partials := rfl
@[simp] theorem setPsn_reqs : (setPsn s a b).reqs = s.reqs := rfl
@[simp] theorem setPsn_nextTag : (setPsn s a b).nextTag = s.nextTag := rfl
@[simp] theorem setPsn_owed : (setPsn s a b).owed = s.owed := rfl
@[simp] theorem setPsn_links : (setPsn s a b).links = s.links := rfl
@[simp] theorem setPsn_shape : (setPsn s a b).shape = s.shape := rfl
@[simp] theorem setPsn_fabArr : (setPsn s a b).fabArr = s.fabArr := rfl
@[simp] theorem setPsn_colls : (setPsn s a b).colls = s.colls := rfl
@[simp] theorem setPsn_collHeld : (setPsn s a b).collHeld = s.collHeld := rfl
@[simp] theorem setPsn_probes : (setPsn s a b).probes = s.probes := rfl
@[simp] theorem setPsn_slowAt : (setPsn s a b).slowAt = s.slowAt := rfl
@[simp] theorem setPsn_servedBy : (setPsn s a b).servedBy = s.servedBy := rfl
@[simp] theorem setPsn_mgmtIn : (setPsn s a b).mgmtIn = s.mgmtIn := rfl
@[simp] theorem setPsn_twin : (setPsn s a b).twin = s.twin := rfl
@[simp] theorem setPsn_ledger : (setPsn s a b).ledger = s.ledger := rfl
@[simp] theorem setPsn_plans : (setPsn s a b).plans = s.plans := rfl
@[simp] theorem setPsn_runCtr : (setPsn s a b).runCtr = s.runCtr := rfl
@[simp] theorem setPsn_verInfo : (setPsn s a b).verInfo = s.verInfo := rfl
@[simp] theorem setPsn_redirect : (setPsn s a b).redirect = s.redirect := rfl
@[simp] theorem setPsn_moveFrom : (setPsn s a b).moveFrom = s.moveFrom := rfl
@[simp] theorem setPsn_grants : (setPsn s a b).grants = s.grants := rfl
@[simp] theorem setPsn_rdrStale : (setPsn s a b).rdrStale = s.rdrStale := rfl
@[simp] theorem setPsn_freed : (setPsn s a b).freed = s.freed := rfl
@[simp] theorem setPsn_copies : (setPsn s a b).copies = s.copies := rfl
@[simp] theorem setPsn_policy : (setPsn s a b).policy = s.policy := rfl
@[simp] theorem setPsn_policyNext : (setPsn s a b).policyNext = s.policyNext := rfl
@[simp] theorem setPsn_freeze : (setPsn s a b).freeze = s.freeze := rfl
@[simp] theorem setPsn_freezeNext : (setPsn s a b).freezeNext = s.freezeNext := rfl
@[simp] theorem setPsn_idleSince : (setPsn s a b).idleSince = s.idleSince := rfl
@[simp] theorem setPsn_cmd : (setPsn s a b).cmd = s.cmd := rfl
@[simp] theorem setPsn_oobCmd : (setPsn s a b).oobCmd = s.oobCmd := rfl
@[simp] theorem setPsn_mbxPay : (setPsn s a b).mbxPay = s.mbxPay := rfl
@[simp] theorem setPsn_mbxGen : (setPsn s a b).mbxGen = s.mbxGen := rfl
@[simp] theorem setPsn_load : (setPsn s a b).load = s.load := rfl
@[simp] theorem setPsn_evqOldest : (setPsn s a b).evqOldest = s.evqOldest := rfl
@[simp] theorem setPsn_evqRaised : (setPsn s a b).evqRaised = s.evqRaised := rfl
@[simp] theorem setPsn_dbHeld : (setPsn s a b).dbHeld = s.dbHeld := rfl
@[simp] theorem setPsn_aborting : (setPsn s a b).aborting = s.aborting := rfl
@[simp] theorem setPsn_dstate : (setPsn s a b).dstate = s.dstate := rfl
@[simp] theorem setPsn_boot : (setPsn s a b).boot = s.boot := rfl
@[simp] theorem setPsn_resetting : (setPsn s a b).resetting = s.resetting := rfl
@[simp] theorem setPsn_rest : (setPsn s a b).rest = s.rest := rfl
@[simp] theorem setPsn_woken : (setPsn s a b).woken = s.woken := rfl
@[simp] theorem setPsn_gov : (setPsn s a b).gov = s.gov := rfl
@[simp] theorem setPsn_mgmt : (setPsn s a b).mgmt = s.mgmt := rfl
@[simp] theorem setPsn_pins : (setPsn s a b).pins = s.pins := rfl
@[simp] theorem setPsn_pcie : (setPsn s a b).pcie = s.pcie := rfl
end

section
variable (s : State) (held : List Instr)
@[simp] theorem holdWake_pending : (holdWake s held).pending = s.pending := rfl
@[simp] theorem holdWake_now : (holdWake s held).now = s.now := rfl
@[simp] theorem holdWake_freeCtr : (holdWake s held).freeCtr = s.freeCtr := rfl
@[simp] theorem holdWake_outbox : (holdWake s held).outbox = s.outbox := rfl
@[simp] theorem holdWake_mem : (holdWake s held).mem = s.mem := rfl
@[simp] theorem holdWake_undef : (holdWake s held).undef = s.undef := rfl
@[simp] theorem holdWake_dirty : (holdWake s held).dirty = s.dirty := rfl
@[simp] theorem holdWake_staged : (holdWake s held).staged = s.staged := rfl
@[simp] theorem holdWake_poison : (holdWake s held).poison = s.poison := rfl
@[simp] theorem holdWake_ueSectors : (holdWake s held).ueSectors = s.ueSectors := rfl
@[simp] theorem holdWake_patrol : (holdWake s held).patrol = s.patrol := rfl
@[simp] theorem holdWake_badSpares : (holdWake s held).badSpares = s.badSpares := rfl
@[simp] theorem holdWake_ceTrack : (holdWake s held).ceTrack = s.ceTrack := rfl
@[simp] theorem holdWake_retireQ : (holdWake s held).retireQ = s.retireQ := rfl
@[simp] theorem holdWake_lowPolls : (holdWake s held).lowPolls = s.lowPolls := rfl
@[simp] theorem holdWake_csr : (holdWake s held).csr = s.csr := rfl
@[simp] theorem holdWake_tiles : (holdWake s held).tiles = s.tiles := rfl
@[simp] theorem holdWake_disps : (holdWake s held).disps = s.disps := rfl
@[simp] theorem holdWake_pans : (holdWake s held).pans = s.pans := rfl
@[simp] theorem holdWake_suspended : (holdWake s held).suspended = s.suspended := rfl
@[simp] theorem holdWake_ended : (holdWake s held).ended = s.ended := rfl
@[simp] theorem holdWake_taskCtr : (holdWake s held).taskCtr = s.taskCtr := rfl
@[simp] theorem holdWake_traceLost : (holdWake s held).traceLost = s.traceLost := rfl
@[simp] theorem holdWake_semQ : (holdWake s held).semQ = s.semQ := rfl
@[simp] theorem holdWake_tallyQ : (holdWake s held).tallyQ = s.tallyQ := rfl
@[simp] theorem holdWake_notifyLast : (holdWake s held).notifyLast = s.notifyLast := rfl
@[simp] theorem holdWake_barArr : (holdWake s held).barArr = s.barArr := rfl
@[simp] theorem holdWake_barRel : (holdWake s held).barRel = s.barRel := rfl
@[simp] theorem holdWake_groupWait : (holdWake s held).groupWait = s.groupWait := rfl
@[simp] theorem holdWake_partials : (holdWake s held).partials = s.partials := rfl
@[simp] theorem holdWake_reqs : (holdWake s held).reqs = s.reqs := rfl
@[simp] theorem holdWake_nextTag : (holdWake s held).nextTag = s.nextTag := rfl
@[simp] theorem holdWake_owed : (holdWake s held).owed = s.owed := rfl
@[simp] theorem holdWake_links : (holdWake s held).links = s.links := rfl
@[simp] theorem holdWake_shape : (holdWake s held).shape = s.shape := rfl
@[simp] theorem holdWake_fabArr : (holdWake s held).fabArr = s.fabArr := rfl
@[simp] theorem holdWake_colls : (holdWake s held).colls = s.colls := rfl
@[simp] theorem holdWake_collHeld : (holdWake s held).collHeld = s.collHeld := rfl
@[simp] theorem holdWake_probes : (holdWake s held).probes = s.probes := rfl
@[simp] theorem holdWake_slowAt : (holdWake s held).slowAt = s.slowAt := rfl
@[simp] theorem holdWake_servedBy : (holdWake s held).servedBy = s.servedBy := rfl
@[simp] theorem holdWake_mgmtIn : (holdWake s held).mgmtIn = s.mgmtIn := rfl
@[simp] theorem holdWake_twin : (holdWake s held).twin = s.twin := rfl
@[simp] theorem holdWake_ledger : (holdWake s held).ledger = s.ledger := rfl
@[simp] theorem holdWake_plans : (holdWake s held).plans = s.plans := rfl
@[simp] theorem holdWake_runCtr : (holdWake s held).runCtr = s.runCtr := rfl
@[simp] theorem holdWake_verInfo : (holdWake s held).verInfo = s.verInfo := rfl
@[simp] theorem holdWake_redirect : (holdWake s held).redirect = s.redirect := rfl
@[simp] theorem holdWake_moveFrom : (holdWake s held).moveFrom = s.moveFrom := rfl
@[simp] theorem holdWake_grants : (holdWake s held).grants = s.grants := rfl
@[simp] theorem holdWake_rdrStale : (holdWake s held).rdrStale = s.rdrStale := rfl
@[simp] theorem holdWake_freed : (holdWake s held).freed = s.freed := rfl
@[simp] theorem holdWake_copies : (holdWake s held).copies = s.copies := rfl
@[simp] theorem holdWake_policy : (holdWake s held).policy = s.policy := rfl
@[simp] theorem holdWake_policyNext : (holdWake s held).policyNext = s.policyNext := rfl
@[simp] theorem holdWake_freeze : (holdWake s held).freeze = s.freeze := rfl
@[simp] theorem holdWake_freezeNext : (holdWake s held).freezeNext = s.freezeNext := rfl
@[simp] theorem holdWake_idleSince : (holdWake s held).idleSince = s.idleSince := rfl
@[simp] theorem holdWake_cmd : (holdWake s held).cmd = s.cmd := rfl
@[simp] theorem holdWake_oobCmd : (holdWake s held).oobCmd = s.oobCmd := rfl
@[simp] theorem holdWake_mbxPay : (holdWake s held).mbxPay = s.mbxPay := rfl
@[simp] theorem holdWake_mbxGen : (holdWake s held).mbxGen = s.mbxGen := rfl
@[simp] theorem holdWake_load : (holdWake s held).load = s.load := rfl
@[simp] theorem holdWake_evqOldest : (holdWake s held).evqOldest = s.evqOldest := rfl
@[simp] theorem holdWake_evqRaised : (holdWake s held).evqRaised = s.evqRaised := rfl
@[simp] theorem holdWake_dbHeld : (holdWake s held).dbHeld = s.dbHeld := rfl
@[simp] theorem holdWake_aborting : (holdWake s held).aborting = s.aborting := rfl
@[simp] theorem holdWake_dstate : (holdWake s held).dstate = s.dstate := rfl
@[simp] theorem holdWake_boot : (holdWake s held).boot = s.boot := rfl
@[simp] theorem holdWake_resetting : (holdWake s held).resetting = s.resetting := rfl
@[simp] theorem holdWake_gov : (holdWake s held).gov = s.gov := rfl
@[simp] theorem holdWake_mgmt : (holdWake s held).mgmt = s.mgmt := rfl
@[simp] theorem holdWake_pins : (holdWake s held).pins = s.pins := rfl
@[simp] theorem holdWake_pcie : (holdWake s held).pcie = s.pcie := rfl
end

end Sys2Proof.Machine
end

