-- ==== Sys2Proof/Laws/Tab.lean ====
section
/-! SUPPORT. Sparse tables: a read after a write gives the value written, a write leaves every other key alone, and every operation keeps the
canonical form. -/

namespace Sys2Proof.Machine

theorem tabSorted_mono {α : Type} (t : Tab α) : ∀ lo hi, lo ≤ hi → tabSorted hi t = true → tabSorted lo t = true := by
  intro lo hi h hs
  cases t with
  | nil => rfl
  | cons e t =>
    simp only [tabSorted, Bool.and_eq_true, decide_eq_true_eq] at *
    exact ⟨by omega, hs.2⟩

/-- A key below every listed key reads as the default. -/
theorem tabGet_below {α : Type} (d : Nat → α) (t : Tab α) : ∀ lo k, tabSorted lo t = true → k < lo → tabGet d t k = d k := by
  intro lo k hs hk
  cases t with
  | nil => rfl
  | cons e t =>
    simp only [tabSorted, Bool.and_eq_true, decide_eq_true_eq] at hs
    simp only [tabGet]
    rw [if_pos (by omega)]

theorem tabGet_insert {α : Type} (d : Nat → α) (t : Tab α) (k : Nat) (v : α) (j : Nat) :
    tabGet d (tabInsert t k v) j = if j = k then v else tabGet d t j := by
  induction t with
  | nil => simp only [tabInsert, tabGet]; (repeat' split) <;> first | rfl | (exfalso; omega)
  | cons e t ih =>
    obtain ⟨i, w⟩ := e
    simp only [tabInsert]
    split
    · simp only [tabGet]; (repeat' split) <;> first | rfl | (exfalso; omega)
    · split
      · simp only [tabGet]; (repeat' split) <;> first | rfl | (exfalso; omega)
      · simp only [tabGet, ih]; (repeat' split) <;> first | rfl | (exfalso; omega)

theorem tabGet_erase {α : Type} (d : Nat → α) (t : Tab α) (k j : Nat) : ∀ lo, tabSorted lo t = true →
    tabGet d (tabErase t k) j = if j = k then d j else tabGet d t j := by
  induction t with
  | nil => intro lo _; simp [tabErase, tabGet]
  | cons e t ih =>
    obtain ⟨i, w⟩ := e
    intro lo hs
    simp only [tabSorted, Bool.and_eq_true, decide_eq_true_eq] at hs
    simp only [tabErase]
    split
    · simp only [tabGet]; (repeat' split) <;> first | rfl | (exfalso; omega)
    · split
      · rename_i hk
        subst hk
        split
        · next hj => subst hj; exact tabGet_below d t _ _ hs.2 (Nat.lt_succ_self _)
        · next hj =>
          simp only [tabGet]
          split
          · exact tabGet_below d t _ _ hs.2 (by omega)
          · rw [if_neg (fun h => hj h.symm)]
      · simp only [tabGet, ih _ hs.2]; (repeat' split) <;> first | rfl | (exfalso; omega)

/-- A read after a write: the value written at its key, and every other key as before. -/
theorem tabGet_set {α : Type} [DecidableEq α] (d : Nat → α) (t : Tab α) (h : tabWf d t = true) (k : Nat) (v : α) (j : Nat) :
    tabGet d (tabSet d t k v) j = if j = k then v else tabGet d t j := by
  simp only [tabWf, Bool.and_eq_true] at h
  simp only [tabSet]
  split
  · next hv =>
    rw [tabGet_erase d t k j 0 h.1]
    split
    · next hj => rw [hj, hv]
    · rfl
  · exact tabGet_insert d t k v j

theorem tabSorted_insert {α : Type} (t : Tab α) (k : Nat) (v : α) : ∀ lo, lo ≤ k → tabSorted lo t = true → tabSorted lo (tabInsert t k v) = true := by
  induction t with
  | nil => intro lo h _; simp [tabInsert, tabSorted, h]
  | cons e t ih =>
    obtain ⟨i, w⟩ := e
    intro lo h hs
    simp only [tabSorted, Bool.and_eq_true, decide_eq_true_eq] at hs
    simp only [tabInsert]
    split
    · simp only [tabSorted, Bool.and_eq_true, decide_eq_true_eq]; exact ⟨h, by omega, hs.2⟩
    · split
      · next hk => subst hk; simp only [tabSorted, Bool.and_eq_true, decide_eq_true_eq]; exact ⟨h, hs.2⟩
      · simp only [tabSorted, Bool.and_eq_true, decide_eq_true_eq]; exact ⟨hs.1, ih _ (by omega) hs.2⟩

theorem tabSorted_erase {α : Type} (t : Tab α) (k : Nat) : ∀ lo, tabSorted lo t = true → tabSorted lo (tabErase t k) = true := by
  induction t with
  | nil => intro lo _; rfl
  | cons e t ih =>
    obtain ⟨i, w⟩ := e
    intro lo hs
    have hs' := hs
    simp only [tabSorted, Bool.and_eq_true, decide_eq_true_eq] at hs
    simp only [tabErase]
    split
    · exact hs'
    · split
      · exact tabSorted_mono t _ _ (by omega) hs.2
      · simp only [tabSorted, Bool.and_eq_true, decide_eq_true_eq]; exact ⟨hs.1, ih _ hs.2⟩

theorem tabSorted_filter {α : Type} (p : Nat × α → Bool) (t : Tab α) : ∀ lo, tabSorted lo t = true → tabSorted lo (t.filter p) = true := by
  induction t with
  | nil => intro lo _; rfl
  | cons e t ih =>
    obtain ⟨i, w⟩ := e
    intro lo hs
    simp only [tabSorted, Bool.and_eq_true, decide_eq_true_eq] at hs
    simp only [List.filter]
    split
    · simp only [tabSorted, Bool.and_eq_true, decide_eq_true_eq]; exact ⟨hs.1, ih _ hs.2⟩
    · exact ih _ (tabSorted_mono t _ _ (by omega) hs.2)

theorem mem_tabInsert {α : Type} (t : Tab α) (k : Nat) (v : α) (e : Nat × α) (h : e ∈ tabInsert t k v) : e = (k, v) ∨ e ∈ t := by
  induction t with
  | nil => simpa [tabInsert] using h
  | cons x t ih =>
    obtain ⟨i, w⟩ := x
    simp only [tabInsert] at h
    split at h
    · simpa using h
    · split at h
      · simp only [List.mem_cons] at h ⊢
        exact h.imp id .inr
      · simp only [List.mem_cons] at h ⊢
        rcases h with h | h
        · exact .inr (.inl h)
        · exact (ih h).imp id .inr

theorem mem_tabErase {α : Type} (t : Tab α) (k : Nat) (e : Nat × α) (h : e ∈ tabErase t k) : e ∈ t := by
  induction t with
  | nil => exact h
  | cons x t ih =>
    obtain ⟨i, w⟩ := x
    simp only [tabErase] at h
    split at h
    · exact h
    · split at h
      · exact List.mem_cons_of_mem _ h
      · simp only [List.mem_cons] at h ⊢; exact h.imp id ih

/-- A write keeps the canonical form. -/
theorem tabWf_set {α : Type} [DecidableEq α] (d : Nat → α) (t : Tab α) (k : Nat) (v : α) (h : tabWf d t = true) : tabWf d (tabSet d t k v) = true := by
  simp only [tabWf, Bool.and_eq_true, List.all_eq_true, decide_eq_true_eq] at *
  simp only [tabSet]
  split
  · exact ⟨tabSorted_erase t k 0 h.1, fun e he => h.2 e (mem_tabErase t k e he)⟩
  · next hv =>
    refine ⟨tabSorted_insert t k v 0 (Nat.zero_le _) h.1, fun e he => ?_⟩
    rcases mem_tabInsert t k v e he with rfl | he
    · exact hv
    · exact h.2 e he

/-- Removing entries keeps the canonical form. -/
theorem tabWf_filter {α : Type} [DecidableEq α] (d : Nat → α) (p : Nat × α → Bool) (t : Tab α) (h : tabWf d t = true) : tabWf d (t.filter p) = true := by
  simp only [tabWf, Bool.and_eq_true, List.all_eq_true, decide_eq_true_eq] at *
  exact ⟨tabSorted_filter p t 0 h.1, fun e he => h.2 e (List.mem_filter.mp he).1⟩

theorem tabWf_drop {α : Type} [DecidableEq α] (d : Nat → α) (p : Nat → Bool) (t : Tab α) (h : tabWf d t = true) : tabWf d (tabDrop p t) = true :=
  tabWf_filter d _ t h

@[simp] theorem tabWf_nil {α : Type} [DecidableEq α] (d : Nat → α) : tabWf d ([] : Tab α) = true := rfl

end Sys2Proof.Machine
end

