-- ==== Sys2Proof/Laws/Ops.lean ====
section
/-! SUPPORT. The shared operations on registers and tiles: what a read gives after a write, and that the invariant is kept. -/

namespace Sys2Proof.Machine

/-! ### Registers -/

theorem csrGet_csrPut (s : State) (h : Inv s) (a : Nat) (v : Word) (b : Nat) : csrGet (csrPut s a v) b = if b = a then v else csrGet s b :=
  tabGet_set csrReset s.csr h.csr a v b

theorem csrGet_csrPut_same (s : State) (h : Inv s) (a : Nat) (v : Word) : csrGet (csrPut s a v) a = v := by
  rw [csrGet_csrPut s h, if_pos rfl]

theorem csrGet_csrPut_other (s : State) (h : Inv s) (a : Nat) (v : Word) (b : Nat) (hb : b ≠ a) : csrGet (csrPut s a v) b = csrGet s b := by
  rw [csrGet_csrPut s h, if_neg hb]

theorem csrPut_inv (s : State) (a : Nat) (v : Word) (h : Inv s) : Inv (csrPut s a v) :=
  { h with csr := tabWf_set csrReset s.csr a v h.csr }

theorem csrSetF_inv (s : State) (a lo w v : Nat) (h : Inv s) : Inv (csrSetF s a lo w v) := csrPut_inv s a _ h
theorem csrAdd_inv (s : State) (a n : Nat) (h : Inv s) : Inv (csrAdd s a n) := csrPut_inv s a _ h
theorem csrDrop_inv (s : State) (lo hi : Nat) (h : Inv s) : Inv (csrDrop s lo hi) := { h with csr := tabWf_drop csrReset (fun k => decide (lo ≤ k ∧ k < hi)) s.csr h.csr }

/-- An update that leaves the register file alone leaves every register. -/
theorem csrGet_congr (s t : State) (h : t.csr = s.csr) (a : Nat) : csrGet t a = csrGet s a := by
  simp only [csrGet, h]

/-! ### Tiles -/

theorem tileOf_setTile (s : State) (h : Inv s) (k : Nat) (x : Tile) (j : Nat) : tileOf (setTile s k x) j = if j = k then x else tileOf s j :=
  tabGet_set (fun _ => Tile.init) s.tiles h.tiles k x j

/-- A tile may be replaced by one whose request slots and stream contexts are in canonical form. -/
theorem setTile_inv (s : State) (k : Nat) (x : Tile) (h : Inv s) (hs : tabWf (fun _ => (none : Option Slot)) x.fgr.slots = true)
    (hc : tabWf (fun _ => (none : Option Stream)) x.prt.ctxs = true) : Inv (setTile s k x) :=
  { h with
    tiles := tabWf_set (fun _ => Tile.init) s.tiles k x h.tiles
    slots := fun j => by
      simp only [fgrOf, tileOf_setTile s h]
      split
      · exact hs
      · exact h.slots j
    ctxs := fun j => by
      simp only [prtOf, tileOf_setTile s h]
      split
      · exact hc
      · exact h.ctxs j }

theorem setCore_inv (s : State) (k : Nat) (x : Core) (h : Inv s) : Inv (setCore s k x) := setTile_inv s k _ h (h.slots k) (h.ctxs k)

theorem coreOf_setCore (s : State) (h : Inv s) (k : Nat) (x : Core) (j : Nat) : coreOf (setCore s k x) j = if j = k then x else coreOf s j := by
  simp only [coreOf, setCore, tileOf_setTile s h]
  split <;> rfl

theorem tileOf_setCore_other (s : State) (h : Inv s) (k : Nat) (x : Core) (j : Nat) (hj : j ≠ k) : tileOf (setCore s k x) j = tileOf s j := by
  simp only [setCore, tileOf_setTile s h, if_neg hj]

theorem tileOf_setCore_same (s : State) (h : Inv s) (k : Nat) (x : Core) : tileOf (setCore s k x) k = { tileOf s k with core := x } := by
  simp only [setCore, tileOf_setTile s h, if_pos]

@[simp] theorem coreOf_csrPut (s : State) (a : Nat) (v : Word) (k : Nat) : coreOf (csrPut s a v) k = coreOf s k := rfl
@[simp] theorem tileOf_csrPut (s : State) (a : Nat) (v : Word) (k : Nat) : tileOf (csrPut s a v) k = tileOf s k := rfl
@[simp] theorem csrGet_setCore (s : State) (k : Nat) (x : Core) (a : Nat) : csrGet (setCore s k x) a = csrGet s a := rfl
@[simp] theorem csrGet_setTile (s : State) (k : Nat) (x : Tile) (a : Nat) : csrGet (setTile s k x) a = csrGet s a := rfl
@[simp] theorem memByte_csrPut (s : State) (a : Nat) (v : Word) (b : Nat) : memByte (csrPut s a v) b = memByte s b := rfl
@[simp] theorem memByte_setCore (s : State) (k : Nat) (x : Core) (b : Nat) : memByte (setCore s k x) b = memByte s b := rfl

end Sys2Proof.Machine
end

