-- ==== Sys2Proof/Laws/Memory.lean ====
section
/-! SUPPORT. Bytes of memory: what a read gives after a store, after a span is cleared and after its contents are given up, and that every memory
operation keeps the canonical form. -/

namespace Sys2Proof.Machine

/-! ### The list of bytes -/

theorem putBytes_wf (bs : List Byte) : ∀ (m : List Host.Cell) (a : Nat), Memory.wf m = true → Memory.wf (putBytes m a bs) = true := by
  induction bs with
  | nil => intro m a h; exact h
  | cons b bs ih => intro m a h; exact ih _ _ (tabWf_set _ m a b h)

theorem tabGet_putBytes (bs : List Byte) : ∀ (m : List Host.Cell) (a k : Nat), Memory.wf m = true →
    tabGet (fun _ => (0 : Byte)) (putBytes m a bs) k = if a ≤ k ∧ k < a + bs.length then bs.getD (k - a) 0 else tabGet (fun _ => (0 : Byte)) m k := by
  induction bs with
  | nil => intro m a k _; rw [if_neg (by simp only [List.length_nil]; omega)]; rfl
  | cons b bs ih =>
    intro m a k h
    simp only [putBytes, ih _ _ _ (tabWf_set (fun _ => (0 : Byte)) m a b h), tabGet_set (fun _ => (0 : Byte)) m h, List.length_cons]
    by_cases h1 : a + 1 ≤ k ∧ k < a + 1 + bs.length
    · rw [if_pos h1, if_pos (by omega), show k - a = (k - (a + 1)) + 1 by omega, List.getD_cons_succ]
    · rw [if_neg h1]
      by_cases h2 : k = a
      · subst h2; rw [if_pos rfl, if_pos (by omega), Nat.sub_self, List.getD_cons_zero]
      · rw [if_neg h2, if_neg (by omega)]

theorem tabGet_filter {α : Type} (d : Nat → α) (p : Nat × α → Bool) (t : Tab α) : ∀ lo, tabSorted lo t = true → ∀ k,
    (∀ v, p (k, v) = true) → tabGet d (t.filter p) k = tabGet d t k := by
  induction t with
  | nil => intro lo _ k _; rfl
  | cons e t ih =>
    obtain ⟨i, w⟩ := e
    intro lo hs k hp
    simp only [tabSorted, Bool.and_eq_true, decide_eq_true_eq] at hs
    simp only [List.filter]
    split
    · simp only [tabGet, ih _ hs.2 k hp]
    · next hf =>
      simp only [tabGet]
      rw [ih _ hs.2 k hp]
      split
      · exact tabGet_below d t _ _ hs.2 (by omega)
      · split
        · next h => subst h; rw [hp w] at hf; cases hf
        · rfl

theorem tabGet_filter_gone {α : Type} (d : Nat → α) (p : Nat × α → Bool) (t : Tab α) (k : Nat) (hp : ∀ v, p (k, v) = false) :
    tabGet d (t.filter p) k = d k := by
  induction t with
  | nil => rfl
  | cons e t ih =>
    obtain ⟨i, w⟩ := e
    simp only [List.filter]
    split
    · next hf =>
      simp only [tabGet, ih]
      split
      · rfl
      · split
        · next h => subst h; rw [hp w] at hf; cases hf
        · rfl
    · exact ih

/-- What a key of a table reads as once the keys that meet `p` are removed. -/
theorem tabGet_drop {α : Type} [DecidableEq α] (d : Nat → α) (p : Nat → Bool) (t : Tab α) (h : tabWf d t = true) (k : Nat) :
    tabGet d (tabDrop p t) k = if p k then d k else tabGet d t k := by
  simp only [tabWf, Bool.and_eq_true] at h
  split
  · next hp => exact tabGet_filter_gone d _ t k (fun _ => by simp [hp])
  · next hp => exact tabGet_filter d _ t 0 h.1 k (fun _ => by simp [hp])

/-! ### Spans of undefined contents -/

theorem inSpan_iff (a : Nat) (u : Span) : inSpan a u = true ↔ u.lo ≤ a ∧ a < u.hi := by simp [inSpan]

/-- What is left of a span without `[lo, hi)` holds `a` just when the span does and `[lo, hi)` does not, with the span's generation. -/
theorem inSpan_cut (lo hi : Nat) (u : Span) (a : Nat) :
    ((inSpan a u = true ∧ ¬(lo ≤ a ∧ a < hi)) → ((if u.hi ≤ lo ∨ hi ≤ u.lo then [u] else cutSpan lo hi u).find? (inSpan a)).map (·.gen) = some u.gen) ∧
    (¬(inSpan a u = true ∧ ¬(lo ≤ a ∧ a < hi)) → (if u.hi ≤ lo ∨ hi ≤ u.lo then [u] else cutSpan lo hi u).find? (inSpan a) = none) := by
  rw [inSpan_iff]
  have one : ∀ v : Span, v.gen = u.gen → (v.lo ≤ a ∧ a < v.hi) → ([v].find? (inSpan a)).map (·.gen) = some u.gen := by
    intro v hv h
    rw [List.find?_cons_of_pos ((inSpan_iff a v).mpr h), Option.map_some, hv]
  have zero : ∀ v : Span, ¬(v.lo ≤ a ∧ a < v.hi) → [v].find? (inSpan a) = none := by
    intro v h
    rw [List.find?_cons_of_neg (fun hc => h ((inSpan_iff a v).mp hc)), List.find?_nil]
  constructor
  · intro h
    split
    · exact one u rfl h.1
    · simp only [cutSpan, List.find?_append]
      by_cases hl : a < lo
      · rw [if_pos (by omega)]
        have := one { u with hi := min u.hi lo } rfl ⟨h.1.1, by simp only; omega⟩
        cases hx : [{ u with hi := min u.hi lo }].find? (inSpan a) with
        | none => rw [hx] at this; cases this
        | some x => rw [hx] at this; simpa using this
      · have hr : ¬(u.lo ≤ a ∧ a < min u.hi lo) := by omega
        have hn : (if u.lo < min u.hi lo then [{ u with hi := min u.hi lo }] else []).find? (inSpan a) = none := by
          split
          · exact zero _ hr
          · rfl
        rw [hn, Option.none_or, if_pos (by omega)]
        exact one { u with lo := max u.lo hi } rfl ⟨by simp only; omega, h.1.2⟩
  · intro h
    split
    · exact zero u (by omega)
    · simp only [cutSpan, List.find?_append]
      have h1 : (if u.lo < min u.hi lo then [{ u with hi := min u.hi lo }] else []).find? (inSpan a) = none := by
        split
        · exact zero _ (by simp only; omega)
        · rfl
      have h2 : (if max u.lo hi < u.hi then [{ u with lo := max u.lo hi }] else []).find? (inSpan a) = none := by
        split
        · exact zero _ (by simp only; omega)
        · rfl
      rw [h1, h2]; rfl

theorem find_cutSpans (lo hi a : Nat) (us : List Span) : ((cutSpans lo hi us).find? (inSpan a)).map (·.gen) =
    if lo ≤ a ∧ a < hi then none else (us.find? (inSpan a)).map (·.gen) := by
  induction us with
  | nil => simp [cutSpans]
  | cons u us ih =>
    have h := inSpan_cut lo hi u a
    simp only [cutSpans, List.flatMap_cons, List.find?_append] at *
    by_cases hc : inSpan a u = true ∧ ¬(lo ≤ a ∧ a < hi)
    · have hx := h.1 hc
      rw [if_neg hc.2, List.find?_cons_of_pos hc.1, Option.map_some, ← hx]
      revert hx
      cases (if u.hi ≤ lo ∨ hi ≤ u.lo then [u] else cutSpan lo hi u).find? (inSpan a) with
      | none => intro hx; cases hx
      | some x => intro _; rfl
    · rw [h.2 hc, Option.none_or, ih]
      by_cases hr : lo ≤ a ∧ a < hi
      · rw [if_pos hr, if_pos hr]
      · rw [if_neg hr, if_neg hr, List.find?_cons_of_neg (fun hu => hc ⟨hu, hr⟩)]

/-- A read of one byte in terms of the generation of the span it lies in. -/
theorem memByte_eq (s : State) (a : Nat) : memByte s a = match (s.undef.find? (inSpan a)).map (·.gen) with
    | some g => Config.freeByte g a
    | none => tabGet (fun _ => 0) s.mem a := by
  simp only [memByte]
  cases s.undef.find? (inSpan a) <;> rfl

/-! ### The operations -/

/-- A read after a store: the byte stored, and every other byte as before. -/
theorem memByte_storeBytes (s : State) (h : Inv s) (a : Nat) (bs : List Byte) (k : Nat) :
    memByte (storeBytes s a bs) k = if a ≤ k ∧ k < a + bs.length then bs.getD (k - a) 0 else memByte s k := by
  rw [memByte_eq, memByte_eq]
  simp only [storeBytes, find_cutSpans, tabGet_putBytes bs s.mem a k h.mem]
  by_cases hk : a ≤ k ∧ k < a + bs.length
  · rw [if_pos hk, if_pos hk]; simp only [if_pos hk]
  · rw [if_neg hk, if_neg hk]; simp only [if_neg hk]

theorem memByte_zeroSpan (s : State) (h : Inv s) (lo hi k : Nat) :
    memByte (zeroSpan s lo hi) k = if lo ≤ k ∧ k < hi then 0 else memByte s k := by
  rw [memByte_eq, memByte_eq]
  simp only [zeroSpan, find_cutSpans, tabGet_drop _ _ s.mem h.mem]
  by_cases hk : lo ≤ k ∧ k < hi
  · rw [if_pos hk, if_pos hk]; simp [hk]
  · rw [if_neg hk, if_neg hk]; simp [hk]

/-- Nothing defined is stored in a span whose contents are given up, and every other byte is as before. -/
theorem memByte_undefSpan (s : State) (h : Inv s) (lo hi k : Nat) :
    memByte (undefSpan s lo hi) k = if lo ≤ k ∧ k < hi then Config.freeByte s.freeCtr k else memByte s k := by
  have hz := memByte_zeroSpan s h lo hi k
  rw [memByte_eq] at hz ⊢
  have hu : (zeroSpan s lo hi).undef = cutSpans lo hi s.undef := rfl
  simp only [undefSpan]
  rw [hu] at hz ⊢
  have hf : (zeroSpan s lo hi).freeCtr = s.freeCtr := rfl
  by_cases hl : lo < hi
  · rw [if_pos hl, List.find?_append, hf]
    have hc := find_cutSpans lo hi k s.undef
    by_cases hk : lo ≤ k ∧ k < hi
    · rw [if_pos hk] at hc ⊢
      have : (cutSpans lo hi s.undef).find? (inSpan k) = none := by simpa using hc
      rw [this]; simp [inSpan, hk]
    · rw [if_neg hk] at hz ⊢
      rw [← hz]
      cases hx : (cutSpans lo hi s.undef).find? (inSpan k) with
      | some x => simp
      | none => simp [inSpan, hk]
  · rw [if_neg hl]
    have hk : ¬(lo ≤ k ∧ k < hi) := by omega
    rw [if_neg hk] at hz ⊢
    exact hz

theorem storeBytes_inv (s : State) (a : Nat) (bs : List Byte) (h : Inv s) : Inv (storeBytes s a bs) := { h with mem := putBytes_wf bs s.mem a h.mem }
theorem zeroSpan_inv (s : State) (lo hi : Nat) (h : Inv s) : Inv (zeroSpan s lo hi) := { h with mem := tabWf_drop _ (fun k => decide (lo ≤ k ∧ k < hi)) s.mem h.mem }
theorem undefSpan_inv (s : State) (lo hi : Nat) (h : Inv s) : Inv (undefSpan s lo hi) :=
  { h with mem := tabWf_drop _ (fun k => decide (lo ≤ k ∧ k < hi)) s.mem h.mem,
           poison := tabWf_drop _ (fun k => decide (lo ≤ k ∧ k < hi)) s.poison h.poison }
theorem setPsn_inv (s : State) (a : Nat) (b : Bool) (h : Inv s) : Inv (setPsn s a b) := { h with poison := tabWf_set _ s.poison _ b h.poison }

@[simp] theorem memByte_setPsn (s : State) (a : Nat) (b : Bool) (k : Nat) : memByte (setPsn s a b) k = memByte s k := rfl

/-- The marks that a write of `n` bytes at `a` sets and clears. -/
theorem writeHome_marks (s : State) (a n : Nat) (psn : Bool) (ks : List Nat) (k : Nat) :
    memByte (ks.foldl (fun s k => if psn then setPsn s k true else if a ≤ k ∧ k + psnUnit k ≤ a + n then setPsn s k false else s) s) k = memByte s k := by
  induction ks generalizing s with
  | nil => rfl
  | cons j ks ih =>
    simp only [List.foldl_cons]
    rw [ih]
    (repeat' split) <;> rfl

/-- Poison marks are set. -/
theorem setPsns_inv (ks : List Nat) : ∀ s : State, Inv s → Inv (ks.foldl (fun s k => setPsn s k true) s) := by
  induction ks with
  | nil => intro s h; exact h
  | cons j ks ih => intro s h; exact ih _ (setPsn_inv s j true h)

theorem memByte_setPsns (ks : List Nat) (k : Nat) : ∀ s : State, memByte (ks.foldl (fun s k => setPsn s k true) s) k = memByte s k := by
  induction ks with
  | nil => intro s; rfl
  | cons j ks ih => intro s; simp only [List.foldl_cons]; rw [ih]; rfl

theorem ueClear_inv (s : State) (a n : Nat) (h : Inv s) : Inv (ueClear s a n) := by
  simp only [ueClear]
  split
  · exact setPsns_inv _ _ { h with }
  · exact h

@[simp] theorem memByte_ueClear (s : State) (a n k : Nat) : memByte (ueClear s a n) k = memByte s k := by
  simp only [ueClear]
  split
  · exact memByte_setPsns _ _ _
  · rfl

/-- A write at its home: the bytes written, and every other byte as before. -/
theorem memByte_writeHome (s : State) (h : Inv s) (a : Nat) (bs : List Byte) (psn : Bool) (k : Nat) :
    memByte (writeHome s a bs psn) k = if a ≤ k ∧ k < a + bs.length then bs.getD (k - a) 0 else memByte s k := by
  simp only [writeHome]
  rw [writeHome_marks]
  rw [memByte_storeBytes (ueClear s a bs.length) (ueClear_inv s a _ h), memByte_ueClear]

theorem marks_inv (a n : Nat) (psn : Bool) (ks : List Nat) : ∀ s : State, Inv s →
    Inv (ks.foldl (fun s k => if psn then setPsn s k true else if a ≤ k ∧ k + psnUnit k ≤ a + n then setPsn s k false else s) s) := by
  induction ks with
  | nil => intro s h; exact h
  | cons j ks ih =>
    intro s h
    simp only [List.foldl_cons]
    apply ih
    (repeat' split) <;> first | exact setPsn_inv _ _ _ h | exact h

theorem writeHome_inv (s : State) (a : Nat) (bs : List Byte) (psn : Bool) (h : Inv s) : Inv (writeHome s a bs psn) := by
  simp only [writeHome]
  apply marks_inv
  exact storeBytes_inv _ _ _ (ueClear_inv s a _ h)

theorem memBytes_length (s : State) (n : Nat) : ∀ a, (memBytes s a n).length = n := by
  induction n with
  | zero => intro a; rfl
  | succ n ih => intro a; simp only [memBytes, List.length_cons, ih]

theorem memBytes_getD (s : State) (n : Nat) : ∀ a i, i < n → (memBytes s a n).getD i 0 = memByte s (a + i) := by
  induction n with
  | zero => intro a i h; omega
  | succ n ih =>
    intro a i h
    cases i with
    | zero => rfl
    | succ i => simp only [memBytes, List.getD_cons_succ]; rw [ih (a + 1) i (by omega)]; congr 1; omega

/-- Reading back what was written. -/
theorem memBytes_writeHome (s : State) (h : Inv s) (a : Nat) (bs : List Byte) (psn : Bool) : memBytes (writeHome s a bs psn) a bs.length = bs := by
  apply List.ext_getElem
  · exact memBytes_length _ _ _
  · intro i h1 h2
    have hg := memBytes_getD (writeHome s a bs psn) bs.length a i h2
    rw [memByte_writeHome s h, if_pos (by omega), Nat.add_sub_cancel_left] at hg
    simpa [List.getD_eq_getElem?_getD, h1, h2] using hg

end Sys2Proof.Machine
end

