-- ==== Sys2Proof/Laws/Inv.lean ====
section
/-! SUPPORT. The invariant of a given state by evaluation. -/

namespace Sys2Proof.Machine

/-- What holds of the default and of every entry holds of what any key reads as. -/
theorem tabGet_all {α : Type} (d : Nat → α) (P : α → Prop) (hd : ∀ k, P (d k)) (t : Tab α) (ht : ∀ e ∈ t, P e.2) (k : Nat) : P (tabGet d t k) := by
  induction t with
  | nil => exact hd k
  | cons e t ih =>
    obtain ⟨i, v⟩ := e
    simp only [tabGet]
    split
    · exact hd k
    · split
      · exact ht _ List.mem_cons_self
      · exact ih (fun e he => ht e (List.mem_cons_of_mem _ he))

/-- Memory, its poison marks, the registers and the ledger of a state, checked over what is listed. -/
def coreCheck (s : State) : Bool :=
  Memory.wf s.mem && tabWf (fun _ => false) s.poison && tabWf csrReset s.csr && tabWf (fun _ => (none : Option ClassEnt)) s.ledger.classes &&
  decide (s.ledger.queue.length ≤ 32)

/-- The tables of units and of plans. -/
def unitCheck (s : State) : Bool :=
  tabWf (fun _ => Tile.init) s.tiles && tabWf (fun _ => Disp.init) s.disps && tabWf (fun _ => Pantry.empty) s.pans && tabWf (fun _ => Link.init) s.links &&
  tabWf (fun _ => (none : Option Plan)) s.plans && tabWf (fun _ => (none : Option VerInfo)) s.verInfo

/-- The tables of waiters and of times. -/
def waitCheck (s : State) : Bool :=
  tabWf (fun _ => ([] : List SemWait)) s.semQ && tabWf (fun _ => ([] : List TallyWait)) s.tallyQ && tabWf (fun _ => ([] : List Nat)) s.barRel &&
  tabWf (fun _ => FabBar.init) s.fabArr && tabWf (fun _ => 0) s.slowAt && tabWf (fun _ => 0) s.lowPolls && tabWf (fun _ => 0) s.notifyLast

/-- The tables of the channels, and those inside tiles and pantries. -/
def partCheck (s : State) : Bool :=
  tabWf (fun _ => ([] : List (Nat × Nat))) s.ceTrack && tabWf (fun _ => (0, 0)) s.patrol &&
  s.tiles.all (fun e => tabWf (fun _ => (none : Option Slot)) e.2.fgr.slots && tabWf (fun _ => (none : Option Stream)) e.2.prt.ctxs) &&
  s.pans.all (fun e => tabWf (fun _ => ([] : List (Nat × Line))) e.2.sets && tabWf (fun _ => ([] : List Line)) e.2.evb)

/-- The invariant as a check over the entries that are listed. -/
def invCheck (s : State) : Bool := coreCheck s && unitCheck s && (waitCheck s && partCheck s)

theorem inv_of_check (s : State) (h : invCheck s = true) : Inv s := by
  simp only [invCheck, coreCheck, unitCheck, waitCheck, partCheck, Bool.and_eq_true, decide_eq_true_eq, List.all_eq_true, and_assoc] at h
  obtain ⟨mem, poison, csr, classes, queue, h⟩ := h
  obtain ⟨tiles, disps, pans, links, plans, verInfo, h⟩ := h
  obtain ⟨semQ, tallyQ, barRel, fabArr, slowAt, lowPolls, notifyLast, h⟩ := h
  obtain ⟨ceTrack, patrol, inTile, inPan⟩ := h
  constructor
  case slots => exact tabGet_all (fun _ => Tile.init) (fun x => tabWf _ x.fgr.slots = true) (fun _ => rfl) s.tiles (fun e he => (inTile e he).1)
  case ctxs => exact tabGet_all (fun _ => Tile.init) (fun x => tabWf _ x.prt.ctxs = true) (fun _ => rfl) s.tiles (fun e he => (inTile e he).2)
  case sets => exact tabGet_all (fun _ => Pantry.empty) (fun x => tabWf _ x.sets = true) (fun _ => rfl) s.pans (fun e he => (inPan e he).1)
  case evb => exact tabGet_all (fun _ => Pantry.empty) (fun x => tabWf _ x.evb = true) (fun _ => rfl) s.pans (fun e he => (inPan e he).2)
  all_goals assumption

end Sys2Proof.Machine
end

