-- ==== Sys2Proof/Laws/Regs.lean ====
section
/-! SUPPORT. Lemmas about the register map and what its registers read as. -/

namespace Sys2Proof.Machine

/-- A register of the steward block is the one its offset names. -/
theorem regAt_steward (o : Nat) (h : o < 0x100000) : regAt (stwCsr o) = stwReg o := by
  have e : stwCsr o - 0x180000000000 = 0x3500000 + o := by simp only [stwCsr]; omega
  have m : (0x3500000 + o) % 0x100000 = o := by omega
  have p : ¬(stwCsr o < 0x180000000000 ∨ 0x180003700000 ≤ stwCsr o) := by simp only [stwCsr]; omega
  rw [regAt, if_neg p]
  simp only [e, m]
  repeat rw [if_neg (by omega)]
  rw [if_pos (by omega)]

/-- Every TBL_VER register resets to 0: its slot is free. -/
theorem csrReset_tblVer (v : Nat) (h : v < 8192) : csrReset (tblVer v) = 0 := by
  have a : inArray (0x60000 + 8 * v) 0x40040 8 5 = false := by
    rw [inArray, decide_eq_false_iff_not]; omega
  have b : inArray (0x60000 + 8 * v) 0x60000 8 8192 = true := by
    rw [inArray, decide_eq_true_eq]; omega
  have e : stwReg (0x60000 + 8 * v) = regS [rw_ 0 2 0 (.range 0 2), rw_ 2 24, ro 26 32] := by
    unfold stwReg
    split
    all_goals first | omega | simp [a, b]
  rw [csrReset, tblVer, regAt_steward _ (by omega), e]
  rfl

/-- No version slot is held for a table of which no listed register holds the number in an occupied slot's form. -/
theorem verHeld_none_of_listed (s : State) (id : Nat) (h : s.csr.all (fun e => decide (getF e.2 0 2 = 0 ∨ getF e.2 2 24 ≠ id)) = true) :
    verHeld s id = none := by
  have key : ∀ v, v < 8192 → getF (csrGet s (tblVer v)) 0 2 = 0 ∨ getF (csrGet s (tblVer v)) 2 24 ≠ id := by
    intro v hv
    unfold csrGet
    generalize s.csr = t at h
    induction t with
    | nil => left; simp only [tabGet, csrReset_tblVer v hv]; rfl
    | cons e t ih =>
      obtain ⟨i, w⟩ := e
      simp only [List.all_cons, Bool.and_eq_true, decide_eq_true_eq] at h
      simp only [tabGet]
      split
      · left; rw [csrReset_tblVer v hv]; rfl
      · split
        · exact h.1
        · exact ih h.2
  simp only [verHeld, List.find?_eq_none, List.mem_range]
  intro v hv
  rcases key v hv with k | k <;> simp [csrF, k]

end Sys2Proof.Machine
end

