-- ==== Sys2Proof/WellFormed.lean ====
section
/-! DEFINITION. Which terms of `Instr` are commands at all: operands that index the module's parts lie within them. A command that the spec
answers with a refusal, a NOTE or a failure is a command, so its operands are not judged here. -/

namespace Sys2Proof

open Machine

/-- Ports of the module (R418). -/
def Instr.portOk (p : BitVec 5) : Bool := decide (p.toNat < 24)
/-- Memory channels (R393). -/
def Instr.chanOk (c : BitVec 9) : Bool := decide (c.toNat < 384)
/-- Temperature sensors of the dies (Table 19-4, groups 0 and 1). -/
def Instr.sensorOk (k : BitVec 7) : Bool := decide (k.toNat < 96)
/-- A packet arrives on a port, and carries at most the 2,048 bytes that LEN can name (Table 16-3). -/
def Instr.pktOk (h : Hdr) (data : List Byte) : Bool := Instr.portOk h.port && decide (data.length ≤ 2048)
/-- A span inside the 64 GiB aperture of BAR2 (R475), of at most the 4,096 bytes of a PCIe request. -/
def Instr.apertureOk (off : BitVec 36) (n : Nat) : Bool := decide (1 ≤ n ∧ n ≤ 4096 ∧ off.toNat + n ≤ 2 ^ 36)

/-- The term is a command. -/
def Instr.wf : Instr → Bool
  | .mbxPayloadWrite off bytes => decide (1 ≤ bytes.length ∧ off.toNat + bytes.length ≤ 16384)
  | .bar2Read off len => Instr.apertureOk off len
  | .bar2Write off bytes _ => Instr.apertureOk off bytes.length
  | .registerWrite _ addr size _ => inCsrSpace addr.toNat && decide (1 ≤ size)
  | .counterClear _ addr => (cntClr addr.toNat).isSome
  | .mr4Poll reports _ => reports.all (fun r => Instr.chanOk r.1)
  | .patrolRead ch off _ => Instr.chanOk ch && decide (off.toNat % 64 = 0)
  | .pageRetirement ch => Instr.chanOk ch
  | .memTgStart _ ch _ => Instr.chanOk ch
  | .memTgDone ch _ _ _ _ => Instr.chanOk ch
  | .bootStageDone _ failed => failed.all Instr.chanOk
  | .flit p _ => Instr.portOk p
  | .portRetrain p => Instr.portOk p
  | .portRetrainDone p _ _ => Instr.portOk p
  | .linkTrainingStep p _ _ _ nbrPort _ => Instr.portOk p && Instr.portOk nbrPort
  | .pktRead h => Instr.portOk h.port
  | .pktReadResp h data => Instr.pktOk h data
  | .pktWrite h data => Instr.pktOk h data
  | .pktAtomic h _ _ _ _ _ _ => Instr.portOk h.port
  | .pktAtomicResp h _ => Instr.portOk h.port
  | .pktAck h => Instr.portOk h.port
  | .pktError h _ => Instr.portOk h.port
  | .pktSignal h _ _ _ => Instr.portOk h.port
  | .pktTally h _ _ _ => Instr.portOk h.port
  | .pktBarArrive h _ _ _ => Instr.portOk h.port
  | .pktPartial h _ _ => Instr.portOk h.port
  | .pktColl h _ _ _ _ _ _ _ data => Instr.pktOk h data
  | .pktMirror h data => Instr.pktOk h data
  | .pktProbe h => Instr.portOk h.port
  | .pktProbeAck h => Instr.portOk h.port
  | .pktMgmt h data => Instr.pktOk h data
  | .pktFence h _ => Instr.portOk h.port
  | .thermalSample k _ _ => Instr.sensorOk k
  | .thermtrip k => Instr.sensorOk k
  | .oobMailbox _ _ payload => decide (payload.length ≤ 1024)
  | .identify _ _ | .getStatus _ _ | .getTelemetry _ _ | .loadPlan _ _ | .unloadPlan _ _ | .run _ _ | .stop _ _ | .queryRun _ _ | .allocRegion _ _ |
    .freeRegion _ _ | .tablePublish _ _ | .setCap _ _ | .setPolicy _ _ | .setPersistent _ _ | .readLog _ _ | .clearFault _ _ | .injectFault _ _ |
    .traceCtrl _ _ | .memTest _ _ | .memRemap _ _ | .linkTrain _ _ | .setFabricId _ _ | .twinPair _ _ | .twinTakeover _ _ | .fwUpdate _ _ |
    .attest _ _ | .enterRest _ _ | .deviceReset _ _ | .mbxAck | .mailboxComplete | .hstLoadProdWrite _ | .loadStalled _ | .hstAbort _ |
    .abortComplete | .evqEnable _ | .evqHeadWrite _ | .evqCoalesceTimer _ | .evqWriteError | .hstDbSignal _ _ | .hstDbTally _ _ | .hstDbWq _ _ |
    .alu _ _ _ _ _ | .addi _ _ _ _ | .andi _ _ _ _ | .ori _ _ _ _ | .xori _ _ _ _ | .shi _ _ _ _ | .movw _ _ _ _ | .cmp _ _ _ _ _ |
    .pred _ _ _ _ _ | .csel _ _ _ _ _ | .f32 _ _ _ _ _ | .f64 _ _ _ _ _ | .cvt _ _ _ _ _ | .ld _ _ _ _ _ | .st _ _ _ _ _ | .csrr _ _ _ _ |
    .csrw _ _ _ _ | .fence _ _ | .br _ _ _ _ _ | .call _ _ _ _ _ | .jr _ _ _ _ _ | .reti _ _ | .yield_ _ _ | .end_ _ _ | .signal _ _ _ _ |
    .wait _ _ _ _ | .take _ _ _ _ | .tallyAdd _ _ _ _ | .tallyWait _ _ _ _ | .barrierArrive _ _ _ _ | .signalAt _ _ _ _ | .tallyAddAt _ _ _ _ |
    .issue _ _ _ _ _ _ | .interruptTake _ | .taskStart _ | .taskResume _ | .taskComplete _ _ | .steal _ | .preemptRequest _ | .preemptGrace _ _ |
    .suspendComplete _ | .wqTailWrite _ _ _ | .gatherRows _ | .walk _ | .sample _ | .scatter _ | .atomic _ | .expand _ | .intersectCount _ |
    .prefetch _ | .fetchResponse _ _ _ | .foragerComplete _ _ | .combCreditGrant _ | .mergeOpen _ | .mergeClose _ | .partialRow _ | .matmul _ |
    .matmulOutputBlock _ | .chain _ | .softmax _ | .vectorRingBlock _ | .vectorComplete _ | .stream _ _ | .waybillLoop _ _ | .addAddr _ _ |
    .loadIndex _ _ | .emit _ _ | .waybillSignal _ _ | .waybillWait _ _ | .waybillPred _ _ | .waybillEnd _ _ | .chunkPerformed _ _ _ _ _ |
    .streamComplete _ _ | .hostXferFail _ _ _ | .stallLimit _ _ _ | .syncStall _ _ _ | .dieBarrierArrival _ _ | .barrierRelease _ _ |
    .notifyWriteError _ _ | .runPhase _ | .planLoop _ | .seal _ | .planEnd _ | .phaseDrained _ | .phaseBarrierOpen _ | .clusterStartStagger _ _ |
    .groupStagger _ _ | .policyTick _ | .replicaInsert | .hubClaim _ _ _ | .moveNotice _ | .movesDone _ | .tblRdrLookup | .tblRdrInsert |
    .tblRdrRemove | .panInvalidate _ _ _ | .panInvalidateDone _ | .panZero _ _ | .panCtrlWrite _ _ _ | .panPreload _ _ _ |
    .mergeEntryTimeout _ _ _ | .collectiveDone _ | .noticeSlow _ _ _ | .noticeDown _ _ | .noticeHalt _ | .noticeAbort _ _ | .noticeTakeover _ _ |
    .noticeTakeoverEnd _ _ | .noticeBeat _ _ _ | .reqTimeout _ _ | .probeTimeout _ _ | .slowRenew _ | .slowExpire _ _ | .twinBeatTimer _ |
    .twinBeatMiss _ | .twinProbeResult _ | .fenceTimeout _ | .faultMessage _ | .graceExpiry _ _ _ | .quietPeriod _ _ _ | .ldgAck _ _ |
    .ldgInjArm _ _ | .heartbeatToggle _ | .govTick _ _ | .overcurrentWarning | .fastLimitRelease _ | .brownoutEnter | .brownoutExit _ |
    .powerFail _ | .holdupEnd _ | .vcoreDroop | .vcoreSupervisor | .auxLoss | .auxPowerOn | .pwrEnAssert | .pwrEnRelease | .moduleResetAssert |
    .moduleResetRelease | .perstAssert | .perstRelease | .bootReady | .deviceResetDone | .bootConfirmTimeout _ _ | .watchdogExpiry _ _ |
    .inkWdogKick _ _ | .d3hotEntry | .restWake | .restExitDone | .alertResponse | .mctpControl _ _ | .pldmUpdate _ _ | .jtagAuth _ | .jtagDeauth |
    .coreAccessComplete _ _ _ | .preloadDone _ | .prefetchFillArrival _ _ _ | .moveCopyDone | .flashWriteDone _ => true

end Sys2Proof
end

