-- ==== Sys2Proof/Tests/Slice0.lean ====
section
/-! SUPPORT. Tests: for every statement of `Certificates/Slice0/Obligations.lean` that has hypotheses, states and operands that meet them, clause by
clause (a definition `w<n>…` belongs to the n-th statement); the worked examples of the spec; single steps; and terms that `Instr.wf` turns down.
The states are small: the module as it stands after boot, with what the clause asks for put in place. -/

namespace Sys2Proof.Tests
open Sys2Proof Sys2Proof.Machine

-- One proof at a time: the proofs of this file evaluate in the kernel, and in parallel they need more memory than a check allows.
set_option Elab.async false

/-- A computation that succeeds, with a value that passes `p`. -/
def okAnd {ε α : Type} (x : Except ε α) (p : α → Bool) : Bool := match x with
  | .ok a => p a
  | .error _ => false
/-- A computation that fails, with an error that passes `p`. -/
def errAnd {ε α : Type} (x : Except ε α) (p : ε → Bool) : Bool := match x with
  | .error a => p a
  | .ok _ => false
def someAnd {α : Type} (x : Option α) (p : α → Bool) : Bool := match x with
  | some a => p a
  | none => false
theorem ok_of {ε α : Type} [DecidableEq α] (x : Except ε α) (y : α) (h : okAnd x (fun a => decide (a = y)) = true) : x = .ok y := by
  cases x with
  | ok a => exact congrArg _ (of_decide_eq_true h)
  | error _ => cases h
theorem error_of {ε α : Type} [DecidableEq ε] (x : Except ε α) (y : ε) (h : errAnd x (fun a => decide (a = y)) = true) : x = .error y := by
  cases x with
  | ok _ => cases h
  | error a => exact congrArg _ (of_decide_eq_true h)
theorem run_ok_of {ε α β : Type} [DecidableEq α] (x : Except ε α × β) (y : α) (h : okAnd x.1 (fun a => decide (a = y)) = true) : x = (.ok y, x.2) :=
  Prod.ext (ok_of _ _ h) rfl
theorem run_ok_at {ε α β : Type} [DecidableEq α] [DecidableEq β] (x : Except ε α × β) (y : α) (t : β)
    (h : okAnd x.1 (fun a => decide (a = y)) = true) (ht : x.2 = t) : x = (.ok y, t) :=
  Prod.ext (ok_of _ _ h) ht
theorem run_error_at {ε α β : Type} [DecidableEq ε] [DecidableEq β] (x : Except ε α × β) (y : ε) (t : β)
    (h : errAnd x.1 (fun a => decide (a = y)) = true) (ht : x.2 = t) : x = (.error y, t) :=
  Prod.ext (error_of _ _ h) ht
theorem run_error_of {ε α β : Type} [DecidableEq ε] (x : Except ε α × β) (y : ε) (h : errAnd x.1 (fun a => decide (a = y)) = true) :
    x = (.error y, x.2) :=
  Prod.ext (error_of _ _ h) rfl
theorem some_ok_of {ε α : Type} [DecidableEq α] (x : Option (Except ε α)) (y : α)
    (h : someAnd x (fun e => okAnd e (fun a => decide (a = y))) = true) : x = some (.ok y) := by
  cases x with
  | none => cases h
  | some e => exact congrArg _ (ok_of _ _ h)
theorem some_error_of {ε α : Type} [DecidableEq ε] (x : Option (Except ε α)) (y : ε)
    (h : someAnd x (fun e => errAnd e (fun a => decide (a = y))) = true) : x = some (.error y) := by
  cases x with
  | none => cases h
  | some e => exact congrArg _ (error_of _ _ h)
theorem not_ok_of {ε α : Type} (x : Option (Except ε α)) (h : someAnd x (fun e => e.isOk) = false) : ∀ a, x ≠ some (.ok a) := by
  intro a e
  rw [e] at h
  cases h
theorem ok_self {ε β : Type} (x : Except ε (List β)) (h : x.isOk = true) : x = .ok (match x with | .ok a => a | _ => []) := by
  cases x with
  | ok _ => rfl
  | error _ => cases h
/-- The home of an access is not a peer. -/
def notPeer (g : Tgt) : Bool := match g with
  | .peer _ _ => false
  | _ => true
theorem no_fabric (s : State) (h : (List.range 8).all (fun j => ((planOf s j).map (fun p => p.fabric)).getD false == false) = true) :
    ∀ (j : Nat) (p : Plan), j < 8 → planOf s j = some p → p.fabric = false := by
  intro j p hj hp
  have := List.all_eq_true.mp h j (List.mem_range.mpr hj)
  rw [hp] at this
  exact eq_of_beq this
theorem lt_replicate {α : Type} (n : Nat) (x : α) : n < (List.replicate (n + 1) x).length := by
  simp
theorem none_listed {α : Type} {P : α → Prop} (l : List α) (h : l = []) : ∀ x, x ∈ l → P x := by
  intro x hx
  rw [h] at hx
  cases hx

/-- The module as it stands after boot. The innkeeper's helper data is a number here, so that two such states can be compared by evaluation. -/
def up : State := { State.reset with mgmt := { State.reset.mgmt with cache := ⟨0, true⟩ }, boot := 0, undef := [], pins := ⟨true, true, false, false, true, true, false, true, 0, false, false, false⟩ }
def demoTask : Task := ⟨⟨0, false, 7, 0, 0, 0, 0⟩, 5, 0, 0, 0, 0, 0, 0⟩
/-- registers given by address, in canonical form -/
def withCsrs (s : State) (l : List (Nat × Nat)) : State := l.foldl (fun s e => csrPut s e.1 (BitVec.ofNat 64 e.2)) s
def withTile (k : Nat) (x : Tile) : State := { up with tiles := [(k, x)] }
def withCore (f : Core → Core) : State := withTile 3 { Tile.init with core := f { Core.init with task := some demoTask } }
/-- region `i` of `n` 64 KiB units at `base`, with attribute bits -/
def withRegion (s : State) (i base n attr : Nat) : State := withCsrs s [(rgnAddr i, base), (rgnAttr i, n + 2 ^ 27 + attr)]
/-- tile 3's registers s1, s2 -/
def runAt (a b : Nat) : State := withCore (fun c => { c with regs := (c.regs.set 1 (BitVec.ofNat 64 a)).set 2 (BitVec.ofNat 64 b), pc := 0x100 })
/-- a run in progress -/
def demoRun : Run := { seed := 0, state := 1, ordinal := 0, begun := false, pc := 0, loops := [], inPhase := false, drained := false, stopReq := false, lists := [], held := [], barGen := 0, cacheMask := 0, invalMask := 0, preloads := [], released := false, pools := [], faultSource := 0, faultCause := 0, faultAddr := 0, sealed := [], share := 0 }
def demoPlan : Plan := { id := 9, nondet := false, fabric := false, seed := 0, clusterMask := 1, phases := [], preloads := [], pools := [], queues := [], lists := [], code := [], regions := [], attrs := [], delta := [], doorbells := [], sync := [], coll := [], tables := [], twinContinue := false, split := 0, run := some demoRun }
def acc0 (i : Nat) (st : Bool) : CoreAcc := { slot := i, store := st, rd := 5, dev := none, addr := 0x100001800000, loc := 0x4000100001800000, size := 8, signed := false, value := 0x1122334455667788, pc := 0x100, tag := 5 }
def spad : Nat := 0x4000100001800000
def shaped (s : State) : State := { withCsrs s [(fabCsr 0x08, 0x80000000), (portAddr 0, 2 + 1 * 2 ^ 4 + 0 * 2 ^ 15)] with shape := [0, 1] }
def sem1 (v : Nat) (q : List SemWait) (a : Nat) : State := { withCsrs (runAt a (3 * 2 ^ 11)) [(semAddr 3 9, v)] with semQ := tabSet (fun _ => []) [] (3 * 256 + 9) q }
def withAccs (s : State) (l : List CoreAcc) : State := setCore s 3 { coreOf s 3 with accs := l }
def fplan : State → State := fun s => { s with plans := [(2, some { demoPlan with fabric := true })] }
def dplan : State → State := fun s => { s with plans := [(2, some demoPlan)] }
/-- cluster `c`'s queue `n` in the plan of slot 2: 4 records in tile 0's scratchpad, level `l`, HEAD and TAIL -/
def withQueue (s : State) (c n l head tail : Nat) : State :=
  withCsrs s [(clusterCsr c (0x2000 + 0x20 * n), 0x4000100000000000), (clusterCsr c (0x2008 + 0x20 * n), 2 + l * 32 + 256 + 2 * 512), (clusterCsr c (0x2010 + 0x20 * n), head + tail * 2 ^ 32)]
def ctask (k : Nat) (t : Task) (s : State) : State := setCore s k { coreOf s k with task := some t }
def tq (s : State) : State := withQueue (dplan s) 0 7 2 1 2
def recs (s : State) : State := storeBytes s 0x100000000040 (leBytes 8 0x108 ++ leBytes 8 77 ++ leBytes 8 0x8000000000000001)
def qd (d : Nat) : QDesc := ⟨BitVec.ofNat 512 d, 0x40, 5, []⟩
def aggD : Nat := 0xC0 + 1 * 2 ^ 32 + 2 ^ 48 + (spad + 0x100) * 2 ^ 128
def mOpen (c : Nat) : Nat := 1 + c * 2 ^ 32 + spad * 2 ^ 64 + 100 * 2 ^ 192 + 2 * 2 ^ 232
def S : Nat := 0x100001800000
def K1 (o : Nat) : Nat := 2 ^ 62 + S + o
def tens (o m : Nat) : Nat := K1 o + 0 * 2 ^ 64 + 2 * 2 ^ 68 + 32 * 2 ^ 192 + m * 2 ^ 224 + 128 * 2 ^ 352
def wset : Nat := K1 0x2000 + 0 * 2 ^ 128 + 1 * 2 ^ 136 + 1 * 2 ^ 148
def mm : Nat := 1 + K1 0 * 2 ^ 64 + K1 64 * 2 ^ 128 + K1 128 * 2 ^ 256 + 1 * 2 ^ 372 + 1 * 2 ^ 396
def f1b : List Byte := leBytes 4 0x3F800000
/-- The cells of spans of bytes, listed in rising order of address, over a memory of zeros. -/
def cells (l : List (Nat × List Byte)) : List (Nat × Byte) :=
  l.flatMap (fun e => (((List.range e.2.length).zip e.2).filter (fun x => x.2 != 0)).map (fun x => (e.1 + x.1, x.2)))
def mem1 (m : Nat) (s : State) : State :=
  { s with mem := cells [(S, leBytes 64 (tens 0x1000 m) ++ leBytes 64 wset ++ leBytes 64 (tens 0x4000 m)), (S + 0x1000, f1b ++ leBytes 4 0x40000000), (S + 0x2000, f1b ++ f1b ++ leBytes 4 0x40400000)] }
def mq (d m : Nat) : State := mem1 m (setMxe up 3 { Mxe.init with queue := [qd d, qd 7] })
def mops (m : Nat) : MatOps := ⟨BitVec.ofNat 512 (tens 0x1000 m), BitVec.ofNat 512 wset, none, BitVec.ofNat 512 (tens 0x4000 m)⟩
def mb (d m b : Nat) : State := mem1 m (setMxe up 3 { Mxe.init with queue := [qd 7], busy := some (qd d), block := b, held := [(mops m).a, (mops m).w, (mops m).out] })
def vobs (l0 l4 l7 : Nat) : List Byte := leBytes 8 l0 ++ leBytes 24 0 ++ leBytes 8 l4 ++ leBytes 16 0 ++ leBytes 8 l7
def vmem (m l0 l4 l7 : Nat) (s : State) : State :=
  { s with mem := cells [(S, vobs l0 l4 l7 ++ leBytes 64 (tens 0x1000 m) ++ leBytes 64 (tens 0x4000 m)), (S + 0x1000, f1b ++ leBytes 4 0x40000000)] }
def chain : Nat := 1 + K1 0 * 2 ^ 192
def vst (f : Vec → Vec) (m : Nat) : State := vmem m (K1 64) (K1 128) 0 (setVec up 3 (f Vec.init))
def vq (d : Nat) (m : Nat) : State := vst (fun v => { v with queue := [qd d, qd 7] }) m
def vdec (d : Nat) (s : State) : Option (VecOps × State) := match drun (dvector 3 (BitVec.ofNat 512 d) []) (setVec s 3 { vecOf s 3 with queue := [qd 7] }) with | (.ok o, t) => some (o, t) | _ => none
def vo (d : Nat) (s : State) : VecOps := ((vdec d s).map (·.1)).getD { d := 0, stages := [], srcs := [], out := 0, outLoc := 0, minLoc := 0, moutLoc := 0, cntLoc := 0, ext := [], strict := false, caps := [], bad := [] }
def vs1 (d : Nat) (s : State) : State := ((vdec d s).map (·.2)).getD up
def pdq (extra : Nat) (c : Nat := 4) : QDesc := qd (1 + c * 2 ^ 28 + K1 0 * 2 ^ 64 + K1 0x1000 * 2 ^ 128 + K1 0x4000 * 2 ^ 192 + extra)
def strm (q : QDesc) (ws : List Nat) : Stream := { q := q, way := ws.map (BitVec.ofNat 64), wpos := 0, loops := [], x := 0, a := [BitVec.ofNat 64 (K1 0x1000), BitVec.ofNat 64 (K1 0x4000), 0, 0], emits := 0, chunks := [], sigs := [], begin_ := 0, waitSem := none, indexing := false, ended := false, failAt := none, lastProgress := 0 }
def prt4 (x : Stream) (s : State := up) : State := setPrt s 3 { Prt.init with ctxs := [(4, some x)] }
def wI (ws : List Nat) (e : Nat := 0) (f : Stream → Stream := id) : Stream := f (strm (pdq e) ws)
def wEnd : Nat := 8
def wLoop (n c : Nat) : Nat := 1 + n * 2 ^ 8 + c * 2 ^ 32
def wAdd (r i : Nat) : Nat := 2 + r * 2 ^ 4 + i * 2 ^ 24
def wLd (r w : Nat) : Nat := 3 + r * 2 ^ 4 + w * 2 ^ 6
def T (ws : List Nat) (e : Nat := 0) (f : Stream → Stream := id) (s : State := up) : State := prt4 (wI ws e f) s
def wWait : Nat := 6 + 9 * 2 ^ 4
def wEmit (len fl : Nat) : Nat := 4 + 0 * 2 ^ 4 + 1 * 2 ^ 6 + fl * 2 ^ 8 + (len - 1) * 2 ^ 12
def ws2 : List Nat := [wEmit 64 0, wEnd]
def ck (len n : Nat) : Chunk := { n := n, src := S + 0x1000, srcHost := false, dst := S + 0x4000, dstHost := false, len := len, deadline := none, next := 0, out := 0, data := [] }
def way (ws : List Nat) (s : State) : State := { s with mem := cells [(S, ws.flatMap (leBytes 8))] }
def sq (e : Nat) : State := way ws2 (setPrt up 3 { Prt.init with queue := [pdq e] })
def W (l : List Nat) : List Word := l.map (BitVec.ofNat 64)
def afterE : Stream := (emitPost { wI ws2 with chunks := [ck 64 0] } (BitVec.ofNat 64 (wEmit 64 0))).getD (wI ws2)
def wSig : Nat := 5 + 9 * 2 ^ 4
def one (f : Stream → Stream) (d : Chunk) : Stream := wI ws2 0 (fun x => f { x with emits := 1, wpos := 1, chunks := [d] })
def fin (e : Nat) : Stream := wI ws2 e (fun x => { x with emits := 1, wpos := 1, ended := true })
def hc : Chunk := { ck 8 2 with srcHost := true, src := 0x1234 }
def planIn (p : Plan) (r : Run) (s : State := up) : State := { s with plans := [(2, some { p with run := some r })] }
def prog (es : List Nat) : Plan := { demoPlan with phases := es.map (BitVec.ofNat 256) }
def pp (es : List Nat) (r : Run := demoRun) : State := planIn (prog es) r
def pr (es : List Nat) (r : Run := demoRun) : Plan := { prog es with run := some r }
def e0 (n : Nat) : BitVec 256 := BitVec.ofNat 256 n
def lp (u n sp : Nat) : Nat := 2 + u * 2 ^ 8 + sp * 2 ^ 16 + n * 2 ^ 32
def dl (cap : Nat) : BitVec 128 := BitVec.ofNat 128 (3 + 0 * 2 ^ 12 + cap * 2 ^ 64)
def sealed (cap n : Nat) : State := storeBytes (withRegion (planIn { prog [3 + 3 * 2 ^ 8, 4] with delta := [dl cap], regions := [5] } demoRun) 5 0x10000 1 (2 ^ 44)) 0x10000 (leBytes 8 n ++ leBytes 8 9)
def ph (f : Run → Run := id) : Run := f { demoRun with inPhase := true, released := true, begun := true }
def mq1 : Req := { tag := 1, dst := 9, kind := kMIRROR, addr := 0, len := 64, data := [], poison := false, sentAt := 0, cont := .mirror [3 * 32] none, discard := false, held := false }
def dr (f : Run → Run := id) : Run := f { ph with drained := true }
def lpp (n : Nat) : List Nat := [lp 0 n 1, 1, 4]
def dl2 (i : Nat) : Run := dr (fun r => { r with pc := 1, loops := [(0, i)] })

/-- A packet of this kind reaches the module and is answered: the conditions of `Arrives`, as one check. -/
theorem arrives_of {s : State} {h : Hdr} {kind : Nat}
    (e : (decide (h.port.toNat < 24 ∧ s.rest = 0 ∧ h.dst.toNat = ownId s ∧ twinState s ≠ 6 ∧ csrF s (peerAddr h.src.toNat) 0 2 < 2) &&
      portUp s h.port.toNat && !deaf s && h.wellFormed && !wrongPort h.port.toNat kind && s.shape.contains h.src.toNat && !halted s) = true) :
    Arrives s h kind := by
  simp only [Bool.and_eq_true, decide_eq_true_eq, Bool.not_eq_true'] at e
  obtain ⟨⟨⟨⟨⟨⟨⟨a, b, c, d, f⟩, g⟩, i⟩, j⟩, k⟩, l⟩, m⟩ := e
  exact ⟨a, g, i, j, k, l, c, b, m, d, f⟩

/-- The mailbox is free: the conditions of `MbxFree`, as one check. -/
theorem free_of {s : State} (h : hostUp s = true ∧ s.boot = 0 ∧ s.rest = 0 ∧ s.resetting = 0 ∧ s.aborting = false ∧ csrF s (hstCsr 0x1010) 0 2 ≠ 1 ∧
    s.cmd = none ∧ s.oobCmd = none) : MbxFree s := by
  obtain ⟨a, b, c, d, e, f, g, i⟩ := h
  exact ⟨a, b, c, d, e, f, g, i⟩
/-- A command is in progress: the conditions of `MbxInProgress`, as one check. -/
theorem running_of {s : State} {c : Cmd} {op : Nat} (h : s.cmd = some c ∧ c.started = true ∧ c.oob = false ∧ c.opcode = op ∧ s.oobCmd = none ∧
    s.aborting = false ∧ s.resetting = 0 ∧ halted s = false) : MbxInProgress s c op := by
  obtain ⟨a, b, d, e, f, g, i, j⟩ := h
  exact ⟨a, b, d, e, f, g, i, j⟩

namespace Computing
/-- task on tile 3 with s1 = 5, s2 = -5 -/
def run1 : State := withCore (fun c => { c with regs := (c.regs.set 1 5).set 2 0xFFFFFFFFFFFFFFFB, pc := 0x100 })
def jr1 : State := { withCore (fun c => { c with regs := (c.regs.set 1 0x1FFFC).set 2 0x20000, pc := 0x100 }) with csr := [(tileCsr 3 0x18, 0x1FFFC)] }

/-- States and operands that meet the hypotheses of `ImmediatesAndSelectWriteRd`. -/
theorem witness_ImmediatesAndSelectWriteRd :
    (Machine.Inv run1 ∧ (coreGo run1 (3#8).toNat = true ∧ regBusy (coreOf run1 (3#8).toNat) [31#5, 1#5, 2#5] = false)) :=
  ⟨inv_of_check _ (by decide +kernel), by decide +kernel⟩

/-- States and operands that meet the hypotheses of `AluFollowsItsTable`. -/
theorem witness_AluFollowsItsTable :
    (Machine.Inv run1 ∧ (coreGo run1 (3#8).toNat = true ∧ regBusy (coreOf run1 (3#8).toNat) [31#5, 1#5, 2#5] = false)) :=
  ⟨inv_of_check _ (by decide +kernel), by decide +kernel⟩

/-- States and operands that meet the hypotheses of `FloatsRoundOnce`. -/
theorem witness_FloatsRoundOnce :
    (Machine.Inv run1 ∧ (coreGo run1 (3#8).toNat = true ∧ regBusy (coreOf run1 (3#8).toNat) [3#5, 2#5, 1#5] = false ∧
      (decodeFloat fp32 (getF (getR (coreOf run1 (3#8).toNat) 2#5) 0 32) = Num.nan ∨ decodeFloat fp32 (getF (getR (coreOf run1 (3#8).toNat) 1#5) 0 32) = Num.nan) ∧
      (decodeFloat fp64 (BitVec.toNat (getR (coreOf run1 (3#8).toNat) 2#5)) = Num.nan ∨ decodeFloat fp64 (BitVec.toNat (getR (coreOf run1 (3#8).toNat) 1#5)) = Num.nan) ∧
      decodeFloat fp32 (getF (getR (coreOf run1 (3#8).toNat) 2#5) 0 32) = Num.nan ∧
      decodeFloat fp64 (BitVec.toNat (getR (coreOf run1 (3#8).toNat) 2#5)) = Num.nan)) :=
  ⟨inv_of_check _ (by decide +kernel), by decide +kernel⟩

/-- States and operands that meet the hypotheses of `ComparesAndPredicateLogicSetOnePredicate`. -/
theorem witness_ComparesAndPredicateLogicSetOnePredicate :
    (Machine.Inv run1 ∧ (coreGo run1 (3#8).toNat = true ∧ regBusy (coreOf run1 (3#8).toNat) [1#5, 2#5] = false ∧
      (decodeFloat fp32 (getF (getR (coreOf run1 (3#8).toNat) 1#5) 0 32) = Num.nan ∨ decodeFloat fp32 (getF (getR (coreOf run1 (3#8).toNat) 2#5) 0 32) = Num.nan) ∧
      (decodeFloat fp64 (BitVec.toNat (getR (coreOf run1 (3#8).toNat) 1#5)) = Num.nan ∨ decodeFloat fp64 (BitVec.toNat (getR (coreOf run1 (3#8).toNat) 2#5)) = Num.nan))) :=
  ⟨inv_of_check _ (by decide +kernel), by decide +kernel⟩

def w5off1 : BitVec 21 := -64
/-- States and operands that meet the hypotheses of `ControlTransfersSetThePc`. -/
theorem witness_ControlTransfersSetThePc :
    (Machine.Inv jr1 ∧ (coreGo jr1 (3#8).toNat = true ∧ (false || getP (coreOf jr1 (3#8).toNat) (0#3).toNat != true) = true ∧
      (0 ≤ ↑(coreOf jr1 (3#8).toNat).pc.toNat + 4 * w5off1.toInt ∧ ↑(coreOf jr1 (3#8).toNat).pc.toNat + 4 * w5off1.toInt < 131072 ∧
      (↑(coreOf jr1 (3#8).toNat).pc.toNat + 4 * w5off1.toInt) % 4 = 0) ∧ regBusy (coreOf jr1 (3#8).toNat) [31] = false ∧
      (0 ≤ ↑(BitVec.toNat (getR (coreOf jr1 (3#8).toNat) 1#5)) ∧ ↑(BitVec.toNat (getR (coreOf jr1 (3#8).toNat) 1#5)) < 131072 ∧
      ↑(BitVec.toNat (getR (coreOf jr1 (3#8).toNat) 1#5)) % 4 = 0) ∧ regBusy (coreOf jr1 (3#8).toNat) [1#5] = false ∧
      csrF jr1 (tileCsr (3#8).toNat 24) 0 17 % 4 = 0)) ∧
    (Machine.Inv jr1 ∧ (coreGo jr1 (3#8).toNat = true ∧ (false || getP (coreOf jr1 (3#8).toNat) (0#3).toNat != false) = false ∧
      regBusy (coreOf jr1 (3#8).toNat) [31] = false)) :=
  ⟨⟨inv_of_check _ (by decide +kernel), by decide +kernel⟩,
   ⟨inv_of_check _ (by decide +kernel), by decide +kernel⟩⟩

def w6s1 : State := { jr1 with csr := [(tileCsr 3 0x18, 2)]}
def w6off1 : BitVec 21 := -65
def w6fn1 : BitVec 11 := 0x7fe
def w6imm1 : BitVec 16 := 0xffff
def w6s2 : State := { run1 with ledger := { run1.ledger with inj := [⟨0x803, 0x11, 1, 0⟩] } }
/-- States and operands that meet the hypotheses of `IllegalInstructionsAndBadTargetsFailTheTask`. -/
theorem witness_IllegalInstructionsAndBadTargetsFailTheTask :
    (Machine.Inv w6s1 ∧ (coreGo w6s1 (3#8).toNat = true ∧
      (¬w6fn1 ∈ [0, 1, 2, 3, 4, 5, 6, 7, 8, 16, 17, 18, 19, 20, 21, 24, 25, 26, 27, 32, 33, 34]) ∧ 9 < w6fn1.toNat ∧ (7 < w6fn1.toNat ∨ 0#5 ≠ 0) ∧
      (7 < (31#5).toNat ∨ ¬w6fn1 ∈ [0, 1, 2, 3, 4, 5, 8, 9, 10, 12, 13, 14]) ∧
      (7 < (31#5).toNat ∨ 7 < (2#5).toNat ∨ 7 < (0#5).toNat ∨ 5 < w6fn1.toNat) ∧ 16 ≤ w6fn1.toNat ∧ 192 ≤ w6imm1.toNat ∧
      (2#5 ≠ 0 ∨ w6imm1.toNat / 2 ^ 13 % 4 ≠ 0) ∧ 7#26 ≠ 0 ∧ (31#5 ≠ 0 ∨ 0#5 ≠ 0 ∨ w6fn1 ≠ 0) ∧ 256 ≤ (400#12).toNat ∧ 64 ≤ (400#12).toNat ∧
      128 ≤ (400#12).toNat ∧ (2#5 ≠ 0 ∨ 0#5 ≠ 0 ∨ (400#12).toNat % 32 = 0 ∨ (400#12).toNat / 32 % 64 ≠ 0) ∧
      (5 ≤ (6#3).toNat ∨ 8#14 ≠ 0 ∨ false = false ∧ 0#3 ≠ 0) ∧ (false || getP (coreOf w6s1 (3#8).toNat) (0#3).toNat != true) = true ∧
      (¬(0 ≤ ↑(coreOf w6s1 (3#8).toNat).pc.toNat + 4 * w6off1.toInt ∧ ↑(coreOf w6s1 (3#8).toNat).pc.toNat + 4 * w6off1.toInt < 131072 ∧
      (↑(coreOf w6s1 (3#8).toNat).pc.toNat + 4 * w6off1.toInt) % 4 = 0)) ∧ regBusy (coreOf w6s1 (3#8).toNat) [31] = false ∧
      (131072 ≤ BitVec.toNat (getR (coreOf w6s1 (3#8).toNat) 2#5) ∨ BitVec.toNat (getR (coreOf w6s1 (3#8).toNat) 2#5) % 4 ≠ 0) ∧
      regBusy (coreOf w6s1 (3#8).toNat) [2#5] = false ∧ csrF w6s1 (tileCsr (3#8).toNat 24) 0 17 % 4 ≠ 0)) ∧
    (Machine.Inv w6s1 ∧ (coreGo w6s1 (3#8).toNat = true ∧ 8 ≤ (8#5).toNat)) ∧
    (Machine.Inv w6s2 ∧ coreReady w6s2 (3#8).toNat = true ∧ ∃ j, fetchHit w6s2 (3#8).toNat = some j ∧ j.kind ≠ 0x10) :=
  ⟨⟨inv_of_check _ (by decide +kernel), by decide +kernel⟩,
   ⟨inv_of_check _ (by decide +kernel), by decide +kernel⟩,
   ⟨inv_of_check _ (by decide +kernel), by decide +kernel, ⟨0x803, 0x11, 1, 0⟩, by decide +kernel⟩⟩

end Computing

namespace LoadStore

def w7s1 : State := (runAt spad 3)
def w7s3 : State := (runAt 0x80000FFFFFFFFFF8 3)
def w7s4 : State := (runAt 0 3)
def w7s5 : State := withCore (fun c => { c with accs := (List.range 8).map (acc0 · false)})
/-- States and operands that meet the hypotheses of `LoadsAndStoresEnterTheOutstandingAccesses`. -/
theorem witness_LoadsAndStoresEnterTheOutstandingAccesses :
    (Machine.Inv w7s1 ∧ (coreGo w7s1 (3#8).toNat = true ∧ regBusy (coreOf w7s1 (3#8).toNat) [2#5, 1#5] = false ∧ 3#3 ≠ 7 ∧
      (List.countP (fun a => a.store == true) (coreOf w7s1 (3#8).toNat).accs < if true = true then 16 else 8) ∧
      ((someAnd (effAddr (getR (coreOf w7s1 (3#8).toNat) 1#5) 8#13) fun g => decide (BitVec.toNat g % szBytes 3#3 = 0 ∧
      (okAnd (locTgt w7s1 g (szBytes 3#3) true) fun g => notPeer g) = true)) = true))) ∧
    (Machine.Inv w7s1 ∧ (coreGo w7s1 (3#8).toNat = true ∧ regBusy (coreOf w7s1 (3#8).toNat) [2#5, 1#5] = false ∧ 3#3 ≠ 7 ∧
      (List.countP (fun a => a.store == false) (coreOf w7s1 (3#8).toNat).accs < if false = true then 16 else 8) ∧
      ((someAnd (effAddr (getR (coreOf w7s1 (3#8).toNat) 1#5) 9#13) fun g => decide (BitVec.toNat g % szBytes 3#3 ≠ 0)) = true))) ∧
    (Machine.Inv w7s3 ∧ (coreGo w7s3 (3#8).toNat = true ∧ regBusy (coreOf w7s3 (3#8).toNat) [2#5, 1#5] = false ∧ 3#3 ≠ 7 ∧
      (List.countP (fun a => a.store == true) (coreOf w7s3 (3#8).toNat).accs < if true = true then 16 else 8) ∧
      effAddr (getR (coreOf w7s3 (3#8).toNat) 1#5) 8#13 = none)) ∧
    (Machine.Inv w7s4 ∧ (coreGo w7s4 (3#8).toNat = true ∧ regBusy (coreOf w7s4 (3#8).toNat) [2#5, 1#5] = false ∧ 3#3 ≠ 7 ∧
      (List.countP (fun a => a.store == false) (coreOf w7s4 (3#8).toNat).accs < if false = true then 16 else 8) ∧
      ((someAnd (effAddr (getR (coreOf w7s4 (3#8).toNat) 1#5) 8#13) fun g => decide (BitVec.toNat g % szBytes 3#3 = 0 ∧
      (locTgt w7s4 g (szBytes 3#3) false).isOk = false)) = true))) ∧
    (Machine.Inv w7s5 ∧ (coreGo w7s5 (3#8).toNat = true ∧ regBusy (coreOf w7s5 (3#8).toNat) [2#5, 1#5] = false ∧ 3#3 ≠ 7 ∧
      ((if false = true then 16 else 8) ≤ List.countP (fun a => a.store == false) (coreOf w7s5 (3#8).toNat).accs))) :=
  ⟨⟨inv_of_check _ (by decide +kernel), by decide +kernel⟩,
   ⟨inv_of_check _ (by decide +kernel), by decide +kernel⟩,
   ⟨inv_of_check _ (by decide +kernel), by decide +kernel⟩,
   ⟨inv_of_check _ (by decide +kernel), by decide +kernel⟩,
   ⟨inv_of_check _ (by decide +kernel), by decide +kernel⟩⟩

/-- An access whose home is a peer, for `LoadsAndStoresEnterTheOutstandingAccesses`. -/
theorem witness_LoadsAndStoresEnterTheOutstandingAccesses_peer :
    Machine.Inv (shaped (runAt 0xC000200000000000 3)) ∧ coreGo (shaped (runAt 0xC000200000000000 3)) 3 = true ∧
    regBusy (coreOf (shaped (runAt 0xC000200000000000 3)) 3) [2, 1] = false ∧
    someAnd (effAddr (getR (coreOf (shaped (runAt 0xC000200000000000 3)) 3) 1) 8) (fun l => decide (l.toNat % 8 = 0) &&
      okAnd (locTgt (shaped (runAt 0xC000200000000000 3)) l 8 true) (fun g => !notPeer g)) = true :=
  ⟨inv_of_check _ (by decide +kernel), by decide +kernel⟩

end LoadStore

namespace CoreState
def accs1 (f : CoreAcc → CoreAcc) (st : Bool) : State := storeBytes (withCore (fun c => { c with accs := [f (acc0 7 st)] })) 0x100001800000 [1,2,3,4,5,6,7,0xF8]

def w8s1 : State := accs1 id true
def w8a1 : CoreAcc := acc0 7 true
def w8g1 : Tgt := .spad 0x100001800000
def w8s2 : State := accs1 id false
def w8ecc2 : Ecc := .clean
def w8a2 : CoreAcc := acc0 7 false
def w8l02 : State := match w8g1 with | Tgt.dram r o => flushOverlap w8s2 ((3#8).toNat / 16) (rgnBase w8s2 r + o) w8a2.size | x => w8s2
def w8s3 : State := setPsn (accs1 id false) 0x100001800000 true
def w8l03 : State := match w8g1 with | Tgt.dram r o => flushOverlap w8s3 ((3#8).toNat / 16) (rgnBase w8s3 r + o) w8a2.size | x => w8s3
/-- States and operands that meet the hypotheses of `OutstandingAccessesArePerformed`. -/
theorem witness_OutstandingAccessesArePerformed :
    (Machine.Inv w8s1 ∧ ((List.find? (fun x => x.slot == (7#5).toNat && x.dev.isNone) (coreOf w8s1 (3#8).toNat).accs = some w8a1) ∧
      ((List.takeWhile (fun x => x.slot != (7#5).toNat) (coreOf w8s1 (3#8).toNat).accs).any (accOverlap w8a1) = false)) ∧
      locTgt w8s1 w8a1.loc w8a1.size w8a1.store = Except.ok w8g1 ∧ w8a1.store = true) ∧
    (Machine.Inv w8s2 ∧ ((List.find? (fun x => x.slot == (7#5).toNat && x.dev.isNone) (coreOf w8s2 (3#8).toNat).accs = some w8a2) ∧
      ((List.takeWhile (fun x => x.slot != (7#5).toNat) (coreOf w8s2 (3#8).toNat).accs).any (accOverlap w8a2) = false)) ∧
      locTgt w8s2 w8a2.loc w8a2.size w8a2.store = Except.ok w8g1 ∧ (w8a2.store = false ∧ w8ecc2 = Ecc.clean ∧ w8s2.ledger.inj = []) ∧
      (∀ (x : Nat), w8g1 ≠ Tgt.hole x) ∧ (∀ (d x : Nat), w8g1 ≠ Tgt.peer d x) ∧ psnIn w8l02 (tgtAddr w8s2 w8g1) w8a2.size = false) ∧
    (Machine.Inv w8s3 ∧ ((List.find? (fun x => x.slot == (7#5).toNat && x.dev.isNone) (coreOf w8s3 (3#8).toNat).accs = some w8a2) ∧
      ((List.takeWhile (fun x => x.slot != (7#5).toNat) (coreOf w8s3 (3#8).toNat).accs).any (accOverlap w8a2) = false)) ∧
      locTgt w8s3 w8a2.loc w8a2.size w8a2.store = Except.ok w8g1 ∧ (w8a2.store = false ∧ w8ecc2 = Ecc.clean ∧ w8s3.ledger.inj = []) ∧
      (∀ (x : Nat), w8g1 ≠ Tgt.hole x) ∧ (∀ (d x : Nat), w8g1 ≠ Tgt.peer d x) ∧ psnIn w8l03 (tgtAddr w8s3 w8g1) w8a2.size = true) :=
  ⟨⟨inv_of_check _ (by decide +kernel), by decide +kernel, ok_of _ _ (by decide +kernel), by decide +kernel⟩,
   ⟨inv_of_check _ (by decide +kernel), by decide +kernel, ok_of _ _ (by decide +kernel), by decide +kernel, fun _ h => Tgt.noConfusion h,
     fun _ _ h => Tgt.noConfusion h, by decide +kernel⟩,
   ⟨inv_of_check _ (by decide +kernel), by decide +kernel, ok_of _ _ (by decide +kernel), by decide +kernel, fun _ h => Tgt.noConfusion h,
     fun _ _ h => Tgt.noConfusion h, by decide +kernel⟩⟩

def w9s1 : State := runAt 5 6
def w9s2 : State := runAt 8 6
def w9s3 : State := runAt 0xFFFF 6
def w9s4 : State := withCsrs (runAt 0x105 6) [(tileCsr 3 0x30, 7), (tileCsr 3 0x38, 0x103)]
def w9s6 : State := runAt 0x105 6
def w9w6 : BitVec 13 := 0x1FF
/-- States and operands that meet the hypotheses of `ControlRegistersAreReadAndWritten`. -/
theorem witness_ControlRegistersAreReadAndWritten :
    (Machine.Inv w9s1 ∧ (coreGo w9s1 (3#8).toNat = true ∧ regBusy (coreOf w9s1 (3#8).toNat) [1#5] = false ∧
      ((regAt (if false = true then clusterCsr ((3#8).toNat / 16) (8 * (2#13).toNat) else tileCsr (3#8).toNat (8 * (2#13).toNat))).isSome = true) ∧
      false = false ∧ (2#13 = 2 ∨ 2#13 = 3) ∧ BitVec.toNat (getR (coreOf w9s1 (3#8).toNat) 1#5) % 4 ≠ 0)) ∧
    (Machine.Inv w9s2 ∧ (coreGo w9s2 (3#8).toNat = true ∧ regBusy (coreOf w9s2 (3#8).toNat) [1#5] = false ∧ false = false ∧ (2#13 = 2 ∨ 2#13 = 3) ∧
      BitVec.toNat (getR (coreOf w9s2 (3#8).toNat) 1#5) % 4 = 0)) ∧
    (Machine.Inv w9s3 ∧ (coreGo w9s3 (3#8).toNat = true ∧ regBusy (coreOf w9s3 (3#8).toNat) [1#5] = false ∧ false = false ∧ 5#13 = 5)) ∧
    (Machine.Inv w9s4 ∧ (coreGo w9s4 (3#8).toNat = true ∧ regBusy (coreOf w9s4 (3#8).toNat) [1#5] = false ∧ false = false ∧ 6#13 = 6)) ∧
    (Machine.Inv w9s4 ∧ (coreGo w9s4 (3#8).toNat = true ∧ regBusy (coreOf w9s4 (3#8).toNat) [1#5] = false ∧ false = false ∧ 7#13 = 7)) ∧
    (Machine.Inv w9s6 ∧ (coreGo w9s6 (3#8).toNat = true ∧ regBusy (coreOf w9s6 (3#8).toNat) [1#5] = false ∧
      ((regAt (if false = true then clusterCsr ((3#8).toNat / 16) (8 * w9w6.toNat) else tileCsr (3#8).toNat (8 * w9w6.toNat))).isSome = false) ∧
      ((if false = true then clusterCsr ((3#8).toNat / 16) (8 * w9w6.toNat) else tileCsr (3#8).toNat (8 * w9w6.toNat)) ≠ clusterCsr ((3#8).toNat / 16) 16408))) :=
  ⟨⟨inv_of_check _ (by decide +kernel), by decide +kernel⟩,
   ⟨inv_of_check _ (by decide +kernel), by decide +kernel⟩,
   ⟨inv_of_check _ (by decide +kernel), by decide +kernel⟩,
   ⟨inv_of_check _ (by decide +kernel), by decide +kernel⟩,
   ⟨inv_of_check _ (by decide +kernel), by decide +kernel⟩,
   ⟨inv_of_check _ (by decide +kernel), by decide +kernel⟩⟩

def w10s1 : State := runAt 0x105 6
def w10l01 : State := releaseFlush w10s1 (agentOf (3#8).toNat 0)
def w10s2 : State := withCore (fun c => { c with accs := [acc0 1 true, acc0 2 false], preempt := some 0 })
def w10l02 : State := releaseFlush w10s2 (agentOf (3#8).toNat 0)
/-- States and operands that meet the hypotheses of `FenceYieldAndEnd`. -/
theorem witness_FenceYieldAndEnd :
    (Machine.Inv w10s1 ∧ (coreGo w10s1 (3#8).toNat = true ∧ (coreOf w10s1 (3#8).toNat).accs = [] ∧
      agentPending w10l01 (agentOf (3#8).toNat 0) = false ∧ (coreOf w10s1 (3#8).toNat).preempt = none)) ∧
    (Machine.Inv w10s2 ∧ (coreGo w10s2 (3#8).toNat = true ∧
      ((coreOf w10s2 (3#8).toNat).accs ≠ [] ∨ agentPending w10l02 (agentOf (3#8).toNat 0) = true) ∧ (coreOf w10s2 (3#8).toNat).preempt ≠ none) ∧
      (∀ (j : Nat), ((semQueue w10s2 (3#8).toNat j).all fun w => w.who != 0) = true)) :=
  ⟨⟨inv_of_check _ (by decide +kernel), by decide +kernel⟩,
   ⟨inv_of_check _ (by decide +kernel), by decide +kernel, fun _ => rfl⟩⟩

def w11s1 : State := sem1 4 [⟨3, 5, 0⟩, ⟨4, 1, 0⟩, ⟨0, 1, 0⟩] 2
def w11l01 : State := releaseFlush w11s1 (agentOf (3#8).toNat 0)
def w11s2 : State := sem1 4 [⟨3, 5, 0⟩, ⟨4, 2, 0⟩] 0
def w11l02 : State := releaseFlush w11s2 (agentOf (3#8).toNat 0)
def w11s3 : State := sem1 4 [⟨3, 5, 0⟩] 0xFFFFFFFC
def w11l03 : State := releaseFlush w11s3 (agentOf (3#8).toNat 0)
def w11s4 : State := setCore (sem1 4 [] 5) 3 { coreOf (sem1 4 [] 5) 3 with accs := [acc0 1 true] }
def w11l04 : State := releaseFlush w11s4 (agentOf (3#8).toNat 0)
/-- States and operands that meet the hypotheses of `SemaphoresServeTheirQueueInOrder`. -/
theorem witness_SemaphoresServeTheirQueueInOrder :
    (Machine.Inv w11s1 ∧ (coreGo w11s1 (3#8).toNat = true ∧ regBusy (coreOf w11s1 (3#8).toNat) [1#5] = false ∧
      coreReleased w11l01 (3#8).toNat = true ∧ 0 < syncAmount (coreOf w11s1 (3#8).toNat) 1#5 ∧
      semVal w11s1 (3#8).toNat (9#8).toNat + syncAmount (coreOf w11s1 (3#8).toNat) 1#5 < 2 ^ 32 ∧
      (semQueue w11s1 (3#8).toNat (9#8).toNat ≠ [] ∨ semVal w11s1 (3#8).toNat (9#8).toNat < syncAmount (coreOf w11s1 (3#8).toNat) 1#5))) ∧
    (Machine.Inv w11s2 ∧ (coreGo w11s2 (3#8).toNat = true ∧ regBusy (coreOf w11s2 (3#8).toNat) [1#5] = false ∧
      coreReleased w11l02 (3#8).toNat = true ∧ syncAmount (coreOf w11s2 (3#8).toNat) 1#5 = 0 ∧
      (syncAmount (coreOf w11s2 (3#8).toNat) 1#5 = 0 ∨ semQueue w11s2 (3#8).toNat (9#8).toNat = [] ∧
      syncAmount (coreOf w11s2 (3#8).toNat) 1#5 ≤ semVal w11s2 (3#8).toNat (9#8).toNat))) ∧
    (Machine.Inv w11s3 ∧ (coreGo w11s3 (3#8).toNat = true ∧ regBusy (coreOf w11s3 (3#8).toNat) [1#5] = false ∧
      coreReleased w11l03 (3#8).toNat = true ∧ 0 < syncAmount (coreOf w11s3 (3#8).toNat) 1#5 ∧
      2 ^ 32 ≤ semVal w11s3 (3#8).toNat (9#8).toNat + syncAmount (coreOf w11s3 (3#8).toNat) 1#5)) ∧
    (Machine.Inv w11s4 ∧ (coreGo w11s4 (3#8).toNat = true ∧ regBusy (coreOf w11s4 (3#8).toNat) [1#5] = false ∧
      coreReleased w11l04 (3#8).toNat = false)) :=
  ⟨⟨inv_of_check _ (by decide +kernel), by decide +kernel⟩,
   ⟨inv_of_check _ (by decide +kernel), by decide +kernel⟩,
   ⟨inv_of_check _ (by decide +kernel), by decide +kernel⟩,
   ⟨inv_of_check _ (by decide +kernel), by decide +kernel⟩⟩

end CoreState

namespace Syncs
def tal1 (v mark depth : Nat) (q : List TallyWait) (a : Nat) (n : Nat := 9) : State :=
  setTallyQueue (withCsrs (runAt a (3 * 2 ^ 11)) [(tallyAddr 3 n, v + mark * 2 ^ 32), (tallyCfgAddr 3 n, depth * 2 ^ 32)]) 3 n q
def bar1 (l : List (Nat × Nat)) : State := { withCsrs (runAt 0 0) l with barArr := [(5, 3), (6, 2)], plans := [(2, some demoPlan)] }

def w12s1 : State := tal1 5 1 10 [⟨6, 0⟩,⟨7, 0⟩,⟨8,0⟩] 2
def w12l01 : State := releaseFlush w12s1 (agentOf (3#8).toNat 0)
def w12s2 : State := tal1 5 1 10 [⟨6, 0⟩] 0
def w12l02 : State := releaseFlush w12s2 (agentOf (3#8).toNat 0)
def w12s3 : State := withAccs (tal1 5 1 10 [⟨6, 0⟩] 2) [acc0 1 true]
def w12l03 : State := releaseFlush w12s3 (agentOf (3#8).toNat 0)
def w12s4 : State := tal1 5 1 10 [⟨6, 0⟩] 7
def w12l04 : State := releaseFlush w12s4 (agentOf (3#8).toNat 0)
def w12s5 : State := tal1 5 1 10 [⟨6, 0⟩] 100
/-- States and operands that meet the hypotheses of `TallyCountersStayWithinDepth`. -/
theorem witness_TallyCountersStayWithinDepth :
    (Machine.Inv w12s1 ∧ (coreGo w12s1 (3#8).toNat = true ∧ regBusy (coreOf w12s1 (3#8).toNat) [1#5] = false ∧ (9#7).toNat < 64 ∧
      coreReleased w12l01 (3#8).toNat = true ∧ 0 < syncAmount (coreOf w12s1 (3#8).toNat) 1#5 ∧
      (tallyVal w12s1 (3#8).toNat (9#7).toNat + syncAmount (coreOf w12s1 (3#8).toNat) 1#5 + 2 ^ 32 - csrF w12s1 (tallyAddr (3#8).toNat (9#7).toNat) 32 32 % 2 ^ 32) % 2 ^ 32 ≤ tallyDepth w12s1 (3#8).toNat (9#7).toNat ∧
      (tallyVal w12s1 (3#8).toNat (9#7).toNat + 2 ^ 32 - syncAmount (coreOf w12s1 (3#8).toNat) 1#5 % 2 ^ 32) % 2 ^ 32 ≤ tallyDepth w12s1 (3#8).toNat (9#7).toNat)) ∧
    (Machine.Inv w12s2 ∧ (coreGo w12s2 (3#8).toNat = true ∧ regBusy (coreOf w12s2 (3#8).toNat) [1#5] = false ∧ (9#7).toNat < 64 ∧
      coreReleased w12l02 (3#8).toNat = true ∧ syncAmount (coreOf w12s2 (3#8).toNat) 1#5 = 0)) ∧
    (Machine.Inv w12s3 ∧ (coreGo w12s3 (3#8).toNat = true ∧ regBusy (coreOf w12s3 (3#8).toNat) [1#5] = false ∧ (9#7).toNat < 64 ∧
      coreReleased w12l03 (3#8).toNat = false)) ∧
    (Machine.Inv w12s4 ∧ (coreGo w12s4 (3#8).toNat = true ∧ regBusy (coreOf w12s4 (3#8).toNat) [1#5] = false ∧ (9#7).toNat < 64 ∧
      coreReleased w12l04 (3#8).toNat = true ∧ 0 < syncAmount (coreOf w12s4 (3#8).toNat) 1#5 ∧
      tallyDepth w12s4 (3#8).toNat (9#7).toNat < (tallyVal w12s4 (3#8).toNat (9#7).toNat + syncAmount (coreOf w12s4 (3#8).toNat) 1#5 + 2 ^ 32 - csrF w12s4 (tallyAddr (3#8).toNat (9#7).toNat) 32 32 % 2 ^ 32) % 2 ^ 32 ∧
      tallyDepth w12s4 (3#8).toNat (9#7).toNat < (tallyVal w12s4 (3#8).toNat (9#7).toNat + 2 ^ 32 - syncAmount (coreOf w12s4 (3#8).toNat) 1#5 % 2 ^ 32) % 2 ^ 32 ∧
      2 ^ 32 - tallyDepth w12s4 (3#8).toNat (9#7).toNat ≤ (tallyVal w12s4 (3#8).toNat (9#7).toNat + 2 ^ 32 - syncAmount (coreOf w12s4 (3#8).toNat) 1#5 % 2 ^ 32) % 2 ^ 32)) ∧
    (Machine.Inv w12s5 ∧ (coreGo w12s5 (3#8).toNat = true ∧ regBusy (coreOf w12s5 (3#8).toNat) [1#5] = false ∧
      tallyDepth w12s5 (3#8).toNat (9#7).toNat < (tallyVal w12s5 (3#8).toNat (9#7).toNat + 2 ^ 32 - syncAmount (coreOf w12s5 (3#8).toNat) 1#5 % 2 ^ 32) % 2 ^ 32 ∧
      (tallyVal w12s5 (3#8).toNat (9#7).toNat + 2 ^ 32 - syncAmount (coreOf w12s5 (3#8).toNat) 1#5 % 2 ^ 32) % 2 ^ 32 < 2 ^ 32 - tallyDepth w12s5 (3#8).toNat (9#7).toNat)) :=
  ⟨⟨inv_of_check _ (by decide +kernel), by decide +kernel⟩,
   ⟨inv_of_check _ (by decide +kernel), by decide +kernel⟩,
   ⟨inv_of_check _ (by decide +kernel), by decide +kernel⟩,
   ⟨inv_of_check _ (by decide +kernel), by decide +kernel⟩,
   ⟨inv_of_check _ (by decide +kernel), by decide +kernel⟩⟩

def w13s1 : State := runAt 5 (2^19)
def w13s2 : State := runAt 5 7
def w13s3 : State := runAt 5 (4 * 2 ^ 11)
def w13l03 : State := releaseFlush w13s3 (agentOf (3#8).toNat 0)
def w13s4 : State := withCsrs (runAt 5 (4 * 2 ^ 11)) [(semAddr 4 9, 0xFFFFFFFE), (tallyCfgAddr 4 9, 20 * 2 ^ 32)]
def w13l04 : State := releaseFlush w13s4 (agentOf (3#8).toNat 0)
def w13s5 : State := shaped (runAt 5 (4 * 2 ^ 11 + 1))
def w13l05 : State := releaseFlush w13s5 (agentOf (3#8).toNat 0)
def w13s6 : State := withAccs (shaped (runAt 5 (4 * 2 ^ 11 + 1))) [acc0 1 true]
def w13l06 : State := releaseFlush w13s6 (agentOf (3#8).toNat 0)
/-- States and operands that meet the hypotheses of `RemoteSignalsReachTheirTile`. -/
theorem witness_RemoteSignalsReachTheirTile :
    (Machine.Inv w13s1 ∧ (coreGo w13s1 (3#8).toNat = true ∧ regBusy (coreOf w13s1 (3#8).toNat) [1#5, 2#5] = false ∧
      2 ^ 19 ≤ BitVec.toNat (getR (coreOf w13s1 (3#8).toNat) 2#5))) ∧
    (Machine.Inv w13s2 ∧ (coreGo w13s2 (3#8).toNat = true ∧ regBusy (coreOf w13s2 (3#8).toNat) [1#5, 2#5] = false ∧
      BitVec.toNat (getR (coreOf w13s2 (3#8).toNat) 2#5) < 2 ^ 19 ∧ BitVec.toNat (getR (coreOf w13s2 (3#8).toNat) 2#5) % 2 ^ 11 ≠ ownId w13s2 ∧
      (¬BitVec.toNat (getR (coreOf w13s2 (3#8).toNat) 2#5) % 2 ^ 11 ∈ w13s2.shape))) ∧
    (Machine.Inv w13s3 ∧ (coreGo w13s3 (3#8).toNat = true ∧ regBusy (coreOf w13s3 (3#8).toNat) [1#5, 2#5] = false ∧
      BitVec.toNat (getR (coreOf w13s3 (3#8).toNat) 2#5) = ownId w13s3 + (4#8).toNat * 2 ^ 11 ∧ coreReleased w13l03 (3#8).toNat = true ∧ 4#8 ≠ 3#8 ∧
      0 < syncAmount (coreOf w13s3 (3#8).toNat) 1#5 ∧ semVal w13s3 (4#8).toNat (9#8).toNat + syncAmount (coreOf w13s3 (3#8).toNat) 1#5 < 2 ^ 32 ∧
      semQueue w13s3 (4#8).toNat (9#8).toNat = [] ∧
      tallyDepth w13s3 (4#8).toNat (9#6).toNat < tallyGap (tallyVal w13s3 (4#8).toNat (9#6).toNat + syncAmount (coreOf w13s3 (3#8).toNat) 1#5) (csrF w13s3 (tallyAddr (4#8).toNat (9#6).toNat) 32 32))) ∧
    (Machine.Inv w13s4 ∧ (coreGo w13s4 (3#8).toNat = true ∧ regBusy (coreOf w13s4 (3#8).toNat) [1#5, 2#5] = false ∧
      BitVec.toNat (getR (coreOf w13s4 (3#8).toNat) 2#5) = ownId w13s4 + (4#8).toNat * 2 ^ 11 ∧ coreReleased w13l04 (3#8).toNat = true ∧ 4#8 ≠ 3#8 ∧
      0 < syncAmount (coreOf w13s4 (3#8).toNat) 1#5 ∧ 2 ^ 32 ≤ semVal w13s4 (4#8).toNat (9#8).toNat + syncAmount (coreOf w13s4 (3#8).toNat) 1#5 ∧
      tallyGap (tallyVal w13s4 (4#8).toNat (9#6).toNat + syncAmount (coreOf w13s4 (3#8).toNat) 1#5) (csrF w13s4 (tallyAddr (4#8).toNat (9#6).toNat) 32 32) ≤ tallyDepth w13s4 (4#8).toNat (9#6).toNat)) ∧
    (Machine.Inv w13s5 ∧ (coreGo w13s5 (3#8).toNat = true ∧ regBusy (coreOf w13s5 (3#8).toNat) [1#5, 2#5] = false ∧
      BitVec.toNat (getR (coreOf w13s5 (3#8).toNat) 2#5) < 2 ^ 19 ∧ BitVec.toNat (getR (coreOf w13s5 (3#8).toNat) 2#5) % 2 ^ 11 ≠ ownId w13s5 ∧
      peerUsable w13s5 (BitVec.toNat (getR (coreOf w13s5 (3#8).toNat) 2#5) % 2 ^ 11) = true ∧ coreReleased w13l05 (3#8).toNat = true ∧
      (route w13l05 (servedDev w13s5 (BitVec.toNat (getR (coreOf w13s5 (3#8).toNat) 2#5) % 2 ^ 11))).isSome = true)) ∧
    (Machine.Inv w13s6 ∧ (coreGo w13s6 (3#8).toNat = true ∧ regBusy (coreOf w13s6 (3#8).toNat) [1#5, 2#5] = false ∧
      BitVec.toNat (getR (coreOf w13s6 (3#8).toNat) 2#5) < 2 ^ 19 ∧
      (BitVec.toNat (getR (coreOf w13s6 (3#8).toNat) 2#5) % 2 ^ 11 = ownId w13s6 ∨ peerUsable w13s6 (BitVec.toNat (getR (coreOf w13s6 (3#8).toNat) 2#5) % 2 ^ 11) = true) ∧
      coreReleased w13l06 (3#8).toNat = false)) :=
  ⟨⟨inv_of_check _ (by decide +kernel), by decide +kernel⟩,
   ⟨inv_of_check _ (by decide +kernel), by decide +kernel⟩,
   ⟨inv_of_check _ (by decide +kernel), by decide +kernel⟩,
   ⟨inv_of_check _ (by decide +kernel), by decide +kernel⟩,
   ⟨inv_of_check _ (by decide +kernel), by decide +kernel⟩,
   ⟨inv_of_check _ (by decide +kernel), by decide +kernel⟩⟩

def w14s1 : State := bar1 [(dieCfg 5, 2)]
def w14l01 : State := releaseFlush w14s1 (agentOf (3#8).toNat 0)
def w14s2 : State := bar1 [(dieCfg 5, 1)]
def w14s3 : State := bar1 [(dieCfg 5, 2), (dieState 5, 2 + 2 ^ 16 + 7 * 2 ^ 32 + 2 ^ 63)]
def w14s4 : State := bar1 [(dieCfg 5, 2), (dieState 5, 2 + 2 * 2 ^ 16 + 7 * 2 ^ 32 + 2 ^ 63)]
def w14s5 : State := withAccs (bar1 []) [acc0 1 true]
def w14l05 : State := releaseFlush w14s5 (agentOf (3#8).toNat 0)
def w14s6 : State := shaped (fplan (bar1 [(fabCfg 5, 2)]))
def w14l06 : State := releaseFlush w14s6 (agentOf (3#8).toNat 0)
def w14s7 : State := shaped (fplan (bar1 [(fabCfg 5, 2), (fabState 5, 1)]))
def w14l07 : State := releaseFlush w14s7 (agentOf (3#8).toNat 0)
def w14s8 : State := shaped (fplan (bar1 [(fabCfg 5, 2), (fabState 5, 2)]))
def w14l08 : State := releaseFlush w14s8 (agentOf (3#8).toNat 0)
/-- States and operands that meet the hypotheses of `BarriersCountTheirArrivals`. -/
theorem witness_BarriersCountTheirArrivals :
    (Machine.Inv w14s1 ∧ (coreGo w14s1 (3#8).toNat = true ∧ (5#5).toNat ≠ 0 ∧ coreReleased w14l01 (3#8).toNat = true ∧
      (csrF w14s1 (fabCfg (5#5).toNat) 0 16 = 0 ∨ csrF w14s1 (fabCfg (5#5).toNat) 0 16 ≤ csrF w14s1 (fabState (5#5).toNat) 0 16 ∧
      csrF w14s1 (fabCfg (5#5).toNat) 0 16 ≤ (fabBar w14s1 (5#5).toNat).next) ∧ ((5#5).toNat, (3#8).toNat) ∈ w14s1.barArr ∧
      (csrF w14s1 (dieState (5#5).toNat) 0 16 + 1 < csrF w14s1 (dieCfg (5#5).toNat) 0 16 ∨ csrF w14s1 (dieState (5#5).toNat) 0 16 + 1 = csrF w14s1 (dieCfg (5#5).toNat) 0 16 ∧
      csrF w14s1 (dieState (5#5).toNat) 63 1 = 1))) ∧
    (Machine.Inv w14s2 ∧ (((5#5).toNat, (3#8).toNat) ∈ w14s2.barArr ∧
      csrF w14s2 (dieState (5#5).toNat) 0 16 + 1 = csrF w14s2 (dieCfg (5#5).toNat) 0 16 ∧ csrF w14s2 (dieState (5#5).toNat) 63 1 = 0)) ∧
    (Machine.Inv w14s3 ∧ (((5#5).toNat, (3#8).toNat) ∈ w14s3.barArr ∧ 0 < csrF w14s3 (dieCfg (5#5).toNat) 0 16 ∧
      csrF w14s3 (dieCfg (5#5).toNat) 0 16 ≤ csrF w14s3 (dieState (5#5).toNat) 0 16 ∧
      csrF w14s3 (dieState (5#5).toNat) 16 16 < csrF w14s3 (dieCfg (5#5).toNat) 0 16)) ∧
    (Machine.Inv w14s4 ∧ (((5#5).toNat, (3#8).toNat) ∈ w14s4.barArr ∧
      (csrF w14s4 (dieCfg (5#5).toNat) 0 16 = 0 ∨ csrF w14s4 (dieCfg (5#5).toNat) 0 16 ≤ csrF w14s4 (dieState (5#5).toNat) 0 16 ∧
      csrF w14s4 (dieCfg (5#5).toNat) 0 16 ≤ csrF w14s4 (dieState (5#5).toNat) 16 16))) ∧
    (Machine.Inv w14s5 ∧ (coreGo w14s5 (3#8).toNat = true ∧ (5#5).toNat ≠ 0 ∧ coreReleased w14l05 (3#8).toNat = false)) ∧
    (Machine.Inv w14s6 ∧ (coreGo w14s6 (3#8).toNat = true ∧ (5#5).toNat ≠ 0 ∧ coreReleased w14l06 (3#8).toNat = true ∧
      csrF w14s6 (fabState (5#5).toNat) 0 16 + 1 < csrF w14s6 (fabCfg (5#5).toNat) 0 16)) ∧
    (Machine.Inv w14s7 ∧ (coreGo w14s7 (3#8).toNat = true ∧ (5#5).toNat ≠ 0 ∧ coreReleased w14l07 (3#8).toNat = true ∧
      csrF w14s7 (fabState (5#5).toNat) 0 16 + 1 = csrF w14s7 (fabCfg (5#5).toNat) 0 16 ∧
      (fabBar w14s7 (5#5).toNat).counted.length + 1 < w14s7.shape.length)) ∧
    (Machine.Inv w14s8 ∧ (coreGo w14s8 (3#8).toNat = true ∧ (5#5).toNat ≠ 0 ∧ coreReleased w14l08 (3#8).toNat = true ∧
      0 < csrF w14s8 (fabCfg (5#5).toNat) 0 16 ∧ csrF w14s8 (fabCfg (5#5).toNat) 0 16 ≤ csrF w14s8 (fabState (5#5).toNat) 0 16 ∧
      (fabBar w14s8 (5#5).toNat).next < csrF w14s8 (fabCfg (5#5).toNat) 0 16)) :=
  ⟨⟨inv_of_check _ (by decide +kernel), by decide +kernel⟩,
   ⟨inv_of_check _ (by decide +kernel), by decide +kernel⟩,
   ⟨inv_of_check _ (by decide +kernel), by decide +kernel⟩,
   ⟨inv_of_check _ (by decide +kernel), by decide +kernel⟩,
   ⟨inv_of_check _ (by decide +kernel), by decide +kernel⟩,
   ⟨inv_of_check _ (by decide +kernel), by decide +kernel⟩,
   ⟨inv_of_check _ (by decide +kernel), by decide +kernel⟩,
   ⟨inv_of_check _ (by decide +kernel), by decide +kernel⟩⟩

end Syncs

namespace Issuing
def rel1 (l : List Nat) (n : Nat) (f : State → State := id) : State := f { runAt 5 6 with barRel := [(n, l)] }
def full (s : State) : State := setCmb s 3 { Cmb.init with queue := List.replicate 8 ⟨0, 0, 1, []⟩ }
def irq (f : Core → Core) : State := withCsrs (withCore (fun c => f { c with pc := 0x104 })) [(tileCsr 3 0, 1), (tileCsr 3 0x10, 0x200), (tileCsr 3 0x28, 6), (tileCsr 3 0x30, 7)]

def w15s1 : State := rel1 [3, 4] 5
def w15s2 : State := rel1 [3] 5 (withCsrs · [(dieCfg 5, 2), (dieState 5, 1 + 2 ^ 63), (tileCsr 3 0x8120, 1)])
def w15s3 : State := {fplan up with groupWait := [(4, 6)]}
def w15s4 : State := sem1 4 [⟨0, 5, 7⟩] 2
def w15s5 : State := setTallyQueue up 3 9 [⟨50, 0⟩]
def w15s6 : State := setTallyQueue up 3 100 [⟨50, 0⟩]
/-- States and operands that meet the hypotheses of `ReleasesAdvanceViewsAndStallsAreReported`. -/
theorem witness_ReleasesAdvanceViewsAndStallsAreReported :
    (Machine.Inv w15s1 ∧ (3#8).toNat ∈ relTiles w15s1 (5#6).toNat) ∧
    (Machine.Inv w15s2 ∧ ((3#8).toNat ∈ relTiles w15s2 (5#6).toNat ∧ relTiles w15s2 (5#6).toNat = [(3#8).toNat] ∧ (5#6).toNat < 32 ∧
      csrF w15s2 (dieCfg (5#6).toNat) 0 16 ≠ csrF w15s2 (dieState (5#6).toNat) 0 16 ∧
      csrF w15s2 (tileCsr (3#8).toNat (33024 + 16 * (2#3).toNat)) 0 1 = 1)) ∧
    (Machine.Inv w15s3 ∧ ((List.find? (fun g => g.fst == (4#5).toNat) w15s3.groupWait = some ((4#5).toNat, 6)) ∧ 6 ≤ 7 ∧ w15s3.now ≤ 7 ∧ 4#5 ≠ 0 ∧
      fabTiles w15s3 ≠ [])) ∧
    (Machine.Inv w15s4 ∧ (semWaitOf w15s4 (3#8).toNat (0#5).toNat = some (9, 7) ∧ w15s4.now ≤ 1000000007 ∧
      7 + polVal w15s4 16 * 1000000 ≤ 1000000007)) ∧
    (Machine.Inv w15s5 ∧ (semWaitOf w15s5 (3#8).toNat 0 = none ∧ tallyWaitOf w15s5 (3#8).toNat = some (9, 0) ∧ 9 < 96 ∧ w15s5.now ≤ 1000000007 ∧
      0 + polVal w15s5 16 * 1000000 ≤ 1000000007)) ∧
    (Machine.Inv w15s6 ∧ (semWaitOf w15s6 (3#8).toNat 0 = none ∧ tallyWaitOf w15s6 (3#8).toNat = some (100, 0) ∧ 96 ≤ 100)) :=
  ⟨⟨inv_of_check _ (by decide +kernel), by decide +kernel⟩,
   ⟨inv_of_check _ (by decide +kernel), by decide +kernel⟩,
   ⟨inv_of_check _ (by decide +kernel), by decide +kernel⟩,
   ⟨inv_of_check _ (by decide +kernel), by decide +kernel⟩,
   ⟨inv_of_check _ (by decide +kernel), by decide +kernel⟩,
   ⟨inv_of_check _ (by decide +kernel), by decide +kernel⟩⟩

def w16s1 : State := runAt spad 3
def w16g1 : Tgt := .spad 0x100001800000
def w16l01 : State := releaseFlush w16s1 (agentOf (3#8).toNat 0)
def w16s2 : State := setPsn (runAt spad 3) 0x100001800000 true
def w16l02 : State := releaseFlush w16s2 (agentOf (3#8).toNat 0)
def w16s3 : State := runAt (spad + 8) 3
def w16l03 : State := releaseFlush w16s3 (agentOf (3#8).toNat 0)
def w16s4 : State := runAt 0 3
def w16l04 : State := releaseFlush w16s4 (agentOf (3#8).toNat 0)
def w16s5 : State := runAt (2^63) 3
def w16l05 : State := releaseFlush w16s5 (agentOf (3#8).toNat 0)
def w16s6 : State := withAccs (runAt spad 3) [acc0 1 true]
def w16l06 : State := releaseFlush w16s6 (agentOf (3#8).toNat 0)
def w16s7 : State := full (runAt spad 3)
def w16l07 : State := releaseFlush w16s7 (agentOf (3#8).toNat 0)
/-- States and operands that meet the hypotheses of `IssueEnqueuesADescriptor`. -/
theorem witness_IssueEnqueuesADescriptor :
    (Machine.Inv w16s1 ∧ (coreGo w16s1 (3#8).toNat = true ∧ regBusy (coreOf w16s1 (3#8).toNat) [1#5] = false ∧ (1#3).toNat < 5 ∧
      coreReleased w16l01 (3#8).toNat = true ∧
      (locKind (getR (coreOf w16s1 (3#8).toNat) 1#5) = 1 ∨ locKind (getR (coreOf w16s1 (3#8).toNat) 1#5) = 2) ∧
      locOff (getR (coreOf w16s1 (3#8).toNat) 1#5) % 64 = 0) ∧ locTgt w16l01 (getR (coreOf w16s1 (3#8).toNat) 1#5) 64 false = Except.ok w16g1 ∧
      (∀ (a : Nat), w16g1 ≠ Tgt.hole a) ∧ ((agentReadEcc w16l01 (3#8).toNat w16g1 64 Ecc.clean).snd.fst = false ∧
      ((1#3).toNat = 3 → regBusy (coreOf w16s1 (3#8).toNat) (capRegs (bytesDesc (agentReadEcc w16l01 (3#8).toNat w16g1 64 Ecc.clean).fst)) = false) ∧
      (engQueue w16s1 (3#8).toNat (1#3).toNat).length < queueDepth (1#3).toNat)) ∧
    (Machine.Inv w16s2 ∧ (coreGo w16s2 (3#8).toNat = true ∧ regBusy (coreOf w16s2 (3#8).toNat) [1#5] = false ∧ (1#3).toNat < 5 ∧
      coreReleased w16l02 (3#8).toNat = true ∧
      (locKind (getR (coreOf w16s2 (3#8).toNat) 1#5) = 1 ∨ locKind (getR (coreOf w16s2 (3#8).toNat) 1#5) = 2) ∧
      locOff (getR (coreOf w16s2 (3#8).toNat) 1#5) % 64 = 0) ∧ locTgt w16l02 (getR (coreOf w16s2 (3#8).toNat) 1#5) 64 false = Except.ok w16g1 ∧
      (∀ (a : Nat), w16g1 ≠ Tgt.hole a) ∧ (agentReadEcc w16l02 (3#8).toNat w16g1 64 Ecc.clean).snd.fst = true) ∧
    (Machine.Inv w16s3 ∧ (coreGo w16s3 (3#8).toNat = true ∧ regBusy (coreOf w16s3 (3#8).toNat) [1#5] = false ∧ (1#3).toNat < 5 ∧
      coreReleased w16l03 (3#8).toNat = true ∧
      (locKind (getR (coreOf w16s3 (3#8).toNat) 1#5) = 1 ∨ locKind (getR (coreOf w16s3 (3#8).toNat) 1#5) = 2) ∧
      locOff (getR (coreOf w16s3 (3#8).toNat) 1#5) % 64 ≠ 0)) ∧
    (Machine.Inv w16s4 ∧ (coreGo w16s4 (3#8).toNat = true ∧ regBusy (coreOf w16s4 (3#8).toNat) [1#5] = false ∧ (1#3).toNat < 5 ∧
      coreReleased w16l04 (3#8).toNat = true ∧
      (locKind (getR (coreOf w16s4 (3#8).toNat) 1#5) = 0 ∨ locKind (getR (coreOf w16s4 (3#8).toNat) 1#5) = 3))) ∧
    (Machine.Inv w16s5 ∧ (coreGo w16s5 (3#8).toNat = true ∧ regBusy (coreOf w16s5 (3#8).toNat) [1#5] = false ∧ (1#3).toNat < 5 ∧
      coreReleased w16l05 (3#8).toNat = true ∧
      (locKind (getR (coreOf w16s5 (3#8).toNat) 1#5) = 1 ∨ locKind (getR (coreOf w16s5 (3#8).toNat) 1#5) = 2) ∧
      locOff (getR (coreOf w16s5 (3#8).toNat) 1#5) % 64 = 0 ∧ (locTgt w16l05 (getR (coreOf w16s5 (3#8).toNat) 1#5) 64 false).isOk = false)) ∧
    (Machine.Inv w16s6 ∧ (coreGo w16s6 (3#8).toNat = true ∧ regBusy (coreOf w16s6 (3#8).toNat) [1#5] = false ∧ (1#3).toNat < 5 ∧
      coreReleased w16l06 (3#8).toNat = false)) ∧
    (Machine.Inv w16s7 ∧ (coreGo w16s7 (3#8).toNat = true ∧ regBusy (coreOf w16s7 (3#8).toNat) [1#5] = false ∧ (1#3).toNat < 5 ∧
      coreReleased w16l07 (3#8).toNat = true ∧
      (locKind (getR (coreOf w16s7 (3#8).toNat) 1#5) = 1 ∨ locKind (getR (coreOf w16s7 (3#8).toNat) 1#5) = 2) ∧
      locOff (getR (coreOf w16s7 (3#8).toNat) 1#5) % 64 = 0) ∧ locTgt w16l07 (getR (coreOf w16s7 (3#8).toNat) 1#5) 64 false = Except.ok w16g1 ∧
      (∀ (a : Nat), w16g1 ≠ Tgt.hole a) ∧ ((agentReadEcc w16l07 (3#8).toNat w16g1 64 Ecc.clean).snd.fst = false ∧
      ((1#3).toNat = 3 → regBusy (coreOf w16s7 (3#8).toNat) (capRegs (bytesDesc (agentReadEcc w16l07 (3#8).toNat w16g1 64 Ecc.clean).fst)) = false) ∧
      queueDepth (1#3).toNat ≤ (engQueue w16s7 (3#8).toNat (1#3).toNat).length ∧ true = true)) ∧
    (Machine.Inv w16s7 ∧ (coreGo w16s7 (3#8).toNat = true ∧ regBusy (coreOf w16s7 (3#8).toNat) [1#5] = false ∧ (1#3).toNat < 5 ∧
      coreReleased w16l07 (3#8).toNat = true ∧
      (locKind (getR (coreOf w16s7 (3#8).toNat) 1#5) = 1 ∨ locKind (getR (coreOf w16s7 (3#8).toNat) 1#5) = 2) ∧
      locOff (getR (coreOf w16s7 (3#8).toNat) 1#5) % 64 = 0) ∧ locTgt w16l07 (getR (coreOf w16s7 (3#8).toNat) 1#5) 64 false = Except.ok w16g1 ∧
      (∀ (a : Nat), w16g1 ≠ Tgt.hole a) ∧ ((agentReadEcc w16l07 (3#8).toNat w16g1 64 Ecc.clean).snd.fst = false ∧
      ((1#3).toNat = 3 → regBusy (coreOf w16s7 (3#8).toNat) (capRegs (bytesDesc (agentReadEcc w16l07 (3#8).toNat w16g1 64 Ecc.clean).fst)) = false) ∧
      queueDepth (1#3).toNat ≤ (engQueue w16s7 (3#8).toNat (1#3).toNat).length ∧ false = false)) :=
  ⟨⟨inv_of_check _ (by decide +kernel), by decide +kernel, ok_of _ _ (by decide +kernel), fun _ h => Tgt.noConfusion h, by decide +kernel⟩,
   ⟨inv_of_check _ (by decide +kernel), by decide +kernel, ok_of _ _ (by decide +kernel), fun _ h => Tgt.noConfusion h, by decide +kernel⟩,
   ⟨inv_of_check _ (by decide +kernel), by decide +kernel⟩,
   ⟨inv_of_check _ (by decide +kernel), by decide +kernel⟩,
   ⟨inv_of_check _ (by decide +kernel), by decide +kernel⟩,
   ⟨inv_of_check _ (by decide +kernel), by decide +kernel⟩,
   ⟨inv_of_check _ (by decide +kernel), by decide +kernel, ok_of _ _ (by decide +kernel), fun _ h => Tgt.noConfusion h, by decide +kernel⟩,
   ⟨inv_of_check _ (by decide +kernel), by decide +kernel, ok_of _ _ (by decide +kernel), fun _ h => Tgt.noConfusion h, by decide +kernel⟩⟩

def w17s1 : State := irq id
/-- States and operands that meet the hypotheses of `InterruptsSaveAndVector`. -/
theorem witness_InterruptsSaveAndVector :
    (Machine.Inv w17s1 ∧ ((coreOf w17s1 (3#8).toNat).task ≠ none ∧ (coreOf w17s1 (3#8).toNat).suspending = none ∧
      csrF w17s1 (tileCsr (3#8).toNat 0) 0 1 = 1 ∧ 1 < 3 ∧ (csrF w17s1 (tileCsr (3#8).toNat 48) 1 1 = 1 ∧
      csrF w17s1 (tileCsr (3#8).toNat 40) 1 1 = 1) ∧ (∀ (n : Nat), n < 1 → ¬(csrF w17s1 (tileCsr (3#8).toNat 48) n 1 = 1 ∧
      csrF w17s1 (tileCsr (3#8).toNat 40) n 1 = 1)) ∧ (coreOf w17s1 (3#8).toNat).blocked = none)) :=
  ⟨inv_of_check _ (by decide +kernel), by decide +kernel⟩

def w18s1 : State := withAccs (runAt 4 5) [acc0 1 false]
/-- States and operands that meet the hypotheses of `InstructionsWaitForOutstandingLoads`. -/
theorem witness_InstructionsWaitForOutstandingLoads :
    ((coreGo w18s1 (3#8).toNat = true ∧ regBusy (coreOf w18s1 (3#8).toNat) [5#5, 6#5] = true ∧ regBusy (coreOf w18s1 (3#8).toNat) [5#5] = true)) ∧
    (((coreOf up (3#8).toNat).task = none ∨ (coreOf up (3#8).toNat).blocked ≠ none ∨ (coreOf up (3#8).toNat).suspending ≠ none ∨ irqDue up (3#8).toNat ≠ none)) :=
  ⟨by decide +kernel,
   by decide +kernel⟩

def w19s1 : State := recs (tq up)
def w19s2 : State := tq up
def w19s3 : State := storeBytes { recs (tq up) with ledger := {Ledger.init with isoTiles := [2]} } 0x100000000040 (leBytes 8 (0x108 + 2 ^ 17 + 2 * 2 ^ 20))
def w19s4 : State := { up with ended := [(0, demoTask)]}
def w19e4 : Nat × Machine.Task := (0, demoTask)
/-- States and operands that meet the hypotheses of `TasksStartAndComplete`. -/
theorem witness_TasksStartAndComplete :
    (Machine.Inv w19s1 ∧ (7 < 256 ∧ w19s1.boot = 0 ∧ (dispOf w19s1 ((0#8).toNat / 16)).staggerUntil = none ∧ (¬(0#8).toNat ∈ w19s1.ledger.isoTiles) ∧
      tileIdle w19s1 (0#8).toNat = true ∧ lowestStart w19s1 (0#8).toNat = true ∧ pickFor w19s1 (0#8).toNat = Pick.fresh 7 ∧
      recOk (wqFront w19s1 ((0#8).toNat / 16) 7) = true)) ∧
    (Machine.Inv w19s2 ∧ (7 < 256 ∧ w19s2.boot = 0 ∧ (dispOf w19s2 ((0#8).toNat / 16)).staggerUntil = none ∧ (¬(0#8).toNat ∈ w19s2.ledger.isoTiles) ∧
      tileIdle w19s2 (0#8).toNat = true ∧ lowestStart w19s2 (0#8).toNat = true ∧ pickFor w19s2 (0#8).toNat = Pick.fresh 7 ∧
      recOk (wqFront w19s2 ((0#8).toNat / 16) 7) = false)) ∧
    (Machine.Inv w19s3 ∧ (7 < 256 ∧ w19s3.boot = 0 ∧ (dispOf w19s3 ((2#8).toNat / 16)).staggerUntil = none ∧
      pinnedToIsolated w19s3 (2#8).toNat = some 7)) ∧
    (Machine.Inv w19s4 ∧ (7 < 256 ∧ (List.find? (fun x => x.fst == (0#8).toNat && x.snd.id == 5) w19s4.ended = some w19e4) ∧
      tagBusy w19s4 (0#8).toNat 5 = false)) :=
  ⟨⟨inv_of_check _ (by decide +kernel), by decide +kernel⟩,
   ⟨inv_of_check _ (by decide +kernel), by decide +kernel⟩,
   ⟨inv_of_check _ (by decide +kernel), by decide +kernel⟩,
   ⟨inv_of_check _ (by decide +kernel), by decide +kernel⟩⟩

/-- The core of tile 3 with an interrupt due while it waits at semaphore 9. -/
def irqSem : State := setSemQueue (irq (fun c => { c with blocked := some (.sem 9 4) })) 3 9 [⟨0, 4, 0⟩]
/-- The same at a tally counter. -/
def irqTally : State := setTallyQueue (irq (fun c => { c with blocked := some (.tally 9 4) })) 3 9 [⟨4, 0⟩]
/-- Waits that an interrupt ends, for `InterruptsSaveAndVector`. -/
theorem witness_InterruptsSaveAndVector_waits :
    (Machine.Inv irqSem ∧ (coreOf irqSem 3).task ≠ none ∧ (coreOf irqSem 3).suspending = none ∧ csrF irqSem (tileCsr 3 0) 0 1 = 1 ∧
      csrF irqSem (tileCsr 3 0x30) 1 1 = 1 ∧ csrF irqSem (tileCsr 3 0x28) 1 1 = 1 ∧ csrF irqSem (tileCsr 3 0x28) 0 1 = 0 ∧
      (coreOf irqSem 3).blocked = some (.sem 9 4) ∧ semQueue irqSem 3 9 = [⟨0, 4, 0⟩]) ∧
    (Machine.Inv irqTally ∧ (coreOf irqTally 3).task ≠ none ∧ (coreOf irqTally 3).suspending = none ∧ csrF irqTally (tileCsr 3 0) 0 1 = 1 ∧
      csrF irqTally (tileCsr 3 0x30) 1 1 = 1 ∧ csrF irqTally (tileCsr 3 0x28) 1 1 = 1 ∧ csrF irqTally (tileCsr 3 0x28) 0 1 = 0 ∧
      (coreOf irqTally 3).blocked = some (.tally 9 4)) :=
  ⟨⟨inv_of_check _ (by decide +kernel), by decide +kernel⟩, ⟨inv_of_check _ (by decide +kernel), by decide +kernel⟩⟩

end Issuing

namespace Dispatching
def busy16 (s : State) : State := (List.range 16).foldl (fun s i => ctask (16 + i) demoTask s) s
def two (s : State) : State := { s with plans := [(2, some { demoPlan with clusterMask := 3 })] }
def stl : State := withCsrs (recs (withQueue (two (busy16 up)) 1 7 2 1 2)) [(clusterCsr 1 0, 1), (clusterCsr 0 0, 1)]
def busy0 (s : State) : State := (List.range 16).foldl (fun s i => ctask i { demoTask with order := i } s) s
def pre : State := withCsrs (recs (withQueue (two (busy0 up)) 0 7 2 1 2)) [(clusterCsr 0 0, 3)]
def sus1 (f : Core → Core) : State := withCore f
def saved : Task := { demoTask with rcd := { demoTask.rcd with save := mkLoc2 5 0x100 } }
def sus2 : State := withRegion (withCore (fun c => {c with task := some saved, regs := c.regs.set 1 0x1234, suspending := some (true, 0x44), pc := 0x44})) 5 0x10000 1 (2 ^ 44)
def rsm : Suspended := ⟨3, saved, 0, false, [], []⟩
def res1 : State := storeBytes { withRegion (dplan up) 5 0x10000 1 (2 ^ 44) with suspended := [rsm] } 0x10100 (leBytes 8 0x48 ++ [5, 1] ++ leBytes 6 0 ++ leBytes 8 0x10 ++ leBytes 8 0x11 ++ leBytes 8 0xABCDEF)

def w20s1 : State := withQueue (fplan (setCore up 16 {Core.init with task := some demoTask})) 1 7 2 1 2
/-- States and operands that meet the hypotheses of `QueuesAdvanceAndTasksAreStolen`. -/
theorem witness_QueuesAdvanceAndTasksAreStolen :
    (Machine.Inv w20s1 ∧ (w20s1.boot = 0 ∧ (coreOf w20s1 (16#8).toNat).task ≠ none ∧
      ((5#32).toNat + 2 ^ 32 - csrF w20s1 (clusterCsr ((16#8).toNat / 16) (8208 + 32 * (7#8).toNat)) 0 32) % 2 ^ 32 ≤ 2 ^ csrF w20s1 (clusterCsr ((16#8).toNat / 16) (8200 + 32 * (7#8).toNat)) 0 5)) ∧
    (Machine.Inv w20s1 ∧ (w20s1.boot = 0 ∧ (coreOf w20s1 (16#8).toNat).task ≠ none ∧
      2 ^ csrF w20s1 (clusterCsr ((16#8).toNat / 16) (8200 + 32 * (7#8).toNat)) 0 5 < ((6#32).toNat + 2 ^ 32 - csrF w20s1 (clusterCsr ((16#8).toNat / 16) (8208 + 32 * (7#8).toNat)) 0 32) % 2 ^ 32)) ∧
    (Machine.Inv stl ∧ (stl.boot = 0 ∧ csrF stl (clusterCsr (0#4).toNat 0) 0 1 = 1 ∧ dispFrozen stl = false ∧
      (dispOf stl (0#4).toNat).staggerUntil = none ∧
      (List.find? (fun j => tileIdle stl j && pickFor stl j == Pick.nothing) (clusterTiles (0#4).toNat) = some 0) ∧
      victimOf stl (0#4).toNat = some (1, 7) ∧ 7 < 256 ∧ stl.traceLost = 0 ∧ csrF stl (clusterCsr 0 40) 0 1 = 0 ∧ recOk (wqFront stl 1 7) = true)) :=
  ⟨⟨inv_of_check _ (by decide +kernel), by decide +kernel⟩,
   ⟨inv_of_check _ (by decide +kernel), by decide +kernel⟩,
   ⟨inv_of_check _ (by decide +kernel), by decide +kernel⟩⟩

def w21s2 : State := sus1 (fun c => {c with preempt := some 5})
def w21z2 : Machine.Task := demoTask
def w21pc3 : Nat := 0x44
def w21o3 : Nat := 0x100
def w21z3 : Machine.Task := saved
def w21l03 : State := releaseFlush sus2 (agentOf (3#8).toNat 0)
def w21s4 : State := {res1 with disps := [(3, {Disp.init with staggerUntil := some 5})]}
def w21x4 : Suspended := rsm
/-- The tile of cluster 0 that a request of level `h` is made to, in `pre`. -/
def pickOf (h : Nat) : Option Nat := (starved pre (0#4).toNat).findSome? (fun n =>
  if wqLevel pre (0#4).toNat n = h then preemptPick pre ((clusterTiles (0#4).toNat).filter (preemptable pre n h)) else none)
/-- States and operands that meet the hypotheses of `TasksArePreemptedSuspendedAndResumed`. -/
theorem witness_TasksArePreemptedSuspendedAndResumed :
    (Machine.Inv pre ∧ pre.boot = 0 ∧ csrF pre (clusterCsr (0#4).toNat 0) 1 1 = 1 ∧ dispFrozen pre = false ∧
      preemptsOf pre (0#4).toNat < ((starved pre (0#4).toNat).filter (fun n => (clusterTiles (0#4).toNat).any (fun j =>
        ((coreOf pre j).task.map (fun w => decide (w.level < wqLevel pre (0#4).toNat n))).getD false))).length ∧
      pickOf 2 = some (15#8).toNat ∧ (∀ g, g < 8 → 2 < g → pickOf g = none)) ∧
    (Machine.Inv w21s2 ∧ ((coreOf w21s2 (3#8).toNat).preempt = some 5 ∧ (coreOf w21s2 (3#8).toNat).suspending = none ∧
      (coreOf w21s2 (3#8).toNat).task = some w21z2 ∧ w21s2.now ≤ 1000000 ∧ 5 + 1000 * csrF w21s2 (clusterCsr ((3#8).toNat / 16) 0) 3 20 ≤ 1000000) ∧
      (∀ (j : Nat) (w : SemWait), w ∈ semQueue w21s2 (3#8).toNat j → w.who = 0 → ∃ n, (coreOf w21s2 (3#8).toNat).blocked = some (Blocked.sem j n))) ∧
    (Machine.Inv sus2 ∧ ((coreOf sus2 (3#8).toNat).suspending = some (true, w21pc3) ∧ (coreOf sus2 (3#8).toNat).task = some w21z3 ∧
      (coreOf sus2 (3#8).toNat).accs = [] ∧ agentPending w21l03 (agentOf (3#8).toNat 0) = false ∧ enginesStopped w21l03 (3#8).toNat w21z3.id = true) ∧
      locTgt w21l03 w21z3.rcd.save 16384 true = Except.ok (Tgt.dram 5 w21o3)) ∧
    (Machine.Inv w21s4 ∧ (w21s4.boot = 0 ∧ (dispOf w21s4 ((3#8).toNat / 16)).staggerUntil = none ∧ tileIdle w21s4 (3#8).toNat = true ∧
      lowestStart w21s4 (3#8).toNat = true ∧ pickFor w21s4 (3#8).toNat = Pick.resume w21x4 ∧ (dispOf w21s4 (3#4).toNat).staggerUntil = some 5 ∧
      5 ≤ 1000000 ∧ w21s4.now ≤ 1000000)) :=
  ⟨⟨inv_of_check _ (by decide +kernel), by decide +kernel⟩,
   ⟨inv_of_check _ (by decide +kernel), by decide +kernel, fun _ _ h => (List.not_mem_nil h).elim⟩,
   ⟨inv_of_check _ (by decide +kernel), by decide +kernel, ok_of _ _ (by decide +kernel)⟩,
   ⟨inv_of_check _ (by decide +kernel), by decide +kernel⟩⟩

end Dispatching

namespace Foraging
def fq (d : Nat) : State := setFgr up 3 { Fgr.init with queue := [⟨BitVec.ofNat 512 d, 0x40, 5, []⟩, ⟨7, 0x80, 5, []⟩] }
def j1 : Job := { jobNew 0 (qd (1 + 2 ^ 9 + 9 * 2 ^ 16)) with work := [], nextBuf := 1, statsSent := true }
def tb1 : TermBuf := ⟨0, .toSpad 0x100001800040 ⟨[(0x10040, 64)], 0⟩, 1, []⟩
def sl1 : Slot := ⟨0, 0x10040, 64, 0, false, false, [⟨0, 0, 0⟩], false, false⟩
def fl1 : State := storeBytes (withRegion (setFgr up 3 { Fgr.init with jobs := [{ j1 with bufs := [tb1] }], slots := [(6, some sl1)], nextJob := 1 }) 5 0x10000 1 0) 0x10040 [1, 2, 3]

def w22s1 : State := fq 1
def w22rest : List QDesc := [⟨7, 0x80, 5, []⟩]
def w22ops : List (Nat × Instr) := [(1, .gatherRows 3), (2, .walk 3), (3, .sample 3), (4, .scatter 3), (5, .atomic 3), (6, .expand 3),
  (7, .intersectCount 3), (8, .prefetch 3)]
/-- The forager of tile 3 in `s` has begun its first descriptor, as job `x`. -/
def w22begun (s : State) (x : Job) : State :=
  setFgr s 3 { fgrOf s 3 with queue := w22rest, jobs := (fgrOf s 3).jobs ++ [x], nextJob := (fgrOf s 3).nextJob + 1 }
/-- An INTERSECT_COUNT without a graph; an ATOMIC of one 8-byte word at offset 0x300 of region 5. -/
def w22d4 : Nat := 7 + 2 ^ 32
def w22d5 : Nat := 5 + 2 ^ 32 + (mkLoc2 5 0x300).toNat * 2 ^ 128 + 0x77 * 2 ^ 384 + 2 ^ 452
def w22s4 : State := fq w22d4
def w22s5 : State := storeBytes (withRegion (fq w22d5) 5 0x10000 1 (2 ^ 44)) 0x10300 [1, 2, 3]
def w22r4 : Except Stop Start × State :=
  drun (dbegin (fEnv 3 []) (qd w22d4).desc []) (w22begun w22s4 { jobNew (fgrOf w22s4 3).nextJob (qd w22d4) with work := [.begin_] })
/-- States and operands that meet the hypotheses of `ForagerDescriptorsBegin`. -/
theorem witness_ForagerDescriptorsBegin :
    (∀ op ∈ w22ops, Machine.Inv (fq op.1) ∧ (fq op.1).boot = 0 ∧ (fgrOf (fq op.1) 3).stopped = false ∧ (coreOf (fq op.1) 3).suspending = none ∧
      (fgrOf (fq op.1) 3).jobs.length ≤ csrF (fq op.1) (tileCsr 3 0x2000) 17 3 ∧ (fgrOf (fq op.1) 3).queue = qd op.1 :: w22rest ∧
      fdOp (qd op.1).desc = op.1 ∧ (fgrOf (fq op.1) 3).jobs = [] ∧ (cmbOf (fq op.1) 3).dests = []) ∧
    (fdHeader (qd (1 + 2 ^ 10)).desc = false ∧ fdOp (qd (1 + 2 ^ 10)).desc = 1) ∧
    (fdHeader (qd (8 + 2 ^ 258)).desc = true ∧ fdBody (qd (8 + 2 ^ 258)).desc = some 1 ∧ fdOp (qd (8 + 2 ^ 258)).desc = 8) ∧
    (fdHeader (qd 1).desc = true ∧ fdBody (qd 1).desc = none ∧ fdLoc (qd 1).desc 1 = 0 ∧ fdCount (qd 1).desc = 0) := by
  refine ⟨fun op h => ?_, by decide +kernel, by decide +kernel, by decide +kernel⟩
  have hs : w22ops.all (fun op => invCheck (fq op.1) && decide ((fq op.1).boot = 0 ∧ (fgrOf (fq op.1) 3).stopped = false ∧
      (coreOf (fq op.1) 3).suspending = none ∧ (fgrOf (fq op.1) 3).jobs.length ≤ csrF (fq op.1) (tileCsr 3 0x2000) 17 3 ∧
      (fgrOf (fq op.1) 3).queue = qd op.1 :: w22rest ∧ fdOp (qd op.1).desc = op.1 ∧ (fgrOf (fq op.1) 3).jobs = [] ∧
      (cmbOf (fq op.1) 3).dests = [])) = true := by decide +kernel
  have hx := (Bool.and_eq_true _ _).mp (List.all_eq_true.mp hs op h)
  exact ⟨inv_of_check _ hx.1, of_decide_eq_true hx.2⟩

/-- A descriptor whose structures break a rule, for `ForagerDescriptorsBegin`. -/
theorem witness_ForagerDescriptorsBegin_fails :
    Machine.Inv w22s4 ∧ (w22s4.boot = 0 ∧ (fgrOf w22s4 3).queue = qd w22d4 :: w22rest ∧ fdOp (qd w22d4).desc = 7 ∧ (fgrOf w22s4 3).jobs = [] ∧
      (cmbOf w22s4 3).dests = [] ∧ fdHeader (qd w22d4).desc = true ∧ fdBody (qd w22d4).desc = none ∧ fdLoc (qd w22d4).desc 1 = 0 ∧
      fdCount (qd w22d4).desc ≠ 0 ∧ fdTables (qd w22d4).desc = [] ∧ freeSlot w22s4 3 3840 4096 ≠ none ∧ (1 : Nat) < 0x100) ∧
      w22r4 = (.error (.fail 1), w22r4.2) :=
  ⟨inv_of_check _ (by decide +kernel), by decide +kernel, run_error_of _ _ (by decide +kernel)⟩

/-- An ATOMIC of one element, for `ForagerDescriptorsBegin`. -/
theorem witness_ForagerDescriptorsBegin_atomic :
    Machine.Inv w22s5 ∧ (w22s5.boot = 0 ∧ (fgrOf w22s5 3).queue = qd w22d5 :: w22rest ∧ fdOp (qd w22d5).desc = 5 ∧ (fgrOf w22s5 3).jobs = [] ∧
      (cmbOf w22s5 3).dests = [] ∧ fdHeader (qd w22d5).desc = true ∧ fdBody (qd w22d5).desc = none ∧
      ([1, 3, 4, 5].all (fun n => fdLoc (qd w22d5).desc n == 0)) = true ∧ fdCount (qd w22d5).desc = 1 ∧ getB (qd w22d5).desc 452 = true ∧
      locKind (fdLoc (qd w22d5).desc 2) = 2 ∧ 0x300 + 8 ≤ rgnSize w22s5 5 ∧ rgnBase w22s5 5 + 0x300 < 2 ^ 45 ∧ w22s5.ledger.inj = [] ∧
      w22s5.ueSectors = [] ∧ psnAt (flushOverlap w22s5 (3 / 16) (rgnBase w22s5 5 + 0x300) 8) (rgnBase w22s5 5 + 0x300) = false ∧
      freeSlot w22s5 3 0 3840 ≠ none ∧ freeSlot w22s5 3 3840 4096 ≠ none) ∧
      locTgt w22s5 (fdLoc (qd w22d5).desc 2) 1 true = .ok (.dram 5 0x300) ∧
      localTgt w22s5 (rgnBase w22s5 5 + 0x300) 8 true = .ok (.dram 5 0x300) :=
  ⟨inv_of_check _ (by decide +kernel), by decide +kernel, ok_of _ _ (by decide +kernel), ok_of _ _ (by decide +kernel)⟩

def w23x1 : Slot := sl1
def w23j1 : Job := { j1 with bufs := [tb1] }
def w23b1 : TermBuf := tb1
def w23addr1 : Nat := 0x100001800040
def w23o1 : Nat := 0x40
def w23row1 : Row := ⟨[(0x10040, 64)], 0⟩
def w23s2 : State := setFgr up 3 { Fgr.init with jobs := [j1], nextJob := 1 }
def w23j2 : Job := j1
def w23l02 : State := releaseFlush (releaseFlush w23s2 (agentOf (3#8).toNat 1)) (agentOf (3#8).toNat 2)
/-- States and operands that meet the hypotheses of `ForagerRowsLandAndDescriptorsComplete`. -/
theorem witness_ForagerRowsLandAndDescriptorsComplete :
    (Machine.Inv fl1 ∧ (slotOf fl1 (3#8).toNat (6#12).toNat = some w23x1 ∧ w23x1.kind = 0 ∧ w23x1.remote = false ∧ w23x1.install = false ∧
      w23x1.waiters = [{ job := w23j1.num, buf := w23b1.id, piece := 0 }] ∧ (fgrOf fl1 (3#8).toNat).jobs = [w23j1] ∧
      w23j1.work = [] ∧ w23j1.parked = [] ∧ w23j1.statsSent = true ∧ w23j1.wantSlot = none ∧ fdOp w23j1.q.desc ≠ 4 ∧ w23j1.bufs = [w23b1] ∧
      w23b1.work = Work.toSpad w23addr1 w23row1 ∧ w23b1.need = w23b1.got.length + 1 ∧ fl1.ledger.inj = [] ∧
      w23x1.g = globalOf fl1 (w23x1.g % 2 ^ 45)) ∧ localTgt fl1 (w23x1.g % 2 ^ 45) w23x1.len false = Except.ok (Tgt.dram 5 w23o1)) ∧
    (Machine.Inv w23s2 ∧ (jobOf w23l02 (3#8).toNat 0 = some w23j2 ∧ jobComplete w23l02 (3#8).toNat w23j2 = true ∧
      (fgrOf w23s2 (3#8).toNat).jobs = [w23j2] ∧ w23j2.agg = none ∧ w23j2.binds = [] ∧ getB w23j2.q.desc 9 = true ∧ getF w23j2.q.desc 16 12 < 256 ∧
      semQueue w23s2 (3#8).toNat (getF w23j2.q.desc 16 12) = [] ∧ semVal w23s2 (3#8).toNat (getF w23j2.q.desc 16 12) + 1 < 2 ^ 32)) :=
  ⟨⟨inv_of_check _ (by decide +kernel), by decide +kernel, ok_of _ _ (by decide +kernel)⟩,
   ⟨inv_of_check _ (by decide +kernel), by decide +kernel⟩⟩

end Foraging

namespace Combing
def cq (d : Nat) : State := storeBytes (setCmb up 3 { Cmb.init with queue := [qd d, qd 7] }) 0x100001800000 (leBytes 64 aggD)
def ag : Agg := aggOf (BitVec.ofNat 512 aggD)
def cx : Ctx := { num := 4, agg := ag, expect := 0, ids := [100, 101], opening := [], closed := [], descAddr := 0, tag := 5, cache := [], signalled := 0 }
def p0 : PartMsg := ⟨2, 9, 100, 3, 4, leBytes 8 (100 + 2 * 2 ^ 48) ++ leBytes 8 (3 + 4 * 2 ^ 38 + 1 * 2 ^ 44) ++ packElem 0 ⟨77, false, false, false, false, true⟩ ++ packElem 0 ⟨-5, false, false, false, false, true⟩, 0, 0⟩
def d0 : Dest := { owner := 1000004, id := 100, pos := 0, acc := [⟨1, false, false, false, false, true⟩, Acc.empty], den := [], terms := 2, wide := 0, parts := 0, loosePsn := false, left := 0, allKnown := false, words := creditWords ag }
/-- The MERGE_OPEN `d` at the head of tile 3's comb unit, taken up. -/
def s0x (d : Nat) : Machine.State :=
  let sq := setCmb (cq d) 3 { cmbOf (cq d) 3 with queue := [qd 7] }
  setCmb sq 3 { cmbOf sq 3 with busy := some (qd d), cache := [] }
def r1x (d : Nat) : Except Stop (Agg × List Nat) × Machine.State :=
  drun (dmergeOpen ⟨3, [], fun z => if z = .reserved then 1 else 2⟩ (qd d).desc) (s0x d)
def withCx (s : State) (x : Ctx) (ds : List Dest) : State := setCmb s 3 { cmbOf s 3 with ctxs := [x], dests := ds }

def w24s1 : State := cq (mOpen 4)
def w24q1 : QDesc := qd (mOpen 4)
def w24rest1 : List QDesc := [qd 7]
def w24a1 : Agg := ag
def w24ids1 : List Nat := [100, 101]
def w24s2 : State := cq (mOpen 4 + 2 ^ 10)
def w24q2 : QDesc := qd (mOpen 4 + 2 ^ 10)
def w24s3 : State := withCx (cq (mOpen 4)) cx []
def w24s4 : State := withCx { cq (2 + 4 * 2 ^ 32) with partials := [p0]} cx [d0]
def w24x4 : Ctx := cx
def w24q4 : QDesc := qd (2 + 4 * 2 ^ 32)
def w24p4 : PartMsg := p0
def w24d4 : Dest := d0
def w24es4 : List Machine.Acc := ((partialElems ag (p0.row.drop 16)).getD [])
def w24s5 : State := { cq (2 + 4 * 2 ^ 32) with partials := [p0]}
def w24s6 : State := setCmb up 3 { Cmb.init with credits := [⟨1000004, 100, 0, 4, 0⟩], ctxs := [{ cx with opening := [100] }] }
def w24r6 : CreditReq := ⟨1000004, 100, 0, 4, 0⟩
def w24credits6 : List CreditReq := []
def w24x6 : Ctx := { cx with opening := [100] }
def w24r7 : CreditReq := ⟨1000004, 100, 0, 120000, 0⟩
/-- An open accumulator in the middle of the comb store: the request fits, but at no place. -/
def w24s7 : State := setCmb up 3 { Cmb.init with credits := [w24r7], dests := [{ d0 with base := 100000, words := 100000 }] }
/-- States and operands that meet the hypotheses of `CombContextsOpenMergeAndClose`. -/
theorem witness_CombContextsOpenMergeAndClose :
    (Machine.Inv w24s1 ∧ (combHead w24s1 (3#8).toNat 1 = some w24q1 ∧ (cmbOf w24s1 (3#8).toNat).queue = w24q1 :: w24rest1 ∧ getF w24q1.desc 0 8 = 1 ∧
      combLegal w24q1.desc = true ∧ cctxOf w24s1 (3#8).toNat (getF w24q1.desc 32 4) = none) ∧
      r1x (mOpen 4) = (Except.ok (w24a1, w24ids1), (r1x (mOpen 4)).2)) ∧
    (Machine.Inv w24s2 ∧ (combHead w24s2 (3#8).toNat 1 = some w24q2 ∧ (cmbOf w24s2 (3#8).toNat).queue = w24q2 :: w24rest1 ∧
      combLegal w24q2.desc = false)) ∧
    (Machine.Inv w24s3 ∧ (combHead w24s3 (3#8).toNat 1 = some w24q1 ∧ (cmbOf w24s3 (3#8).toNat).queue = w24q1 :: w24rest1 ∧
      combLegal w24q1.desc = true ∧ (cctxOf w24s3 (3#8).toNat (getF w24q1.desc 32 4)).isSome = true)) ∧
    (Machine.Inv w24s4 ∧ ((List.find? (fun y => y.dst == (3#8).toNat) w24s4.partials = some w24p4) ∧ jobOf w24s4 w24p4.src w24p4.owner = none ∧
      w24p4.owner < 1000000 ∧ cctxOf w24s4 (3#8).toNat (ofLE (List.take 8 (List.drop 8 w24p4.row)) / 2 ^ 38 % 16) = some w24x4 ∧ w24x4.expect = 0 ∧
      w24x4.agg.cls < 3 ∧
      (List.find? (fun y => y.owner == 1000000 + ofLE (List.take 8 (List.drop 8 w24p4.row)) / 2 ^ 38 % 16 && y.id == ofLE (List.take 8 w24p4.row) % 2 ^ 40) (cmbOf w24s4 (3#8).toNat).dests = some w24d4) ∧
      partialElems w24x4.agg (List.drop 16 w24p4.row) = some w24es4 ∧ 16 ≤ w24p4.row.length ∧ ofLE (List.take 8 w24p4.row) / 2 ^ 40 % 2 ^ 8 = 0 ∧
      ofLE (List.take 8 w24p4.row) / 2 ^ 61 = 0 ∧ ofLE (List.take 8 w24p4.row) / 2 ^ 48 % 2 ^ 13 = aggTotal w24x4.agg ∧
      ofLE (List.take 8 (List.drop 8 w24p4.row)) / 2 ^ 42 % 2 = 0 ∧ combHead w24s4 (3#8).toNat 2 = some w24q4 ∧
      (cmbOf w24s4 (3#8).toNat).queue = w24q4 :: w24rest1 ∧ combLegal w24q4.desc = true)) ∧
    (Machine.Inv w24s5 ∧ ((List.find? (fun y => y.dst == (3#8).toNat) w24s5.partials = some w24p4) ∧ jobOf w24s5 w24p4.src w24p4.owner = none ∧
      w24p4.owner < 1000000 ∧ cctxOf w24s5 (3#8).toNat (ofLE (List.take 8 (List.drop 8 w24p4.row)) / 2 ^ 38 % 16) = none)) ∧
    (Machine.Inv w24s6 ∧ ((cmbOf w24s6 (3#8).toNat).credits = w24r6 :: w24credits6 ∧ cmbFits w24s6 (3#8).toNat w24r6.words true = true ∧
      w24r6.owner = 1000000 + w24x6.num ∧ cctxOf w24s6 (3#8).toNat w24x6.num = some w24x6 ∧ w24x6.opening = [w24r6.id] ∧
      (cmbOf w24s6 (3#8).toNat).busy = none ∧ cmbPlace w24s6 (3#8).toNat w24r6.words = some 0)) ∧
    (Machine.Inv w24s7 ∧ ((cmbOf w24s7 (3#8).toNat).credits = [w24r7] ∧ cmbFits w24s7 (3#8).toNat w24r7.words true = true ∧
      cmbPlace w24s7 (3#8).toNat w24r7.words = none ∧ (cmbOf w24s7 (3#8).toNat).moving = false)) :=
  ⟨⟨inv_of_check _ (by decide +kernel), by decide +kernel, run_ok_of _ _ (by decide +kernel)⟩,
   ⟨inv_of_check _ (by decide +kernel), by decide +kernel⟩,
   ⟨inv_of_check _ (by decide +kernel), by decide +kernel⟩,
   ⟨inv_of_check _ (by decide +kernel), by decide +kernel⟩,
   ⟨inv_of_check _ (by decide +kernel), by decide +kernel⟩,
   ⟨inv_of_check _ (by decide +kernel), by decide +kernel⟩,
   ⟨inv_of_check _ (by decide +kernel), by decide +kernel⟩⟩

end Combing

namespace Packing

def w26a1 : Machine.Acc := ⟨5, false, false, true, false, false⟩
/-- States and operands that meet the hypotheses of `PackedElementsReadBack`. -/
theorem witness_PackedElementsReadBack :
    ((0 < 3 ∧ -↑(2 ^ (clsBits 0 - 1)) ≤ w26a1.val ∧ w26a1.val < ↑(2 ^ (clsBits 0 - 1)))) :=
  by decide +kernel

/-- R121: a decrease across the boundary of two hub segments is seen in the joined list. -/
theorem test_falls : falls [1, 4, 4, 3] = true ∧ falls [1, 4, 4, 7] = false := by decide

end Packing

namespace Multiplying
def wx : List WBlock := match wblocks (mb mm 1 0) 3 (BitVec.ofNat 512 mm) (mops 1).w 0 with | .ok x => x | _ => []
def wset1 : Nat := wset + K1 0x8000 * 2 ^ 64 + 1 * 2 ^ 132
def mops1 : MatOps := { mops 1 with w := BitVec.ofNat 512 wset1 }
def mb0 : State := setMxe (mb mm 1 0) 3 { mxeOf (mb mm 1 0) 3 with held := [mops1.a, mops1.w, mops1.out] }
def mb1 : State := storeBytes (storeBytes mb0 (S + 64) (leBytes 64 wset1)) (S + 0x8000) [1, 0, 0, 0xFF]

def w27s1 : State := mq (mm + 2 ^ 12) 1
def w27q1 : QDesc := qd (mm + 2 ^ 12)
def w27rest1 : List QDesc := [qd 7]
def w27l01 : State := setMxe w27s1 (3#8).toNat { mxeOf w27s1 (3#8).toNat with queue := w27rest1 }
def w27s2 : State := mb mm 1 0
def w27q2 : QDesc := qd mm
def w27o2 : MatOps := mops 1
def w27xs2 : List WBlock := wx
def w27o3 : MatOps := mops1
def w27s4 : State := mq mm 1
def w27l04 : State := setMxe w27s4 (3#8).toNat { mxeOf w27s4 (3#8).toNat with queue := w27rest1 }
/-- States and operands that meet the hypotheses of `MatmulWritesItsOutputBlocks`. -/
theorem witness_MatmulWritesItsOutputBlocks :
    (Machine.Inv w27s1 ∧ (w27s1.ledger.inj = [] ∧ (mxeOf w27s1 (3#8).toNat).queue = w27q1 :: w27rest1 ∧ w27s1.boot = 0 ∧
      (mxeOf w27s1 (3#8).toNat).stopped = false ∧ (mxeOf w27s1 (3#8).toNat).busy = none ∧ (coreOf w27s1 (3#8).toNat).suspending = none) ∧
      drun (dmatmul (3#8).toNat w27q1.desc) w27l01 = (Except.error (Stop.fail 1), w27l01)) ∧
    (Machine.Inv w27s2 ∧ (w27s2.ledger.inj = [] ∧ (mxeOf w27s2 (3#8).toNat).busy = some w27q2 ∧ (mxeOf w27s2 (3#8).toNat).waiting = false) ∧
      drun (dmatmul (3#8).toNat w27q2.desc) w27s2 = (Except.ok w27o2, w27s2) ∧
      (heldOps (mxeOf w27s2 (3#8).toNat) = w27o2 ∧ matSpoilt w27s2 (3#8).toNat w27q2 w27o2 = false) ∧
      wblocks w27s2 (3#8).toNat w27q2.desc w27o2.w ((mxeOf w27s2 (3#8).toNat).block % (mdOut w27q2.desc).snd) = Except.ok w27xs2 ∧
      (mdOutq w27q2.desc = false ∧ (mxeOf w27s2 (3#8).toNat).undef = false ∧ outOverlaps w27o2.out = false)) ∧
    (Machine.Inv mb1 ∧ (mb1.ledger.inj = [] ∧ (mxeOf mb1 (3#8).toNat).busy = some w27q2 ∧ (mxeOf mb1 (3#8).toNat).waiting = false) ∧
      drun (dmatmul (3#8).toNat w27q2.desc) mb1 = (Except.ok w27o3, mb1) ∧
      (heldOps (mxeOf mb1 (3#8).toNat) = w27o3 ∧ matSpoilt mb1 (3#8).toNat w27q2 w27o3 = false) ∧
      wblocks mb1 (3#8).toNat w27q2.desc w27o3.w ((mxeOf mb1 (3#8).toNat).block % (mdOut w27q2.desc).snd) = Except.error 4) ∧
    (Machine.Inv w27s4 ∧ (w27s4.ledger.inj = [] ∧ (mxeOf w27s4 (3#8).toNat).queue = w27q2 :: w27rest1 ∧ w27s4.boot = 0 ∧
      (mxeOf w27s4 (3#8).toNat).stopped = false ∧ (mxeOf w27s4 (3#8).toNat).busy = none ∧ (coreOf w27s4 (3#8).toNat).suspending = none) ∧
      drun (dmatmul (3#8).toNat w27q2.desc) w27l04 = (Except.ok w27o2, w27l04)) :=
  ⟨⟨inv_of_check _ (by decide +kernel), by decide +kernel, run_error_at _ _ _ (by decide +kernel) (by decide +kernel)⟩,
   ⟨inv_of_check _ (by decide +kernel), by decide +kernel, run_ok_at _ _ _ (by decide +kernel) (by decide +kernel), by decide +kernel, ok_self _ (by decide +kernel), by decide +kernel⟩,
   ⟨inv_of_check _ (by decide +kernel), by decide +kernel, run_ok_at _ _ _ (by decide +kernel) (by decide +kernel), by decide +kernel, error_of _ _ (by decide +kernel)⟩,
   ⟨inv_of_check _ (by decide +kernel), by decide +kernel, run_ok_at _ _ _ (by decide +kernel) (by decide +kernel)⟩⟩

/-- R230: a write of an engine to the activations of a MATMUL in progress is noted and spoils it; one elsewhere does not. -/
theorem test_write_spoils_a_matmul_in_progress :
    matSpoilt (stageNote (mb mm 1 0) (S + 0x1004) 4) 3 (qd mm) (mops 1) = true ∧
    matSpoilt (stageNote (mb mm 1 0) (S + 0x6000) 4) 3 (qd mm) (mops 1) = false := by decide +kernel

end Multiplying

namespace Vectors
def ring : Nat := chain + 2 ^ 14 + 9 * 2 ^ 96 + 10 * 2 ^ 84
def cidx : Nat := chain + 2 * 2 ^ 12 + 2 * 2 ^ 320
def cst : State := vmem 1 0 (K1 0x17FFFC) (K1 0x200) (setVec up 3 { Vec.init with queue := [qd cidx, qd 7] })
def rb (g : Bool) : State := vst (fun v => { v with queue := [qd 7], busy := some (qd ring), granted := g }) 32
def rdy : State := vst (fun v => { v with queue := [qd 7], busy := some (qd (chain + 2 ^ 9 + 9 * 2 ^ 16)), ready := true }) 1

/-- Tile 3's vector engine in `s` without the head of its queue; the reading of the descriptor `d` at that head; and the engine at work on it. -/
def w28pop (s : State) : State := setVec s 3 { vecOf s 3 with queue := [qd 7] }
def w28run (d : Nat) (s : State) : Except Stop VecOps × State := drun (dvector 3 (qd d).desc (qd d).caps) (w28pop s)
def w28at (d : Nat) (s : State) : State :=
  setVec (w28run d s).2 3 { vecOf (w28run d s).2 3 with
    busy := some (qd d), block := 0, waiting := false, granted := false, ready := false, counts := List.replicate 7 0, psnSent := false }
/-- The rows `lo` to `hi` of block `b`, run from `s`. -/
def w28rows (o : VecOps) (b lo hi : Nat) (s : State) : VRun × State := vecRows 3 (vecEcc 3 o b lo hi s).1 b lo hi (vecEcc 3 o b lo hi s).2
def w28s1 : State := vq chain 1
def w28rest1 : List QDesc := [qd 7]
def w28o1 : VecOps := vo chain (vq chain 1)
def w28s2 : State := vq (chain + 2 ^ 15) 1
def w28s3 : State := vq ring 32
def w28o3 : VecOps := vo ring (vq ring 32)
def w28o4 : VecOps := vo cidx cst
def w28s5 : State := rb false
def w28o5 : VecOps := vo ring (rb false)
def w28s6 : State := rb true
def w28o6 : VecOps := vo ring (rb true)
def w28q7 : QDesc := qd (chain + 2 ^ 9 + 9 * 2 ^ 16)
/-- The engine of tile 3 in `s` is ready to begin the descriptor `d`. -/
def w28begins (d : Nat) (soft : Bool) (s : State) : Bool :=
  decide ((vecOf s 3).queue = qd d :: w28rest1 ∧ s.boot = 0 ∧ (vecOf s 3).stopped = false ∧ (vecOf s 3).busy = none ∧
    (coreOf s 3).suspending = none ∧ getF (qd d).desc 0 8 = (if soft then 2 else 1))
/-- States and operands that meet the hypotheses of `VectorDescriptorsRun`. -/
theorem witness_VectorDescriptorsRun :
    (Machine.Inv w28s1 ∧ (w28begins chain false w28s1 = true ∧ vdRing (qd chain).desc = false ∧
      (w28rows w28o1 0 0 w28o1.rows (w28at chain w28s1)).1.cause = none ∧ vdLoc (qd chain).desc 4 = 0) ∧
      w28run chain w28s1 = (.ok w28o1, (w28run chain w28s1).2)) ∧
    (Machine.Inv w28s2 ∧ w28begins (chain + 2 ^ 15) false w28s2 = true ∧
      w28run (chain + 2 ^ 15) w28s2 = (.error (.fail 1), (w28run (chain + 2 ^ 15) w28s2).2)) ∧
    (Machine.Inv (vq 2 1) ∧ w28begins 2 true (vq 2 1) = true ∧ w28run 2 (vq 2 1) = (.error (.fail 1), (w28run 2 (vq 2 1)).2)) ∧
    (Machine.Inv w28s3 ∧ (w28begins ring false w28s3 = true ∧ vdRing (qd ring).desc = true) ∧ w28run ring w28s3 = (.ok w28o3, (w28run ring w28s3).2)) ∧
    (Machine.Inv cst ∧ (w28begins cidx false cst = true ∧ vdRing (qd cidx).desc = false ∧
      (w28rows w28o4 0 0 w28o4.rows (w28at cidx cst)).1.cause = some 2) ∧ w28run cidx cst = (.ok w28o4, (w28run cidx cst).2)) ∧
    (Machine.Inv w28s5 ∧ ((vecOf w28s5 3).busy = some (qd ring) ∧ (vecOf w28s5 3).waiting = false ∧ (vecOf w28s5 3).ready = false ∧
      vdRing (qd ring).desc = true ∧ (vecOf w28s5 3).granted = false ∧
      (semQueue w28s5 3 (vdFull (qd ring).desc) ≠ [] ∨ semVal w28s5 3 (vdFull (qd ring).desc) = 0)) ∧
      drun (dvector 3 (qd ring).desc (qd ring).caps) w28s5 = (.ok w28o5, w28s5)) ∧
    (Machine.Inv w28s6 ∧ ((vecOf w28s6 3).busy = some (qd ring) ∧ (vecOf w28s6 3).waiting = false ∧ (vecOf w28s6 3).ready = false ∧
      vdRing (qd ring).desc = true ∧ (vecOf w28s6 3).granted = true ∧
      (w28rows w28o6 (vecOf w28s6 3).block (32 * (vecOf w28s6 3).block) (min (32 * (vecOf w28s6 3).block + 32) w28o6.rows) w28s6).1.cause = none ∧
      vdLoc (qd ring).desc 4 = 0) ∧ drun (dvector 3 (qd ring).desc (qd ring).caps) w28s6 = (.ok w28o6, w28s6)) ∧
    (Machine.Inv rdy ∧ ((vecOf rdy 3).busy = some w28q7 ∧ (vecOf rdy 3).ready = true ∧
      agentPending (releaseFlush rdy (agentOf 3 4)) (agentOf 3 4) = false ∧ getB w28q7.desc 9 = true ∧ getF w28q7.desc 16 12 < 256 ∧
      semQueue rdy 3 (getF w28q7.desc 16 12) = [] ∧ semVal rdy 3 (getF w28q7.desc 16 12) + 1 < 2 ^ 32)) :=
  ⟨⟨inv_of_check _ (by decide +kernel), by decide +kernel, run_ok_of _ _ (by decide +kernel)⟩,
   ⟨inv_of_check _ (by decide +kernel), by decide +kernel, run_error_of _ _ (by decide +kernel)⟩,
   ⟨inv_of_check _ (by decide +kernel), by decide +kernel, run_error_of _ _ (by decide +kernel)⟩,
   ⟨inv_of_check _ (by decide +kernel), by decide +kernel, run_ok_of _ _ (by decide +kernel)⟩,
   ⟨inv_of_check _ (by decide +kernel), by decide +kernel, run_ok_of _ _ (by decide +kernel)⟩,
   ⟨inv_of_check _ (by decide +kernel), by decide +kernel, run_ok_at _ _ _ (by decide +kernel) (by decide +kernel)⟩,
   ⟨inv_of_check _ (by decide +kernel), by decide +kernel, run_ok_at _ _ _ (by decide +kernel) (by decide +kernel)⟩,
   ⟨inv_of_check _ (by decide +kernel), by decide +kernel⟩⟩

end Vectors

namespace Streaming
def wPred : Nat := 7 + 1 * 2 ^ 9

def w29s1 : State := T [wLoop 1 3, wEnd, wEnd]
def w29x1 : Machine.Stream := wI [wLoop 1 3, wEnd, wEnd]
def w29w1 : Word := BitVec.ofNat 64 (wLoop 1 3)
def w29s2 : State := T [wLoop 1 0, wEnd, wEnd]
def w29x2 : Machine.Stream := wI [wLoop 1 0, wEnd, wEnd]
def w29w2 : Word := BitVec.ofNat 64 (wLoop 1 0)
def w29s3 : State := T [wAdd 1 8, wEnd]
def w29x3 : Machine.Stream := wI [wAdd 1 8, wEnd]
def w29w3 : Word := BitVec.ofNat 64 (wAdd 1 8)
def w29v3 : Word := BitVec.ofNat 64 (K1 0x4008)
def w29s4 : State := T [wAdd 2 (2 ^ 40 - 1), wEnd]
def w29x4 : Machine.Stream := wI [wAdd 2 (2 ^ 40 - 1), wEnd]
def w29w4 : Word := BitVec.ofNat 64 (wAdd 2 (2 ^ 40 - 1))
def w29s5 : State := T [wLd 1 1, wEnd]
def w29x5 : Machine.Stream := wI [wLd 1 1, wEnd]
def w29w5 : Word := BitVec.ofNat 64 (wLd 1 1)
def w29g5 : Tgt := .spad (S + 0x4000)
def w29s6 : State := T [wLd 1 1, wEnd] (2 ^ 33)
def w29x6 : Machine.Stream := wI [wLd 1 1, wEnd] (2 ^ 33)
def w29x12 : Machine.Stream := { w29x6 with indexing := true }
def w29s12 : State := prt4 w29x12
def w29s7 : State := withCsrs (T [wWait, wEnd]) [(semAddr 3 9, 1)]
def w29x7 : Machine.Stream := wI [wWait, wEnd]
def w29w7 : Word := BitVec.ofNat 64 wWait
def w29s8 : State := T [wWait, wEnd]
def w29s9 : State := T [wWait, wEnd] (5 * 2 ^ 424)
def w29x9 : Machine.Stream := wI [wWait, wEnd] (5 * 2 ^ 424)
def w29s10 : State := T [wPred, wEnd, wEnd, wEnd]
def w29x10 : Machine.Stream := wI [wPred, wEnd, wEnd, wEnd]
def w29w10 : Word := BitVec.ofNat 64 wPred
def w29s11 : State := T [wEnd]
def w29x11 : Machine.Stream := wI [wEnd]
def w29w11 : Word := BitVec.ofNat 64 wEnd
/-- States and operands that meet the hypotheses of `WaybillControlInstructions`. -/
theorem witness_WaybillControlInstructions :
    (Machine.Inv w29s1 ∧ (wayNext w29s1 (3#8).toNat (4#4).toNat 1 = some (w29x1, w29w1) ∧ 0 < wiLoopLen w29w1 ∧ 0 < wiCount w29w1)) ∧
    (Machine.Inv w29s2 ∧ (wayNext w29s2 (3#8).toNat (4#4).toNat 1 = some (w29x2, w29w2) ∧ wiCount w29w2 = 0)) ∧
    (Machine.Inv w29s3 ∧ (wayNext w29s3 (3#8).toNat (4#4).toNat 2 = some (w29x3, w29w3) ∧ regMove w29x3 (wiReg w29w3) (wiImm w29w3) = some w29v3)) ∧
    (Machine.Inv w29s4 ∧ (wayNext w29s4 (3#8).toNat (4#4).toNat 2 = some (w29x4, w29w4) ∧ regMove w29x4 (wiReg w29w4) (wiImm w29w4) = none ∧
      (prtOf w29s4 (3#8).toNat).restore = [])) ∧
    (Machine.Inv w29s5 ∧ (wayNext w29s5 (3#8).toNat (4#4).toNat 3 = some (w29x5, w29w5) ∧ pdHost w29x5.q.desc (wiReg w29w5) = false) ∧
      (locTgt w29s5 (w29x5.a.getD (wiReg w29w5) 0) (if getB w29w5 6 = true then 8 else 4) false = Except.ok w29g5) ∧
      (∀ (d y : Nat), w29g5 ≠ Tgt.peer d y) ∧ (locAdd (w29x5.a.getD (wiReg w29w5) 0) ↑(if getB w29w5 6 = true then 8 else 4) = some w29v3)) ∧
    (Machine.Inv w29s6 ∧ (wayNext w29s6 (3#8).toNat (4#4).toNat 3 = some (w29x6, w29w5) ∧ pdHost w29x6.q.desc (wiReg w29w5) = true)) ∧
    (Machine.Inv w29s7 ∧ (wayNext w29s7 (3#8).toNat (4#4).toNat 6 = some (w29x7, w29w7) ∧ beforeResume w29x7 = false ∧
      semQueue w29s7 (3#8).toNat (wiSem w29w7) = [] ∧ 1 ≤ semVal w29s7 (3#8).toNat (wiSem w29w7))) ∧
    (Machine.Inv w29s8 ∧ (wayNext w29s8 (3#8).toNat (4#4).toNat 6 = some (w29x7, w29w7) ∧ beforeResume w29x7 = false ∧
      (semQueue w29s8 (3#8).toNat (wiSem w29w7) ≠ [] ∨ semVal w29s8 (3#8).toNat (wiSem w29w7) = 0))) ∧
    (Machine.Inv w29s9 ∧ (wayNext w29s9 (3#8).toNat (4#4).toNat 6 = some (w29x9, w29w7) ∧ beforeResume w29x9 = true)) ∧
    (Machine.Inv w29s10 ∧ wayNext w29s10 (3#8).toNat (4#4).toNat 7 = some (w29x10, w29w10)) ∧
    (Machine.Inv w29s11 ∧ wayNext w29s11 (3#8).toNat (4#4).toNat 8 = some (w29x11, w29w11)) ∧
    (Machine.Inv w29s12 ∧ ctxOf w29s12 (3#8).toNat (4#4).toNat = some w29x12 ∧ w29x12.way.getD w29x12.wpos 0 = w29w5 ∧ wiOp w29w5 = 3 ∧
      w29x12.indexing = true ∧ pdHost w29x12.q.desc (wiReg w29w5) = true ∧ w29x12.chunks = [] ∧ (0#32).toNat = w29x12.emits ∧
      ([1, 2, 3, 4, 5, 6, 7, 8] : List Byte).length = (if getB w29w5 6 then 8 else 4) ∧ w29s12.now ≤ 77) :=
  ⟨⟨inv_of_check _ (by decide +kernel), by decide +kernel⟩,
   ⟨inv_of_check _ (by decide +kernel), by decide +kernel⟩,
   ⟨inv_of_check _ (by decide +kernel), by decide +kernel⟩,
   ⟨inv_of_check _ (by decide +kernel), by decide +kernel⟩,
   ⟨inv_of_check _ (by decide +kernel), by decide +kernel, ok_of _ _ (by decide +kernel), fun _ _ h => Tgt.noConfusion h, by decide +kernel⟩,
   ⟨inv_of_check _ (by decide +kernel), by decide +kernel⟩,
   ⟨inv_of_check _ (by decide +kernel), by decide +kernel⟩,
   ⟨inv_of_check _ (by decide +kernel), by decide +kernel⟩,
   ⟨inv_of_check _ (by decide +kernel), by decide +kernel⟩,
   ⟨inv_of_check _ (by decide +kernel), by decide +kernel⟩,
   ⟨inv_of_check _ (by decide +kernel), by decide +kernel⟩,
   ⟨inv_of_check _ (by decide +kernel), by decide +kernel⟩⟩

def w30s1 : State := sq 0
def w30q1 : QDesc := pdq 0
def w30ws1 : List Word := W ws2
def w30s2 : State := sq (2 ^ 11)
def w30q2 : QDesc := pdq (2 ^ 11)
/-- The reading of the waybill of `q`, which is at tile 3's porter in `s`. -/
def w30way (s : State) (q : QDesc) : Except Nat (List Word) × State :=
  wayRead (setPrt s 3 { prtOf s 3 with queue := (prtOf s 3).queue.erase q }) 3 (pdWay q.desc) 32 0
/-- A waybill whose first word has a reserved opcode. -/
def w30ws10 : List Word := W [9, wEnd]
def w30s10 : State := way [9, wEnd] (sq 0)
theorem alone_of (s : State) (x : Machine.Stream) (h : (prtOf s 3).ctxs = [(4, some x)]) : ∀ j, j ≠ 4 → ctxOf s 3 j = none := by
  intro j hj
  simp only [ctxOf, h, tabGet]
  split <;> simp [Ne.symm hj]
def w30s3 : State := T ws2
def w30x3 : Machine.Stream := wI ws2
def w30x13 : Machine.Stream := afterE
def w30w3 : Word := BitVec.ofNat 64 (wEmit 64 0)
def w30src3 : Nat := S + 0x1000
def w30dst3 : Nat := S + 0x4000
def w30s4 : State := T [wSig, wEnd]
def w30x4 : Machine.Stream := wI [wSig, wEnd]
def w30w4 : Word := BitVec.ofNat 64 wSig
def w30l04 : State := releaseFlush w30s4 (prtAgent (3#8).toNat (4#4).toNat)
def w30s5 : State := T [wSig, wEnd] 0 (fun x => { x with emits := 1, chunks := [ck 64 0] })
def w30x5 : Machine.Stream := wI [wSig, wEnd] 0 (fun x => { x with emits := 1, chunks := [ck 64 0] })
def w30c05 : Chunk := ck 64 0
def w30s6 : State := storeBytes (prt4 (one id (ck 8 0))) (S + 0x1000) [1,2,3,4,5,6,7,8]
def w30x6 : Machine.Stream := one id (ck 8 0)
def w30c06 : Chunk := ck 8 0
def w30s7 : State := storeBytes (prt4 (one id {ck 8 0 with dstHost := true})) (S + 0x1000) [1,2,3,4,5,6,7,8]
def w30x7 : Machine.Stream := one id {ck 8 0 with dstHost := true}
def w30c07 : Chunk := {ck 8 0 with dstHost := true}
def w30s8 : State := prt4 (fin 0)
def w30x8 : Machine.Stream := fin 0
def w30l08 : State := releaseFlush w30s8 (prtAgent (3#8).toNat (4#4).toNat)
def w30s9 : State := prt4 (fin (2 ^ 9 + 7 * 2 ^ 16))
def w30x9 : Machine.Stream := fin (2 ^ 9 + 7 * 2 ^ 16)
def w30l09 : State := releaseFlush w30s9 (prtAgent (3#8).toNat (4#4).toNat)
/-- States and operands that meet the hypotheses of `StreamsMoveTheirChunks`. -/
theorem witness_StreamsMoveTheirChunks :
    (Machine.Inv w30s1 ∧ ((List.find? (fun y => pdCtx y.desc == (4#4).toNat) (prtOf w30s1 (3#8).toNat).queue = some w30q1) ∧ w30s1.boot = 0 ∧
      (coreOf w30s1 (3#8).toNat).suspending = none ∧ ctxOf w30s1 (3#8).toNat (4#4).toNat = none ∧ (¬(4#4).toNat ∈ (prtOf w30s1 (3#8).toNat).stopped) ∧
      pdLegal w30q1.desc = true) ∧ w30way w30s1 w30q1 = (Except.ok w30ws1, (w30way w30s1 w30q1).2) ∧ wayLegal w30ws1 = true) ∧
    (Machine.Inv w30s2 ∧ ((List.find? (fun y => pdCtx y.desc == (4#4).toNat) (prtOf w30s2 (3#8).toNat).queue = some w30q2) ∧ w30s2.boot = 0 ∧
      (coreOf w30s2 (3#8).toNat).suspending = none ∧ ctxOf w30s2 (3#8).toNat (4#4).toNat = none ∧
      (¬(4#4).toNat ∈ (prtOf w30s2 (3#8).toNat).stopped)) ∧
      pdLegal w30q2.desc = false ∧ (prtOf w30s2 (3#8).toNat).restore = []) ∧
    (Machine.Inv w30s10 ∧ ((prtOf w30s10 (3#8).toNat).queue.find? (fun y => pdCtx y.desc == (4#4).toNat) = some w30q1 ∧ w30s10.boot = 0 ∧
      (coreOf w30s10 (3#8).toNat).suspending = none ∧ ctxOf w30s10 (3#8).toNat (4#4).toNat = none ∧ (4#4).toNat ∉ (prtOf w30s10 (3#8).toNat).stopped ∧
      pdLegal w30q1.desc = true ∧ wayLegal w30ws10 = false ∧ (prtOf w30s10 (3#8).toNat).restore = []) ∧
      w30way w30s10 w30q1 = (Except.ok w30ws10, (w30way w30s10 w30q1).2)) ∧
    (Machine.Inv w30s3 ∧ (wayNext w30s3 (3#8).toNat (4#4).toNat 4 = some (w30x3, w30w3) ∧ w30x3.chunks = [] ∧ w30x3.sigs = [] ∧
      pdResume w30x3.q.desc ≤ w30x3.emits) ∧ emitSide w30s3 w30x3 (wiReg w30w3) (getB w30w3 8) (wiLen w30w3) false = Except.ok (w30src3, false) ∧
      emitSide w30s3 w30x3 (wiDst w30w3) (getB w30w3 9) (wiLen w30w3) true = Except.ok (w30dst3, false) ∧ (w30src3 / 2 ^ 45 = ownId w30s3 ∧
      w30dst3 / 2 ^ 45 = ownId w30s3 ∧
      (emitPost { q := w30x3.q, way := w30x3.way, wpos := w30x3.wpos, loops := w30x3.loops, x := w30x3.x, a := w30x3.a, emits := w30x3.emits, chunks := [{ n := w30x3.emits, src := w30src3, srcHost := false, dst := w30dst3, dstHost := false, len := wiLen w30w3, deadline := if (getB w30x3.q.desc 10 && wiDl w30w3 != 0) = true then some (w30x3.begin_ + 1000 * wiDl w30w3) else none, next := 0, out := 0, data := [] }], sigs := w30x3.sigs, begin_ := w30x3.begin_, waitSem := w30x3.waitSem, indexing := w30x3.indexing, ended := w30x3.ended, failAt := w30x3.failAt, lastProgress := w30x3.lastProgress } w30w3 = some w30x13)) ∧
      (∀ j, j ≠ (4#4).toNat → ctxOf w30s3 (3#8).toNat j = none)) ∧
    (Machine.Inv w30s4 ∧ (wayNext w30s4 (3#8).toNat (4#4).toNat 5 = some (w30x4, w30w4) ∧ beforeResume w30x4 = false ∧ getB w30w4 16 = false ∧
      w30x4.sigs = [] ∧ w30x4.chunks = [] ∧ agentPending w30l04 (prtAgent (3#8).toNat (4#4).toNat) = false ∧ wiSem w30w4 < 256 ∧
      semQueue w30s4 (3#8).toNat (wiSem w30w4) = [] ∧ semVal w30s4 (3#8).toNat (wiSem w30w4) + 1 < 2 ^ 32) ∧
      (∀ j, j ≠ (4#4).toNat → ctxOf w30s4 (3#8).toNat j = none)) ∧
    (Machine.Inv w30s5 ∧ (wayNext w30s5 (3#8).toNat (4#4).toNat 5 = some (w30x5, w30w4) ∧ beforeResume w30x5 = false ∧ getB w30w4 16 = false ∧
      w30x5.sigs = [] ∧ w30x5.chunks = [w30c05] ∧ chunkPeer w30s5 w30c05 = false ∧ w30c05.n < w30x5.emits) ∧
      (∀ j, j ≠ (4#4).toNat → ctxOf w30s5 (3#8).toNat j = none)) ∧
    (Machine.Inv w30s6 ∧ (ctxOf w30s6 (3#8).toNat (4#4).toNat = some w30x6 ∧ w30x6.chunks = [w30c06] ∧ w30x6.sigs = [] ∧ w30x6.failAt = none ∧
      w30c06.n = (0#32).toNat ∧ w30c06.out = 0 ∧ w30c06.srcHost = false ∧ w30c06.deadline = none ∧ w30s6.now ≤ 77 ∧ w30s6.ledger.inj = [] ∧
      w30c06.src / 2 ^ 45 = ownId w30s6 ∧ localAt w30s6 w30c06.src w30c06.len false = some (Tgt.spad w30src3) ∧ w30c06.dstHost = false ∧
      w30c06.dst / 2 ^ 45 = ownId w30s6 ∧ localAt w30s6 w30c06.dst w30c06.len true = some (Tgt.spad w30dst3)) ∧
      (∀ j, j ≠ (4#4).toNat → ctxOf w30s6 (3#8).toNat j = none)) ∧
    (Machine.Inv w30s7 ∧ (ctxOf w30s7 (3#8).toNat (4#4).toNat = some w30x7 ∧ w30x7.chunks = [w30c07] ∧ w30x7.sigs = [] ∧ w30x7.failAt = none ∧
      w30c07.n = (0#32).toNat ∧ w30c07.out = 0 ∧ w30c07.srcHost = false ∧ w30c07.deadline = none ∧ w30s7.now ≤ 77 ∧ w30s7.ledger.inj = [] ∧
      w30c07.src / 2 ^ 45 = ownId w30s7 ∧ localAt w30s7 w30c07.src w30c07.len false = some (Tgt.spad w30src3) ∧ w30c07.dstHost = true) ∧
      (∀ j, j ≠ (4#4).toNat → ctxOf w30s7 (3#8).toNat j = none)) ∧
    (Machine.Inv w30s8 ∧ (ctxOf w30s8 (3#8).toNat (4#4).toNat = some w30x8 ∧ w30x8.ended = true ∧ w30x8.failAt = none ∧ w30x8.chunks = [] ∧
      w30x8.sigs = [] ∧ (∀ (r : Req), r ∈ w30l08.reqs → r.cont ≠ Cont.waySig (3#8).toNat (4#4).toNat) ∧
      agentPending w30l08 (prtAgent (3#8).toNat (4#4).toNat) = false ∧ (prtOf w30s8 (3#8).toNat).restore = [] ∧ getB w30x8.q.desc 9 = false)) ∧
    (Machine.Inv w30s9 ∧ (ctxOf w30s9 (3#8).toNat (4#4).toNat = some w30x9 ∧ w30x9.ended = true ∧ w30x9.failAt = none ∧ w30x9.chunks = [] ∧
      w30x9.sigs = [] ∧ (∀ (r : Req), r ∈ w30l09.reqs → r.cont ≠ Cont.waySig (3#8).toNat (4#4).toNat) ∧
      agentPending w30l09 (prtAgent (3#8).toNat (4#4).toNat) = false ∧ (prtOf w30s9 (3#8).toNat).restore = [] ∧ getB w30x9.q.desc 9 = true ∧
      getF w30x9.q.desc 16 12 < 256 ∧ semQueue w30s9 (3#8).toNat (getF w30x9.q.desc 16 12) = [] ∧
      semVal w30s9 (3#8).toNat (getF w30x9.q.desc 16 12) + 1 < 2 ^ 32)) :=
  ⟨⟨inv_of_check _ (by decide +kernel), by decide +kernel, run_ok_of _ _ (by decide +kernel), by decide +kernel⟩,
   ⟨inv_of_check _ (by decide +kernel), by decide +kernel⟩,
   ⟨inv_of_check _ (by decide +kernel), by decide +kernel, run_ok_of _ _ (by decide +kernel)⟩,
   ⟨inv_of_check _ (by decide +kernel), by decide +kernel, ok_of _ _ (by decide +kernel), ok_of _ _ (by decide +kernel), by decide +kernel, alone_of _ _ (by decide +kernel : _ = [(4, some w30x3)])⟩,
   ⟨inv_of_check _ (by decide +kernel), by decide +kernel, alone_of _ _ (by decide +kernel : _ = [(4, some w30x4)])⟩,
   ⟨inv_of_check _ (by decide +kernel), by decide +kernel, alone_of _ _ (by decide +kernel : _ = [(4, some w30x5)])⟩,
   ⟨inv_of_check _ (by decide +kernel), by decide +kernel, alone_of _ _ (by decide +kernel : _ = [(4, some w30x6)])⟩,
   ⟨inv_of_check _ (by decide +kernel), by decide +kernel, alone_of _ _ (by decide +kernel : _ = [(4, some w30x7)])⟩,
   ⟨inv_of_check _ (by decide +kernel), by decide +kernel⟩,
   ⟨inv_of_check _ (by decide +kernel), by decide +kernel⟩⟩

def w31s1 : State := storeBytes (prt4 (one (fun x => {x with emits := 3}) hc)) (S + 0x4000) [1,2,3,4,5,6,7,8,9]
def w31x1 : Machine.Stream := one (fun x => {x with emits := 3}) hc
def w31c01 : Chunk := hc
def w31pb1 : Nat := S + 0x4000
def w31s2 : State := prt4 (one id (ck 8 0))
def w31x2 : Machine.Stream := one id (ck 8 0)
/-- States and operands that meet the hypotheses of `StreamsStopOnFailure`. -/
theorem witness_StreamsStopOnFailure :
    (Machine.Inv w31s1 ∧ (ctxOf w31s1 (3#8).toNat (4#4).toNat = some w31x1 ∧ (prtOf w31s1 (3#8).toNat).restore = [] ∧ w31x1.chunks = [w31c01] ∧
      w31x1.sigs = [] ∧ w31x1.failAt = none ∧ w31x1.waitSem = none ∧ w31c01.n = (2#32).toNat ∧ w31c01.n < w31x1.emits ∧ w31c01.srcHost = true ∧
      (∀ (r : Req), r ∈ w31s1.reqs → r.cont ≠ Cont.waySig (3#8).toNat (4#4).toNat) ∧ w31c01.dstHost = false ∧ w31c01.dst / 2 ^ 45 = ownId w31s1 ∧
      localAt w31s1 w31c01.dst w31c01.len true = some (Tgt.spad w31pb1))) ∧
    (Machine.Inv w31s2 ∧ (ctxOf w31s2 (3#8).toNat (4#4).toNat = some w31x2 ∧ (prtOf w31s2 (3#8).toNat).restore = [] ∧ w31s2.now ≤ 100000000 ∧
      stallHeld w31s2 (3#8).toNat (4#4).toNat w31x2 = false ∧ w31x2.lastProgress + polVal w31s2 17 * 1000000 ≤ 100000000)) :=
  ⟨⟨inv_of_check _ (by decide +kernel), by decide +kernel⟩,
   ⟨inv_of_check _ (by decide +kernel), by decide +kernel⟩⟩

end Streaming

namespace Phases

def w32s1 : State := pp [lp 0 3 1, 1, 4]
def w32p1 : Plan := pr [lp 0 3 1, 1, 4]
def w32r1 : Run := demoRun
def w32e1 : BitVec 256 := e0 (lp 0 3 1)
def w32s2 : State := pp [lp 0 0 1, 1, 4]
def w32p2 : Plan := pr [lp 0 0 1, 1, 4]
def w32e2 : BitVec 256 := e0 (lp 0 0 1)
def w32s3 : State := sealed 100 100
def w32p3 : Plan := { prog [3 + 3 * 2 ^ 8, 4] with delta := [dl 100], regions := [5], run := some demoRun }
def w32e3 : BitVec 256 := e0 (3 + 3 * 2 ^ 8)
def w32d3 : BitVec 128 := dl 100
def w32s4 : State := sealed 100 101
def w32s5 : State := pp [1 + 7 * 2 ^ 17, 4]
def w32p5 : Plan := pr [1 + 7 * 2 ^ 17, 4]
def w32e5 : BitVec 256 := e0 (1 + 7 * 2 ^ 17)
def w32s6 : State := pp [1, 4] { demoRun with share := 1 }
def w32p6 : Plan := pr [1, 4] { demoRun with share := 1 }
def w32r6 : Run := { demoRun with share := 1 }
def w32e6 : BitVec 256 := e0 1
def w32s7 : State := withCsrs (pp [4]) [(dbBind 7, 1 + 2 * 2 ^ 22), (dbBind 8, 1 + 3 * 2 ^ 22)]
def w32p7 : Plan := pr [4]
def w32e7 : BitVec 256 := e0 4
/-- States and operands that meet the hypotheses of `PhaseProgramEntriesRun`. -/
theorem witness_PhaseProgramEntriesRun :
    (Machine.Inv w32s1 ∧ (nextEntry w32s1 (2#3).toNat = some (w32p1, w32r1, w32e1) ∧ ppOp w32e1 = 2 ∧ (ppUntil w32e1 = true ∨ ppCount w32e1 ≠ 0))) ∧
    (Machine.Inv w32s2 ∧ (nextEntry w32s2 (2#3).toNat = some (w32p2, w32r1, w32e2) ∧ ppOp w32e2 = 2 ∧ ppUntil w32e2 = false ∧ ppCount w32e2 = 0 ∧
      w32r1.loops = [])) ∧
    (Machine.Inv w32s3 ∧ (nextEntry w32s3 (2#3).toNat = some (w32p3, w32r1, w32e3) ∧ ppOp w32e3 = 3 ∧
      (List.find? (fun x => getF x 0 4 == getF w32e3 8 4) w32p3.delta = some w32d3) ∧ getF w32d3 4 6 = 0 ∧
      w32p3.regions.getD (getF w32d3 12 12) 0 = 5 ∧ 5 < 4096) ∧ regionTgt w32s3 5 0 16 true = Except.ok (Tgt.dram 5 0) ∧
      ((panOf w32s3 (planTile w32p3 / 16)).merge = [] ∧ csrF w32s3 (clusterCsr 0 40) 0 1 = 0 ∧ w32r1.loops = [] ∧
      memNat w32s3 (rgnBase w32s3 5) 8 ≤ getF w32d3 64 64)) ∧
    (Machine.Inv w32s4 ∧ (nextEntry w32s4 (2#3).toNat = some (w32p3, w32r1, w32e3) ∧ ppOp w32e3 = 3 ∧
      (List.find? (fun x => getF x 0 4 == getF w32e3 8 4) w32p3.delta = some w32d3) ∧ getF w32d3 4 6 = 0 ∧
      w32p3.regions.getD (getF w32d3 12 12) 0 = 5 ∧ 5 < 4096) ∧ regionTgt w32s4 5 0 16 true = Except.ok (Tgt.dram 5 0) ∧
      ((panOf w32s4 (planTile w32p3 / 16)).merge = [] ∧ csrF w32s4 (clusterCsr 0 40) 0 1 = 0 ∧ w32r1.loops = [] ∧
      getF w32d3 64 64 < memNat w32s4 (rgnBase w32s4 5) 8)) ∧
    (Machine.Inv w32s5 ∧ (nextEntry w32s5 (2#3).toNat = some (w32p5, w32r1, w32e5) ∧ ppOp w32e5 = 1 ∧ (w32p5.fabric = true → w32s5.moveFrom = []) ∧
      w32r1.share = 0)) ∧
    (Machine.Inv w32s6 ∧ (nextEntry w32s6 (2#3).toNat = some (w32p6, w32r6, w32e6) ∧ ppOp w32e6 = 1 ∧ (w32p6.fabric = true → w32s6.moveFrom = []) ∧
      w32r6.share ≠ 0 ∧ getF w32e6 8 1 = 0)) ∧
    (Machine.Inv w32s7 ∧ (nextEntry w32s7 (2#3).toNat = some (w32p7, w32r1, w32e7) ∧ (ppOp w32e7 = 4 ∨ w32p7.phases.length ≤ w32r1.pc))) :=
  ⟨⟨inv_of_check _ (by decide +kernel), by decide +kernel⟩,
   ⟨inv_of_check _ (by decide +kernel), by decide +kernel⟩,
   ⟨inv_of_check _ (by decide +kernel), by decide +kernel, ok_of _ _ (by decide +kernel), by decide +kernel⟩,
   ⟨inv_of_check _ (by decide +kernel), by decide +kernel, ok_of _ _ (by decide +kernel), by decide +kernel⟩,
   ⟨inv_of_check _ (by decide +kernel), by decide +kernel⟩,
   ⟨inv_of_check _ (by decide +kernel), by decide +kernel⟩,
   ⟨inv_of_check _ (by decide +kernel), by decide +kernel⟩⟩

def w33s1 : State := pp [1, 4] (ph)
def w33p1 : Plan := pr [1, 4] ph
def w33r1 : Run := ph
def w33s2 : State := { pp [1, 4] (ph) with reqs := [mq1] }
def w33s3 : State := pp [1, 4] dr
def w33p3 : Plan := pr [1, 4] dr
def w33r3 : Run := dr
def w33s4 : State := pp (lpp 3) (dl2 1)
def w33p4 : Plan := pr (lpp 3) (dl2 1)
def w33r4 : Run := dl2 1
def w33s5 : State := pp [1, 4] (dr (fun r => { r with stopReq := true }))
def w33p5 : Plan := pr [1, 4] (dr (fun r => { r with stopReq := true }))
def w33r5 : Run := dr (fun r => { r with stopReq := true })
/-- States and operands that meet the hypotheses of `PhasesDrainAndGoOn`. -/
theorem witness_PhasesDrainAndGoOn :
    (Machine.Inv w33s1 ∧ (activeRun w33s1 (2#3).toNat = some (w33p1, w33r1) ∧ w33r1.inPhase = true ∧ w33r1.released = true ∧ w33r1.drained = false ∧
      faultWaiting w33s1 (2#3).toNat = false ∧ phaseIdle w33s1 (2#3).toNat w33p1 w33r1 = true ∧
      (∀ (c : Nat), c ∈ planClusters w33p1 → (panOf w33s1 c).merge = [])) ∧ (∀ (q : Req), q ∈ w33s1.reqs → ¬∃ o a x, q.cont = Cont.mirror o a ∧
      x ∈ o ∧ x / 32 ∈ maskTiles w33p1.clusterMask) ∧ (balanceCheck w33s1 w33p1 = (none, w33s1) ∧ w33p1.fabric = false ∧ w33r1.share = 0)) ∧
    (Machine.Inv w33s2 ∧ (activeRun w33s2 (2#3).toNat = some (w33p1, w33r1) ∧ w33r1.inPhase = true ∧ w33r1.released = true ∧ w33r1.drained = false ∧
      faultWaiting w33s2 (2#3).toNat = false ∧ phaseIdle w33s2 (2#3).toNat w33p1 w33r1 = true ∧
      (∀ (c : Nat), c ∈ planClusters w33p1 → (panOf w33s2 c).merge = [])) ∧ (∃ q, q ∈ w33s2.reqs ∧ ∃ o a x, q.cont = Cont.mirror o a ∧ x ∈ o ∧
      x / 32 ∈ maskTiles w33p1.clusterMask)) ∧
    (Machine.Inv w33s3 ∧ (activeRun w33s3 (2#3).toNat = some (w33p3, w33r3) ∧ w33r3.inPhase = true ∧ w33r3.drained = true ∧ w33p3.fabric = false ∧
      w33r3.stopReq = false ∧ w33r3.loops = [])) ∧
    (Machine.Inv w33s4 ∧ (activeRun w33s4 (2#3).toNat = some (w33p4, w33r4) ∧ w33r4.inPhase = true ∧ w33r4.drained = true ∧ w33p4.fabric = false ∧
      w33r4.stopReq = false ∧ w33r4.loops = [(0, 1)] ∧ w33r4.pc = 0 + ppSpan (w33p4.phases.getD 0 0) ∧ ppUntil (w33p4.phases.getD 0 0) = false)) ∧
    (Machine.Inv w33s5 ∧ (activeRun w33s5 (2#3).toNat = some (w33p5, w33r5) ∧ w33r5.inPhase = true ∧ w33r5.drained = true ∧ w33p5.fabric = false ∧
      w33r5.stopReq = true)) :=
  ⟨⟨inv_of_check _ (by decide +kernel), by decide +kernel, none_listed _ rfl, by decide +kernel⟩,
   ⟨inv_of_check _ (by decide +kernel), by decide +kernel, ⟨mq1, by decide +kernel, _, _, 3 * 32, rfl, by decide +kernel, by decide +kernel⟩⟩,
   ⟨inv_of_check _ (by decide +kernel), by decide +kernel⟩,
   ⟨inv_of_check _ (by decide +kernel), by decide +kernel⟩,
   ⟨inv_of_check _ (by decide +kernel), by decide +kernel⟩⟩

/-- A phase that ends with a semaphore that is not 0, for `PhasesDrainAndGoOn`. -/
theorem witness_PhasesDrainAndGoOn_unbalanced :
    Machine.Inv (withCsrs (pp [1, 4] ph) [(semAddr 3 9, 5)]) ∧
    activeRun (withCsrs (pp [1, 4] ph) [(semAddr 3 9, 5)]) 2 = some (pr [1, 4] ph, ph) ∧
    phaseIdle (withCsrs (pp [1, 4] ph) [(semAddr 3 9, 5)]) 2 (pr [1, 4] ph) ph = true ∧
    (balanceCheck (withCsrs (pp [1, 4] ph) [(semAddr 3 9, 5)]) (pr [1, 4] ph)).1.isSome = true :=
  ⟨inv_of_check _ (by decide +kernel), by decide +kernel⟩

end Phases

namespace Policies
def key : Nat := 5 + 77 * 2 ^ 24
def rd (l : List ((Nat × Nat) × Redir)) (v : Nat := 0x123 + 3 * 2 ^ 45 + 2 ^ 56) : State := { withCsrs up [(stwCsr 0x40010, key), (stwCsr 0x40018, v)] with redirect := l }
def rx : Redir := ⟨2, 4, 0x999, 0, 0⟩
def cpy (k st : Nat) : Copy := ⟨5, 77, k, 0, 0x10000, 0, 0x20000, 64, [], st, k == 2⟩
def four : List ((Nat × Nat) × Redir) := [((5, 78), {rx with hits := 3}),((5, 79), {rx with hits := 1}),((6, 78), {rx with hits := 7}),((7, 78), rx)]
def hrun : Run := ph (fun r => { r with pools := [(0, false)] })
def hplan : Plan := { prog [1] with pools := [mkLoc2 5 0] }
def hub (old count : Nat) (f : State → State := id) : State := f (storeBytes (withRegion { planIn hplan hrun with idleSince := some 0 } 5 0x10000 1 (2 ^ 44)) 0x10000 (leBytes 8 old ++ leBytes 4 count ++ leBytes 2 7))

def w34s1 : State := rd [((5, 77), rx), ((5, 78), rx)]
def w34x1 : Redir := rx
def w34s2 : State := rd [((5, 78), rx)]
/-- States and operands that meet the hypotheses of `RedirectOperationsActOnOneKey`. -/
theorem witness_RedirectOperationsActOnOneKey :
    (Machine.Inv w34s1 ∧ (w34s1.boot = 0 ∧ rdrGet w34s1 (csrF w34s1 (stwCsr 262160) 0 24) (csrF w34s1 (stwCsr 262160) 24 40) = some w34x1 ∧
      w34x1.addr < 2 ^ 45 ∧ w34x1.dev < 2 ^ 11 ∧ w34x1.kind < 4) ∧
      (List.countP (fun e => rdrSet e.fst.fst e.fst.snd == rdrSet (csrF w34s1 (stwCsr 262160) 0 24) (csrF w34s1 (stwCsr 262160) 24 40)) (List.filter (fun e => e.fst != (csrF w34s1 (stwCsr 262160) 0 24, csrF w34s1 (stwCsr 262160) 24 40)) w34s1.redirect) < 4)) ∧
    (Machine.Inv w34s2 ∧ (w34s2.boot = 0 ∧ rdrGet w34s2 (csrF w34s2 (stwCsr 262160) 0 24) (csrF w34s2 (stwCsr 262160) 24 40) = none)) :=
  ⟨⟨inv_of_check _ (by decide +kernel), by decide +kernel, Nat.lt_of_le_of_lt List.countP_le_length (by decide +kernel)⟩,
   ⟨inv_of_check _ (by decide +kernel), by decide +kernel⟩⟩

def w35s1 : State := { up with redirect := [((5, 77), { rx with hits := 9 })], policyNext := [(4, 33)], freezeNext := 5, disps := [(2, { Disp.init with shardOver := 3 })] }
def w35s2 : State := { up with copies := [cpy 1 2] }
def w35c2 : Copy := cpy 1 2
/-- Table 5 is live: its descriptor stands at offset 0x100 of region 5 and its shard map at 0x200, and row 77 is at home at 0x20000 + 77 * 64. -/
def tbl5 (s : State) : State :=
  let s := withCsrs s [(rgnAddr 5, 0x10000), (rgnAttr 5, 1 + 2 ^ 27 + 2 ^ 44), (tblVer 1, 1 + 5 * 2 ^ 2)]
  let d := leBytes 8 0 ++ leBytes 16 0 ++ leBytes 8 (mkLoc2 5 0x200).toNat ++ leBytes 8 0 ++ leBytes 8 8
  storeBytes { s with verInfo := [(1, some ⟨mkLoc2 5 0x100, 2⟩)] } 0x10100 (d ++ leBytes 0xD8 0 ++ leBytes 8 0x20000)
def w35s3 : State := tbl5 { up with copies := [cpy 2 2], moveFrom := [0], shape := [0] }
def w35c3 : Copy := cpy 2 2
def w35c8 : Copy := { cpy 2 2 with dst := 0x21340 }
def w35s8 : State := tbl5 { up with copies := [w35c8], moveFrom := [0], shape := [0] }
/-- A change of MIGRATE_BUDGET while migration is frozen, and stays so. -/
def w35s9 : State := { up with policyNext := [(4, 33)], freeze := 2, freezeNext := 2 }
def w35s4 : State := { up with mgmtIn := [(3, leBytes 64 0x12)] }
def w35m4 : Nat × List Byte := (3, leBytes 64 0x12)
def w35s5 : State := { up with moveFrom := [2, 3], mgmtIn := [(3, leBytes 64 0x15)] }
def w35m5 : Nat × List Byte := (3, leBytes 64 0x15)
def w35s6 : State := hub 9 9
def w35p6 : Plan := { hplan with run := some hrun }
def w35r6 : Run := hrun
def w35s7 : State := hub 3 9 (fun s => withCsrs { s with policy := s.policy.map (fun x => if x.1 = 8 then (8, 1) else x) } [(clusterCsr 0 (0x2010 + 0x20 * 7), 2 ^ 32)])
/-- States and operands that meet the hypotheses of `PolicyCommandsFollowTheSteward`. -/
theorem witness_PolicyCommandsFollowTheSteward :
    (Machine.Inv w35s1 ∧ (w35s1.boot = 0 ∧ w35s1.rest = 0 ∧ w35s1.now ≤ 1000000 ∧ 1000000 % 1000000 = 0)) ∧
    (Machine.Inv w35s9 ∧ (w35s9.boot = 0 ∧ w35s9.rest = 0 ∧ w35s9.now ≤ 1000000 ∧ 1000000 % 1000000 = 0 ∧ w35s9.policyNext = [(4, 33)] ∧
      paramFrozen w35s9.freeze 4 = true ∧ paramFrozen w35s9.freezeNext 4 = true ∧ (paramOf 4).isSome = true)) ∧
    (Machine.Inv w35s2 ∧ ((List.find? (fun x => x.kind == 1 && x.stage == 2) w35s2.copies = some w35c2) ∧ rdrGet w35s2 w35c2.table w35c2.row = none) ∧
      (List.countP (fun x => rdrSet x.fst.fst x.fst.snd == rdrSet w35c2.table w35c2.row) w35s2.redirect < 4)) ∧
    (Machine.Inv w35s3 ∧ (w35s3.moveFrom.contains (ownId w35s3) = true ∧ (∀ x ∈ w35s3.reqs, x.cont ≠ .moved) ∧
      (∀ x ∈ w35s3.copies.filter (fun x => x.byHome), x.stage = 2) ∧ w35s3.copies.filter (fun x => x.byHome) = [w35c3] ∧
      rdrGet w35s3 w35c3.table w35c3.row = none ∧ w35s3.shape = [ownId w35s3] ∧ w35s3.moveFrom = [ownId w35s3] ∧
      (rowHome w35s3 w35c3.table w35c3.row).map (fun x => (x.2.1, x.2.2.1)) = some (0, 0x21340) ∧ (w35c3.dstDev, w35c3.dst) ≠ (0, 0x21340)) ∧
      w35s3.redirect.countP (fun x => rdrSet x.1.1 x.1.2 == rdrSet w35c3.table w35c3.row) < 4) ∧
    (Machine.Inv w35s8 ∧ (w35s8.moveFrom.contains (ownId w35s8) = true ∧ (∀ x ∈ w35s8.reqs, x.cont ≠ .moved) ∧
      (∀ x ∈ w35s8.copies.filter (fun x => x.byHome), x.stage = 2) ∧ w35s8.copies.filter (fun x => x.byHome) = [w35c8] ∧
      rdrGet w35s8 w35c8.table w35c8.row = none ∧ w35s8.shape = [ownId w35s8] ∧ w35s8.moveFrom = [ownId w35s8] ∧
      (rowHome w35s8 w35c8.table w35c8.row).map (fun x => (x.2.1, x.2.2.1)) = some (0, 0x21340) ∧ (w35c8.dstDev, w35c8.dst) = (0, 0x21340)) ∧
      w35s8.redirect.countP (fun x => rdrSet x.1.1 x.1.2 == rdrSet w35c8.table w35c8.row) < 4) ∧
    (Machine.Inv w35s4 ∧ mgmtFrom w35s4 (3#11).toNat 18 = some w35m4) ∧
    (Machine.Inv w35s5 ∧ mgmtFrom w35s5 (3#11).toNat 21 = some w35m5) ∧
    (Machine.Inv w35s6 ∧ (activeRun w35s6 (2#3).toNat = some (w35p6, w35r6) ∧ w35r6.released = true ∧ w35r6.drained = false ∧
      (0, false) ∈ w35r6.pools ∧ hubIdle w35s6 1000001 = true ∧ w35s6.now ≤ 1000001) ∧
      (∀ (x : Req), x ∈ w35s6.reqs → ∀ (a w : Nat) (y : Option (Nat × Nat)) (z : Nat), x.cont ≠ Cont.hubClaim (2#3).toNat 0 a w y z) ∧
      ((poolHome w35s6 w35p6 0 = true ∨ polVal w35s6 7 = 1 ∧ w35s6.freeze.testBit 2 = false) ∧ poolHome w35s6 w35p6 0 = true) ∧
      locTgt w35s6 (w35p6.pools.getD 0 0) 64 true = Except.ok (Tgt.dram 5 0) ∧ ((panOf w35s6 (planTile w35p6 / 16)).merge = [] ∧
      psnAt w35s6 (rgnBase w35s6 5 + 0) = false ∧ w35s6.ledger.inj = [] ∧ w35s6.ueSectors = [] ∧ csrF w35s6 (clusterCsr 0 40) 0 1 = 0 ∧ w35r6.lists = [] ∧ w35r6.held = [] ∧
      memNat w35s6 (rgnBase w35s6 5 + 0 + 8) 4 ≤ memNat w35s6 (rgnBase w35s6 5 + 0) 8)) ∧
    (Machine.Inv w35s7 ∧ (activeRun w35s7 (2#3).toNat = some (w35p6, w35r6) ∧ w35r6.released = true ∧ w35r6.drained = false ∧
      (0, false) ∈ w35r6.pools ∧ hubIdle w35s7 1000001 = true ∧ w35s7.now ≤ 1000001) ∧
      (∀ (x : Req), x ∈ w35s7.reqs → ∀ (a w : Nat) (y : Option (Nat × Nat)) (z : Nat), x.cont ≠ Cont.hubClaim (2#3).toNat 0 a w y z) ∧
      poolHome w35s7 w35p6 0 = true ∧ locTgt w35s7 (w35p6.pools.getD 0 0) 64 true = Except.ok (Tgt.dram 5 0) ∧
      ((panOf w35s7 (planTile w35p6 / 16)).merge = [] ∧ psnAt w35s7 (rgnBase w35s7 5 + 0) = false ∧ w35s7.ledger.inj = [] ∧ w35s7.ueSectors = [] ∧ csrF w35s7 (clusterCsr 0 40) 0 1 = 0 ∧
      w35r6.lists = [] ∧ w35r6.held = [] ∧ memNat w35s7 (rgnBase w35s7 5 + 0) 8 < memNat w35s7 (rgnBase w35s7 5 + 0 + 8) 4 ∧
      wqSize w35s7 (memNat w35s7 (rgnBase w35s7 5 + 0 + 12) 2 % 4096 / 256) (memNat w35s7 (rgnBase w35s7 5 + 0 + 12) 2 % 4096 % 256) ≤ wqCount w35s7 (memNat w35s7 (rgnBase w35s7 5 + 0 + 12) 2 % 4096 / 256) (memNat w35s7 (rgnBase w35s7 5 + 0 + 12) 2 % 4096 % 256) ∧
      polVal w35s7 8 = 1 ∧ memNat w35s7 (rgnBase w35s7 5 + 0 + 8) 4 ≤ 2 ^ 20) ∧
      (Option.map (fun l => locTgt w35s7 l 64 false) (locAdd (w35p6.pools.getD 0 0) ↑(64 + 64 * memNat w35s7 (rgnBase w35s7 5 + 0) 8)) = some (Except.ok (Tgt.dram 5 (0 + 64 + 64 * memNat w35s7 (rgnBase w35s7 5 + 0) 8))))) :=
  ⟨⟨inv_of_check _ (by decide +kernel), by decide +kernel⟩,
   ⟨inv_of_check _ (by decide +kernel), by decide +kernel⟩,
   ⟨inv_of_check _ (by decide +kernel), by decide +kernel, Nat.lt_of_le_of_lt List.countP_le_length (by decide +kernel)⟩,
   ⟨inv_of_check _ (by decide +kernel), by decide +kernel, Nat.lt_of_le_of_lt List.countP_le_length (by decide +kernel)⟩,
   ⟨inv_of_check _ (by decide +kernel), by decide +kernel, Nat.lt_of_le_of_lt List.countP_le_length (by decide +kernel)⟩,
   ⟨inv_of_check _ (by decide +kernel), by decide +kernel⟩,
   ⟨inv_of_check _ (by decide +kernel), by decide +kernel⟩,
   ⟨inv_of_check _ (by decide +kernel), by decide +kernel, none_listed _ rfl, by decide +kernel, ok_of _ _ (by decide +kernel), by decide +kernel⟩,
   ⟨inv_of_check _ (by decide +kernel), by decide +kernel, none_listed _ rfl, by decide +kernel, ok_of _ _ (by decide +kernel), by decide +kernel,
     some_ok_of _ _ (by decide +kernel)⟩⟩

/-- Of more than `n * k` numbers whose images lie below `n`, more than `k` share one image. -/
theorem crowd (k : Nat) (f : Nat → Nat) (n : Nat) : ∀ l : List Nat, (∀ x ∈ l, f x < n) → n * k < l.length →
    ∃ y, k < (l.filter (fun x => f x == y)).length := by
  induction n with
  | zero =>
    intro l h hl
    cases l with
    | nil => simp at hl
    | cons x l => exact absurd (h x List.mem_cons_self) (Nat.not_lt_zero _)
  | succ n ih =>
    intro l h hl
    by_cases e : k < (l.filter (fun x => f x == n)).length
    · exact ⟨n, e⟩
    · have both : l.length = (l.filter (fun x => f x == n)).length + (l.filter (fun x => !(f x == n))).length := by
        simp only [← List.countP_eq_length_filter]
        rw [List.length_eq_countP_add_countP (l := l) (fun x => f x == n)]
        congr 2
        funext x
        simp [Bool.beq_eq_decide_eq]
      have room : n * k < (l.filter (fun x => !(f x == n))).length := by
        rw [Nat.succ_mul] at hl
        omega
      obtain ⟨y, hy⟩ := ih _ (fun x hx => by
        have m := List.mem_filter.mp hx
        have := h x m.1
        have : f x ≠ n := by simpa using m.2
        omega) room
      refine ⟨y, Nat.lt_of_lt_of_le hy ?_⟩
      rw [List.filter_filter]
      simp only [← List.countP_eq_length_filter]
      exact List.countP_mono_left (fun x _ hx => ((Bool.and_eq_true _ _).mp hx).1)

/-- Five rows of table 5 whose keys share a set of the redirect table. -/
theorem five_rows : ∃ a b c d e, a < b ∧ b < c ∧ c < d ∧ d < e ∧ e ≤ 524288 ∧ rdrSet 5 b = rdrSet 5 a ∧ rdrSet 5 c = rdrSet 5 a ∧
    rdrSet 5 d = rdrSet 5 a ∧ rdrSet 5 e = rdrSet 5 a := by
  obtain ⟨y, h⟩ := crowd 4 (rdrSet 5) 131072 (List.range 524289) (fun _ _ => Nat.mod_lt _ (by decide)) (by rw [List.length_range]; decide)
  have p := List.Pairwise.filter (fun x => rdrSet 5 x == y) (List.pairwise_lt_range (n := 524289))
  have m : ∀ x ∈ (List.range 524289).filter (fun x => rdrSet 5 x == y), x < 524289 ∧ rdrSet 5 x = y := by
    intro x hx
    have q := List.mem_filter.mp hx
    exact ⟨List.mem_range.mp q.1, eq_of_beq q.2⟩
  generalize (List.range 524289).filter (fun x => rdrSet 5 x == y) = l at h p m
  match l, h with
  | a :: b :: c :: d :: e :: _, _ =>
    simp only [List.pairwise_cons, List.mem_cons, forall_eq_or_imp] at p m
    obtain ⟨⟨ab, -⟩, ⟨bc, -⟩, ⟨cd, -⟩, ⟨de, -⟩, -⟩ := p
    obtain ⟨⟨-, ma⟩, ⟨-, mb⟩, ⟨-, mc⟩, ⟨-, md⟩, ⟨he, me⟩, -⟩ := m
    exact ⟨a, b, c, d, e, ab, bc, cd, de, by omega, by rw [mb, ma], by rw [mc, ma], by rw [md, ma], by rw [me, ma]⟩

/-- The redirect table holds four entries, rows of table 5; the key register, and a replica that is performed, name row `i`. -/
def fullSet (i a b c d : Nat) : State :=
  let x : Redir := ⟨1, 0, 0x8000, 0, 0⟩
  { up with csr := [(stwCsr 0x40010, BitVec.ofNat 64 (5 + i * 2 ^ 24))]
            redirect := [((5, a), x), ((5, b), x), ((5, c), x), ((5, d), x)]
            copies := [{ cpy 1 2 with row := i }] }

theorem inv_fullSet (i a b c d : Nat) (_ : i ≤ 524288) : Machine.Inv (fullSet i a b c d) :=
  have e : Machine.Inv up := inv_of_check _ (by decide +kernel)
  { e with
    mem := e.mem
    csr := by
      have : BitVec.ofNat 64 (5 + i * 16777216) ≠ csrReset (stwCsr 0x40010) := by
        rw [show csrReset (stwCsr 0x40010) = 0 from by decide +kernel]
        intro h'
        have := congrArg BitVec.toNat h'
        simp at this
        omega
      simp [fullSet, tabWf, tabSorted, this] }

theorem key_fullSet (i a b c d : Nat) (h : i ≤ 524288) :
    csrF (fullSet i a b c d) (stwCsr 0x40010) 0 24 = 5 ∧ csrF (fullSet i a b c d) (stwCsr 0x40010) 24 40 = i := by
  have e : csrGet (fullSet i a b c d) (stwCsr 0x40010) = BitVec.ofNat 64 (5 + i * 2 ^ 24) := by simp [csrGet, fullSet, tabGet]
  simp only [csrF, e, getF, BitVec.toNat_ofNat]
  omega

/-- A full set of the redirect table: the hypothesis of the last-but-one clause of `RedirectOperationsActOnOneKey`. -/
theorem witness_RedirectOperationsActOnOneKey_full : ∃ s : State, Machine.Inv s ∧ s.boot = 0 ∧
    ¬ (s.redirect.filter (fun e => e.1 != (csrF s (stwCsr 0x40010) 0 24, csrF s (stwCsr 0x40010) 24 40))).countP
        (fun e => rdrSet e.1.1 e.1.2 == rdrSet (csrF s (stwCsr 0x40010) 0 24) (csrF s (stwCsr 0x40010) 24 40)) < 4 := by
  obtain ⟨i, a, b, c, d, ia, ab, bc, cd, hd, ha, hb, hc, he⟩ := five_rows
  refine ⟨fullSet i a b c d, inv_fullSet i a b c d (by omega), rfl, ?_⟩
  obtain ⟨p, q⟩ := key_fullSet i a b c d (by omega)
  rw [p, q]
  have n (x : Nat) (h : i < x) : (((5, x) : Nat × Nat) != (5, i)) = true := by simp; omega
  simp [fullSet, List.filter, n a ia, n b (by omega), n c (by omega), n d (by omega), ha, hb, hc, he]

/-- A performed replica whose set is full, for `PolicyCommandsFollowTheSteward`: with migration free, and frozen. -/
theorem witness_PolicyCommandsFollowTheSteward_full : ∃ (s : State) (c : Copy) (e : (Nat × Nat) × Redir), Machine.Inv s ∧
    Machine.Inv { s with freeze := 2 } ∧ s.copies.find? (fun x => x.kind == 1 && x.stage == 2) = some c ∧
    rdrGet s c.table c.row = none ∧ s.redirect.countP (fun x => rdrSet x.1.1 x.1.2 == rdrSet c.table c.row) = 4 ∧
    s.freeze.testBit 1 = false ∧ coldest (fun x => rdrSet x.1 x.2 == rdrSet c.table c.row) s.redirect = some e ∧
    s.redirect.filter (fun x => x.1 == e.1) = [e] ∧ e.2.dev = ownId s := by
  obtain ⟨i, a, b, c, d, ia, ab, bc, cd, hd, ha, hb, hc, he⟩ := five_rows
  have v := inv_fullSet i a b c d (by omega)
  refine ⟨fullSet i a b c d, { cpy 1 2 with row := i }, ((5, a), ⟨1, 0, 0x8000, 0, 0⟩), v, { v with mem := v.mem }, rfl, ?_, ?_, ?_, ?_, ?_, ?_⟩
  · simp [rdrGet, fullSet, cpy]
    omega
  · simp [fullSet, cpy, ha, hb, hc, he]
  · simp only [fullSet]
    decide +kernel
  · simp [fullSet, cpy, coldest, ha, hb, hc, he]
  · simp [fullSet]
    omega
  · have z : csrReset (fabCsr 8) = 0 := by decide +kernel
    have n : ¬ stwCsr 262160 = fabCsr 8 := by decide +kernel
    simp [fullSet, ownId, csrF, csrGet, tabGet, z, n, getF]

end Policies

namespace Pantries
def cls3 : Nat := 3 * 2 ^ 39 + 2 ^ 44
def pan0 : Pantry := Pantry.empty
def ln (tag cls : Nat) (lock : Bool) : Line := ⟨tag, cls, 15, List.replicate 256 7, lock⟩
def pst (p : Pantry) (s : State := up) : State := withRegion { s with pans := if p = pan0 then [] else [(0, p)] } 5 0x10000 1 cls3
def panOn (s : State) : State := csrPut s (clusterCsr 0 0x4000) 1
def cach (s : State) : State := { s with plans := [(2, some { demoPlan with run := some { demoRun with cacheMask := 8, released := true, inPhase := true } })] }
def pfull : Pantry := { pan0 with sets := [(panSet 0x10000, [(0, ln 0x100 3 true), (1, ln 0x1100 4 true)])], evb := [(0, [ln 7 3 false, ln 9 2 false])], fills := [⟨0, 0x10300, 3, false⟩], preload := some ⟨0x10500, 1, true, 3, false⟩, invalBusy := true, invalClasses := 8 }
def me : MergeEnt := ⟨1, 0x10300, [(0, some 7), (9, some 8)], [], [3], 100, false⟩
def pm : Pantry := { pan0 with merge := [me, { me with blk := 0x10400, slice := 4 }] }
def pf (d : Bool) : PreFill := ⟨2, 0x10300, 3, d⟩
def pld : Preload := ⟨0x10500, 1, true, 3, false⟩

def w36s1 : State := panOn (pst pfull)
def w36v3 : Word := 2 ^ 16
def w36s4 : State := csrPut (panOn (pst pan0)) (clusterCsr 0 0x4020) (mkLoc2 5 0x100)
def w36v4 : Word := 4 + 2 ^ 24
def w36o4 : Nat := 0x100
def w36s5 : State := pst pan0 (withCore id)
def w36v5 : Word := mkLoc2 5 0x101
def w36v6 : Word := mkLoc2 5 0x100
def w36s7 : State := withRegion (panOn (withCore id)) 5 0x10000 1 0
/-- States and operands that meet the hypotheses of `PantryRegistersAct`. -/
theorem witness_PantryRegistersAct :
    (Machine.Inv w36s1 ∧ (stewardUp w36s1 = true ∧ (panOf w36s1 (0#4).toNat).invalBusy = true ∧
      (getF (0#64) 0 24 = 0 ∨ 65536 < getF (0#64) 0 24 ∨ (panOf w36s1 (0#4).toNat).preload.isSome = true))) ∧
    (Machine.Inv w36s1 ∧ (stewardUp w36s1 = true ∧ getF (4#64) 0 1 = 0 ∧ getF (4#64) 1 15 * 2 ≠ 0 ∧ getF (4#64) 16 1 = 0)) ∧
    (Machine.Inv w36s1 ∧ (stewardUp w36s1 = true ∧ getF w36v3 0 16 = 0 ∧ getF w36v3 16 1 = 1)) ∧
    (Machine.Inv w36s4 ∧ (stewardUp w36s4 = true ∧ 1 ≤ getF w36v4 0 24 ∧ getF w36v4 0 24 ≤ 65536 ∧ (panOf w36s4 (0#4).toNat).preload = none) ∧
      locTgt w36s4 (csrGet w36s4 (clusterCsr (0#4).toNat 16416)) 1 false = Except.ok (Tgt.dram 5 w36o4)) ∧
    (Machine.Inv w36s5 ∧ ((coreOf w36s5 (3#8).toNat).task.isSome = true ∧ (locKind w36v5 ≠ 2 ∨ locRsv w36v5 ≠ 0 ∨ locOff w36v5 % 256 ≠ 0))) ∧
    (Machine.Inv w36s5 ∧ ((coreOf w36s5 (3#8).toNat).task.isSome = true ∧ locKind w36v6 = 2 ∧ locRsv w36v6 = 0 ∧ locOff w36v6 % 256 = 0 ∧
      5 = locIdx w36v6 ∧ w36o4 = locOff w36v6 ∧ (3#8).toNat / 16 = (0#4).toNat) ∧ regionTgt w36s5 5 w36o4 256 true = Except.ok (Tgt.dram 5 w36o4) ∧
      (panOf w36s5 (0#4).toNat).merge = [] ∧ (coreOf w36s5 (3#8).toNat).accs = []) ∧
    (Machine.Inv w36s7 ∧ ((coreOf w36s7 (3#8).toNat).task.isSome = true ∧ locKind w36v6 = 2 ∧ locRsv w36v6 = 0 ∧ locOff w36v6 % 256 = 0 ∧
      5 = locIdx w36v6 ∧ w36o4 = locOff w36v6) ∧ regionTgt w36s7 5 w36o4 256 true = Except.error AccErr.readOnly) :=
  ⟨⟨inv_of_check _ (by decide +kernel), by decide +kernel⟩,
   ⟨inv_of_check _ (by decide +kernel), by decide +kernel⟩,
   ⟨inv_of_check _ (by decide +kernel), by decide +kernel⟩,
   ⟨inv_of_check _ (by decide +kernel), by decide +kernel, ok_of _ _ (by decide +kernel)⟩,
   ⟨inv_of_check _ (by decide +kernel), by decide +kernel⟩,
   ⟨inv_of_check _ (by decide +kernel), by decide +kernel, ok_of _ _ (by decide +kernel), by decide +kernel⟩,
   ⟨inv_of_check _ (by decide +kernel), by decide +kernel, error_of _ _ (by decide +kernel)⟩⟩

def w37s1 : State := pst pm
def w37e1 : MergeEnt := me
def w37s2 : State := pst { pan0 with fills := [⟨1, 0, 0, false⟩, pf false] }
def w37f2 : PreFill := pf false
def w37o2 : Nat := 0x300
def w37s3 : State := storeBytes (panOn (cach (pst { pan0 with fills := [⟨1, 0, 0, false⟩, pf false] }))) 0x10300 (leBytes 256 99)
def w37s4 : State := storeBytes (panOn (cach (pst { pan0 with preload := some pld }))) 0x10500 (leBytes 256 99)
def w37x4 : Preload := pld
def w37o4 : Nat := 0x500
def w37q4 : Plan := { demoPlan with run := some { demoRun with cacheMask := 8, released := true, inPhase := true } }
def w37r4 : Run := { demoRun with cacheMask := 8, released := true, inPhase := true }
def w37s5 : State := storeBytes (panOn ( (pst { pan0 with preload := some pld }))) 0x10500 (leBytes 256 99)
/-- States and operands that meet the hypotheses of `PantryEventsMoveLines`. -/
theorem witness_PantryEventsMoveLines :
    (Machine.Inv w37s1 ∧ ((List.find? (fun z => z.slice == (1#4).toNat) (panOf w37s1 (0#4).toNat).merge = some w37e1) ∧ w37e1.since + 500 ≤ 600 ∧
      w37s1.now ≤ 600 ∧ tabSorted 0 w37e1.bytes = true)) ∧
    (Machine.Inv w37s2 ∧ ((List.find? (fun z => z.slice == (2#4).toNat) (panOf w37s2 (0#4).toNat).fills = some w37f2) ∧
      (panOf w37s2 (0#4).toNat).merge = [] ∧ w37s2.ledger.inj = []) ∧ localTgt w37s2 (w37f2.addr % 2 ^ 45) 256 false = Except.ok (Tgt.dram 5 w37o2) ∧
      (w37f2.dropped = true ∨ psnIn w37s2 (rgnBase w37s2 5 + w37o2) 256 = true ∨ panEn w37s2 (0#4).toNat = false ∨ cacheable w37s2 (0#4).toNat w37f2.cls = false)) ∧
    (Machine.Inv w37s3 ∧ ((List.find? (fun z => z.slice == (2#4).toNat) (panOf w37s3 (0#4).toNat).fills = some w37f2) ∧
      (panOf w37s3 (0#4).toNat).merge = [] ∧ w37s3.ledger.inj = []) ∧ localTgt w37s3 (w37f2.addr % 2 ^ 45) 256 false = Except.ok (Tgt.dram 5 w37o2) ∧
      (w37f2.dropped = false ∧ w37s3.ueSectors = [] ∧ psnIn w37s3 (rgnBase w37s3 5 + w37o2) 256 = false ∧ panEn w37s3 (0#4).toNat = true ∧
      cacheable w37s3 (0#4).toNat w37f2.cls = true ∧ (sliceIso w37s3 (0#4).toNat (w37f2.addr / 256) = false ∧
      panWays (panOf w37s3 (0#4).toNat) (panSet (w37f2.addr / 256 * 256)) = [] ∧ panLine (panOf w37s3 (0#4).toNat) (w37f2.addr / 256) = none))) ∧
    (Machine.Inv w37s4 ∧ (panOf w37s4 (0#4).toNat).preload = some w37x4 ∧
      (∀ (z : Req), z ∈ w37s4.reqs → ∀ (g : Nat) (l : Bool), z.cont ≠ Cont.preload (0#4).toNat g l) ∧ (slotOfCluster w37s4 (0#4).toNat = some 2 ∧
      activeRun w37s4 2 = some (w37q4, w37r4) ∧ w37r4.released = true ∧ w37x4.addr / 2 ^ 45 = ownId w37s4 ∧ w37x4.lines = 1 ∧
      (panOf w37s4 (0#4).toNat).merge = [] ∧ w37s4.ledger.inj = []) ∧ localTgt w37s4 (w37x4.addr % 2 ^ 45) 256 false = Except.ok (Tgt.dram 5 w37o4) ∧
      (w37s4.ueSectors = [] ∧ psnIn w37s4 (rgnBase w37s4 5 + w37o4) 256 = false ∧ w37x4.dropped = false ∧ panEn w37s4 (0#4).toNat = true ∧
      cacheable w37s4 (0#4).toNat w37x4.cls = true ∧ (sliceIso w37s4 (0#4).toNat (w37x4.addr / 256) = false ∧
      panWays (panOf w37s4 (0#4).toNat) (panSet (w37x4.addr / 256 * 256)) = [] ∧ panLine (panOf w37s4 (0#4).toNat) (w37x4.addr / 256) = none))) ∧
    (Machine.Inv w37s5 ∧ (panOf w37s5 (0#4).toNat).preload = some w37x4 ∧
      (∀ (z : Req), z ∈ w37s5.reqs → ∀ (g : Nat) (l : Bool), z.cont ≠ Cont.preload (0#4).toNat g l) ∧ slotOfCluster w37s5 (0#4).toNat = none) :=
  ⟨⟨inv_of_check _ (by decide +kernel), by decide +kernel⟩,
   ⟨inv_of_check _ (by decide +kernel), by decide +kernel, ok_of _ _ (by decide +kernel), by decide +kernel⟩,
   ⟨inv_of_check _ (by decide +kernel), by decide +kernel, ok_of _ _ (by decide +kernel), by decide +kernel⟩,
   ⟨inv_of_check _ (by decide +kernel), by decide +kernel, none_listed _ rfl, by decide +kernel, ok_of _ _ (by decide +kernel), by decide +kernel⟩,
   ⟨inv_of_check _ (by decide +kernel), by decide +kernel, none_listed _ rfl, by decide +kernel⟩⟩

end Pantries

namespace Memories
def pat (f : State → State := id) : State := f (withCsrs (withRegion up 5 0x10000 1 (2 ^ 44)) [(memCsr 0 0, 2)])
def th (l : List (Nat × Nat)) (low : Tab Nat := []) : State := { withCsrs up l with lowPolls := low }

def w38a1 : Nat := (addrOf pat 3 0).getD 0
def w38s2 : State := pat (fun s => { s with poison := [((addrOf pat 3 0).getD 0, true)] })
/-- The sector holds an uncorrectable error. -/
def w38s6 : State := pat (fun s => { s with ueSectors := [(addrOf pat 3 0).getD 0] })
def w38off3 : BitVec 34 := BitVec.ofNat 34 (spareBase * 2048 + 64)
def w38s4 : State := pat (fun s => { s with retireQ := [(4, 8), (3, 9), (3, 8)] })
def w38e4 : Nat × Nat := (3, 9)
def w38s5 : State := pat (fun s => { withCsrs s [(memCsr 0 0x18, 4 * 2 ^ 16)] with retireQ := [(4, 8), (3, 9), (3, 8)] })
/-- States and operands that meet the hypotheses of `PatrolAndRetirement`. -/
theorem witness_PatrolAndRetirement :
    (Machine.Inv pat ∧ ((3#9).toNat < 384 ∧ (0#34).toNat % 64 = 0 ∧ (0#34).toNat / 2048 < spareBase + spareCount ∧ memUp pat = true ∧
      csrF pat (memCsr ((3#9).toNat / 96) 0) 1 1 = 1 ∧ csrF pat (chanAddr (3#9).toNat 0) 0 2 ≠ 2 ∧ pat.ledger.inj = [] ∧
      (0#34).toNat / 2048 < spareBase ∧ addrOf pat (3#9).toNat (0#34).toNat = some w38a1 ∧ w38a1 < 2 ^ 45 ∧ w38a1 ∉ pat.ueSectors ∧ psnStored pat w38a1 = false)) ∧
    (Machine.Inv w38s6 ∧ ((3#9).toNat < 384 ∧ (0#34).toNat % 64 = 0 ∧ memUp w38s6 = true ∧ csrF w38s6 (memCsr ((3#9).toNat / 96) 0) 1 1 = 1 ∧
      csrF w38s6 (chanAddr (3#9).toNat 0) 0 2 ≠ 2 ∧ w38s6.ledger.inj = [] ∧ (0#34).toNat / 2048 < spareBase ∧
      addrOf w38s6 (3#9).toNat (0#34).toNat = some w38a1 ∧ w38a1 < 2 ^ 45 ∧ w38a1 ∈ w38s6.ueSectors ∧ psnStored w38s6 w38a1 = false)) ∧
    (Machine.Inv w38s2 ∧ ((3#9).toNat < 384 ∧ (0#34).toNat % 64 = 0 ∧ (0#34).toNat / 2048 < spareBase + spareCount ∧ memUp w38s2 = true ∧
      csrF w38s2 (memCsr ((3#9).toNat / 96) 0) 1 1 = 1 ∧ csrF w38s2 (chanAddr (3#9).toNat 0) 0 2 ≠ 2 ∧ w38s2.ledger.inj = [] ∧
      (0#34).toNat / 2048 < spareBase ∧ addrOf w38s2 (3#9).toNat (0#34).toNat = some w38a1 ∧ w38a1 < 2 ^ 45 ∧ psnStored w38s2 w38a1 = true)) ∧
    (Machine.Inv pat ∧ ((3#9).toNat < 384 ∧ w38off3.toNat % 64 = 0 ∧ w38off3.toNat / 2048 < spareBase + spareCount ∧ memUp pat = true ∧
      csrF pat (memCsr ((3#9).toNat / 96) 0) 1 1 = 1 ∧ csrF pat (chanAddr (3#9).toNat 0) 0 2 ≠ 2 ∧ pat.ledger.inj = [] ∧
      spareBase ≤ w38off3.toNat / 2048 ∧ rtOfSpare pat (3#9).toNat (w38off3.toNat / 2048 - spareBase) = none)) ∧
    (Machine.Inv w38s4 ∧ ((List.find? (fun y => y.fst == (3#9).toNat) w38s4.retireQ = some w38e4) ∧ (3#9).toNat < 384 ∧ memUp w38s4 = true ∧
      w38e4.snd < 2 ^ 23 ∧ rtOfPage w38s4 (3#9).toNat w38e4.snd = none ∧ sparesOut w38s4 (3#9).toNat false = false ∧
      freeSpare w38s4 (3#9).toNat = some 0)) ∧
    (Machine.Inv w38s5 ∧ ((List.find? (fun y => y.fst == (3#9).toNat) w38s5.retireQ = some w38e4) ∧ (3#9).toNat < 384 ∧ memUp w38s5 = true ∧
      w38e4.snd < 2 ^ 23 ∧ rtOfPage w38s5 (3#9).toNat w38e4.snd = none ∧
      (sparesOut w38s5 (3#9).toNat false = true ∨ freeSpare w38s5 (3#9).toNat = none))) :=
  ⟨⟨inv_of_check _ (by decide +kernel), by decide +kernel⟩,
   ⟨inv_of_check _ (by decide +kernel), by decide +kernel⟩,
   ⟨inv_of_check _ (by decide +kernel), by decide +kernel⟩,
   ⟨inv_of_check _ (by decide +kernel), by decide +kernel⟩,
   ⟨inv_of_check _ (by decide +kernel), by decide +kernel⟩,
   ⟨inv_of_check _ (by decide +kernel), by decide +kernel⟩⟩

def w39s1 : State := th []
def w39rs1 : List (BitVec 9 × BitVec 5) := [(3, 7), (4, 2)]
def w39s2 : State := withCsrs up [(chanAddr 3 0x48, 1)]
/-- States and operands that meet the hypotheses of `ThermalStagesAndTrafficGenerators`. -/
theorem witness_ThermalStagesAndTrafficGenerators :
    (Machine.Inv w39s1 ∧ (memUp w39s1 = true ∧ w39s1.now ≤ 4000000 ∧ 4000000 % 4000000 = 0 ∧
      (∀ (r : BitVec 9 × BitVec 5), r ∈ w39rs1 → r.fst.toNat < 384) ∧ 0 < 96 ∧ stewardUp w39s1 = true ∧ (3#9).toNat < 384 ∧
      csrF w39s1 (chanAddr (3#9).toNat 72) 0 1 = 0 ∧ getF (0#64) 5 2 ≤ 2)) ∧
    (Machine.Inv w39s2 ∧ ((3#9).toNat < 384 ∧ csrF w39s2 (chanAddr (3#9).toNat 72) 0 1 = 1)) :=
  ⟨⟨inv_of_check _ (by decide +kernel), by decide +kernel, by decide +kernel, by decide +kernel,
    fun r h => of_decide_eq_true (List.all_eq_true.mp (by decide +kernel : w39rs1.all (fun r => decide (r.fst.toNat < 384)) = true) r h),
    by decide +kernel⟩,
   ⟨inv_of_check _ (by decide +kernel), by decide +kernel⟩⟩

end Memories

namespace Linking
def lnk (f : Link → Link) (st : Nat := 2) (dev : Nat := 0) (s : State := up) : State := { withCsrs s [(portAddr 3, st + dev * 16)] with links := [(3, f { Link.init with expect := 4095, step := 5, retry := [7, 8, 9], units := [((1, 2), 20)] })] }
def fl : Flit := { seq := 4095, ack := 8, nak := false, credits := [(1, 2, 6)], fecCorrected := 5, fecOk := true, crcOk := true }
def lsh (f : Link → Link) : State := { lnk f 1 with shape := [0, 4] }

def w40s1 : State := lnk id
def w40f1 : Flit := fl
def w40f2 : Flit := { fl with nak := true }
def w40f3 : Flit := { fl with fecOk := false }
def w40s4 : State := lnk id 1
def w40s5 : State := lnk (fun l => { l with step := 0 }) 1
def w40s6 : State := lnk (fun l => { l with step := 1 }) 1
def w40s8 : State := lnk (fun l => { l with step := 3 }) 1
def w40s9 : State := lsh (fun l => { l with step := 3 })
def w40s11 : State := lsh (fun l => { l with step := 4 })
/-- States and operands that meet the hypotheses of `LinksCarryReplayAndTrain`. -/
theorem witness_LinksCarryReplayAndTrain :
    (Machine.Inv w40s1 ∧ ((3#5).toNat < 24 ∧ portUp w40s1 (3#5).toNat = true ∧ w40s1.ledger.inj = [] ∧ w40f1.fecOk = true ∧ w40f1.crcOk = true ∧
      w40f1.nak = false)) ∧
    (Machine.Inv w40s1 ∧ ((3#5).toNat < 24 ∧ portUp w40s1 (3#5).toNat = true ∧ w40s1.ledger.inj = [] ∧ w40f2.fecOk = true ∧ w40f2.crcOk = true ∧
      w40f2.nak = true ∧ ackRetry (linkOf w40s1 (3#5).toNat).retry w40f2.ack.toNat ≠ [] ∧ (linkOf w40s1 (3#5).toNat).noted = none)) ∧
    (Machine.Inv w40s1 ∧ ((3#5).toNat < 24 ∧ portUp w40s1 (3#5).toNat = true ∧ w40s1.ledger.inj = [] ∧ (w40f3.fecOk = false ∨ w40f3.crcOk = false))) ∧
    (Machine.Inv w40s4 ∧ ((3#5).toNat < 24 ∧ portState w40s4 (3#5).toNat = 1 ∧ (linkOf w40s4 (3#5).toNat).step = 5)) ∧
    (Machine.Inv w40s5 ∧ ((3#5).toNat < 24 ∧ portState w40s5 (3#5).toNat = 1 ∧
      ((linkOf w40s5 (3#5).toNat).step = 0 ∨ (linkOf w40s5 (3#5).toNat).step = 2))) ∧
    (Machine.Inv w40s6 ∧ ((3#5).toNat < 24 ∧ portState w40s6 (3#5).toNat = 1 ∧ (linkOf w40s6 (3#5).toNat).step = 1 ∧ (false = true ∨ true = true))) ∧
    (Machine.Inv w40s6 ∧ ((3#5).toNat < 24 ∧ portState w40s6 (3#5).toNat = 1 ∧ (linkOf w40s6 (3#5).toNat).step = 1 ∧ false = false)) ∧
    (Machine.Inv w40s8 ∧ ((3#5).toNat < 24 ∧ (linkOf w40s8 (3#5).toNat).step = 3 ∧ w40s8.shape.contains (4#11).toNat = false)) ∧
    (Machine.Inv w40s9 ∧ ((3#5).toNat < 24 ∧ (linkOf w40s9 (3#5).toNat).step = 3 ∧ w40s9.shape.contains (4#11).toNat = true ∧
      cabled w40s9 (3#5).toNat (4#11).toNat (2#5).toNat = false)) ∧
    (Machine.Inv w40s9 ∧ ((3#5).toNat < 24 ∧ (linkOf w40s9 (3#5).toNat).step = 3 ∧ w40s9.shape.contains (4#11).toNat = true ∧
      cabled w40s9 (3#5).toNat (4#11).toNat (0#5).toNat = true)) ∧
    (Machine.Inv w40s11 ∧ ((3#5).toNat < 24 ∧ (linkOf w40s11 (3#5).toNat).step = 4 ∧ portState w40s11 (3#5).toNat = 1)) :=
  ⟨⟨inv_of_check _ (by decide +kernel), by decide +kernel⟩,
   ⟨inv_of_check _ (by decide +kernel), by decide +kernel⟩,
   ⟨inv_of_check _ (by decide +kernel), by decide +kernel⟩,
   ⟨inv_of_check _ (by decide +kernel), by decide +kernel⟩,
   ⟨inv_of_check _ (by decide +kernel), by decide +kernel⟩,
   ⟨inv_of_check _ (by decide +kernel), by decide +kernel⟩,
   ⟨inv_of_check _ (by decide +kernel), by decide +kernel⟩,
   ⟨inv_of_check _ (by decide +kernel), by decide +kernel⟩,
   ⟨inv_of_check _ (by decide +kernel), by decide +kernel⟩,
   ⟨inv_of_check _ (by decide +kernel), by decide +kernel⟩,
   ⟨inv_of_check _ (by decide +kernel), by decide +kernel⟩⟩

end Linking

namespace PeerRequests
open Policies (key rd rx cpy four hrun hplan hub)
/-- module 0 of a shape of two, with module 1 on its port 0 -/
def net (s : State := up) : State := shaped s
def hdr (addr len : Nat) : Hdr := { port := 0, hop := 0, nonmin := false, via := 0, src := 1, dst := 0, lc := false, poison := false, len := BitVec.ofNat 11 len, addr := BitVec.ofNat 45 addr, tag := 33, wellFormed := true }
def net5 (attr : Nat := 2 ^ 44 + 2 ^ 46) : State := withRegion (net (storeBytes up 0x10000 (leBytes 64 0x8877665544332211))) 5 0x10000 1 attr
def rq (kind : Nat) (len : Nat) (c : Cont) : Req := { tag := 33, dst := 1, kind := kind, addr := 0x40, len := len, data := [], poison := false, sentAt := 0, cont := c, discard := false, held := false }
def lacc (st : Bool) : CoreAcc := { acc0 4 st with dev := some 1, addr := 0x40 }
def ans (r : Option Req) (a : CoreAcc) : State := net { withAccs (withCore id) [acc0 1 false, a] with reqs := [{ rq 1 1 .none_ with tag := 2 }] ++ r.toList }
def hl (n : Nat) : Hdr := hdr 0 n
def l4 : CoreAcc := { lacc false with size := 2, signed := true }
def hclaim : Req := rq kATOMIC 8 (.hubClaim 2 0 1 0 none 0)
def hpl : Plan := { hplan with pools := [BitVec.ofNat 64 (3 * 2 ^ 62 + 1 * 2 ^ 45 + 0x4000)] }

def w41h1 : Hdr := hdr 0x10000 7
def w41data1 : List Byte := leBytes 8 5
def w41g1 : PeerTgt := .dram 5 0
def w41s3 : State := { net5 with poison := [(0x10000, true)] }
def w41h3 : Hdr := hdr 0x10004 7
def w41s4 : State := net5 (2 ^ 46)
def w41s5 : State := net5 (2 ^ 44)
/-- States and operands that meet the hypotheses of `PeersReadWriteAndUpdateMemory`. -/
theorem witness_PeersReadWriteAndUpdateMemory :
    (Machine.Inv net5 ∧ Arrives net5 w41h1 kREAD ∧ peerTgt net5 w41h1 (w41h1.len.toNat + 1) false = Except.ok w41g1 ∧ Arrives net5 w41h1 kWRITE ∧
      w41data1.length = w41h1.len.toNat + 1 ∧ peerTgt net5 w41h1 (w41h1.len.toNat + 1) true = Except.ok w41g1 ∧ Arrives net5 w41h1 kATOMIC ∧
      (peerTgt net5 w41h1 ((if true = true then 64 else 32) / 8) true = Except.ok (PeerTgt.dram 5 0)) ∧
      ((w41h1.addr.toNat % ((if true = true then 64 else 32) / 8) = 0) ∧ (0#4).toNat ≤ 8 ∧ net5.ledger.inj = [] ∧ psnAt net5 (rgnBase net5 5 + 0) = false)) ∧
    (Machine.Inv net5 ∧ Arrives net5 w41h1 kATOMIC ∧ (peerTgt net5 w41h1 ((if false = true then 64 else 32) / 8) true = Except.ok w41g1) ∧
      (w41h1.addr.toNat % ((if false = true then 64 else 32) / 8) ≠ 0 ∨ 8 < (9#4).toNat ∨ w41g1 = PeerTgt.spad (match w41g1 with | PeerTgt.dram i o => rgnBase net5 i + o | PeerTgt.spad a => a))) ∧
    (Machine.Inv w41s3 ∧ Arrives w41s3 w41h3 kATOMIC ∧
      (peerTgt w41s3 w41h3 ((if false = true then 64 else 32) / 8) true = Except.ok (PeerTgt.dram 5 4)) ∧
      ((w41h3.addr.toNat % ((if false = true then 64 else 32) / 8) = 0) ∧ (8#4).toNat ≤ 8 ∧ w41s3.ledger.inj = [] ∧ psnAt w41s3 (rgnBase w41s3 5 + 4) = true)) ∧
    (Machine.Inv w41s4 ∧ Arrives w41s4 w41h1 kWRITE ∧ w41data1.length = w41h1.len.toNat + 1 ∧
      peerTgt w41s4 w41h1 (w41h1.len.toNat + 1) true = Except.error 1 ∧ Arrives w41s4 w41h1 kATOMIC ∧
      (peerTgt w41s4 w41h1 ((if true = true then 64 else 32) / 8) true = Except.error 1)) ∧
    (Machine.Inv w41s5 ∧ Arrives w41s5 w41h1 kREAD ∧ peerTgt w41s5 w41h1 (w41h1.len.toNat + 1) false = Except.error 1) :=
  ⟨⟨inv_of_check _ (by decide +kernel), arrives_of (by decide +kernel), ok_of _ _ (by decide +kernel),
     arrives_of (by decide +kernel), by decide +kernel, ok_of _ _ (by decide +kernel),
     arrives_of (by decide +kernel), ok_of _ _ (by decide +kernel), by decide +kernel⟩,
   ⟨inv_of_check _ (by decide +kernel), arrives_of (by decide +kernel), ok_of _ _ (by decide +kernel),
     by decide +kernel⟩,
   ⟨inv_of_check _ (by decide +kernel), arrives_of (by decide +kernel), ok_of _ _ (by decide +kernel),
     by decide +kernel⟩,
   ⟨inv_of_check _ (by decide +kernel), arrives_of (by decide +kernel), by decide +kernel,
     error_of _ _ (by decide +kernel), arrives_of (by decide +kernel),
     error_of _ _ (by decide +kernel)⟩,
   ⟨inv_of_check _ (by decide +kernel), arrives_of (by decide +kernel),
     error_of _ _ (by decide +kernel)⟩⟩

def w42s1 : State := ans none (lacc false)
def w42h1 : Hdr := hl 7
def w42data1 : List Byte := leBytes 8 5
def w42h2 : Hdr := hl 0
def w42s3 : State := ans (rq 1 8 (.coreAcc 3 4)) (lacc false)
def w42data3 : List Byte := leBytes 8 0xFFFFFFFFFFFFFFF5
def w42r3 : Req := rq 1 8 (.coreAcc 3 4)
def w42a3 : CoreAcc := lacc false
def w42s4 : State := ans (rq 1 2 (.coreAcc 3 4)) l4
def w42h4 : Hdr := { hl 1 with poison := true }
def w42data4 : List Byte := leBytes 2 0xFFF5
def w42r4 : Req := rq 1 2 (.coreAcc 3 4)
def w42a4 : CoreAcc := l4
def w42s5 : State := { ans (some hclaim) l4 with plans := [(2, some { hpl with run := some hrun })] }
def w42r5 : Req := hclaim
def w42hd5 : Option (Nat × Nat) := none
def w42p5 : Plan := { hpl with run := some hrun }
def w42x5 : Run := hrun
def w42s6 : State := ans (rq 3 2 (.coreAcc 3 4)) (lacc true)
def w42r6 : Req := rq 3 2 (.coreAcc 3 4)
def w42a6 : CoreAcc := lacc true
/-- States and operands that meet the hypotheses of `AnswersReachTheirRequests`. -/
theorem witness_AnswersReachTheirRequests :
    (Machine.Inv w42s1 ∧ (3 < 256 ∧ reqOf w42s1 w42h1.tag.toNat = none ∧ w42h1.len.toNat + 1 = w42data1.length) ∧ Arrives w42s1 w42h1 kREAD_RESP ∧
      Arrives w42s1 w42h1 kATOMIC_RESP ∧ Arrives w42s1 w42h1 kERROR) ∧
    (Machine.Inv w42s1 ∧ (3 < 256 ∧ reqOf w42s1 w42h2.tag.toNat = none ∧ w42h2.len = 0) ∧ Arrives w42s1 w42h2 kACK) ∧
    (Machine.Inv w42s3 ∧ 3 < 256 ∧ Arrives w42s3 w42h1 kREAD_RESP ∧ (w42h1.len.toNat + 1 = w42data3.length ∧
      (reqOf w42s3 w42h1.tag.toNat = some w42r3 ∧ w42r3.kind = kREAD ∧ w42r3.discard = false ∧ ∀ (y : Req), y ∈ w42s3.reqs → y.held = false) ∧
      w42r3.len = w42data3.length ∧ w42r3.cont = Cont.coreAcc 3 4 ∧ accOf w42s3 3 4 = some w42a3 ∧ w42a3.slot = 4 ∧ w42a3.rd < 32 ∧
      w42h1.poison = false ∧ (coreOf w42s3 3).task.any (fun y => y.id == w42a3.tag) = true) ∧ Arrives w42s3 w42h1 kERROR) ∧
    (Machine.Inv w42s4 ∧ 3 < 256 ∧ Arrives w42s4 w42h4 kREAD_RESP ∧ (w42h4.len.toNat + 1 = w42data4.length ∧
      (reqOf w42s4 w42h4.tag.toNat = some w42r4 ∧ w42r4.kind = kREAD ∧ w42r4.discard = false ∧ ∀ (y : Req), y ∈ w42s4.reqs → y.held = false) ∧
      w42r4.len = w42data4.length ∧ w42r4.cont = Cont.coreAcc 3 4 ∧ accOf w42s4 3 4 = some w42a4 ∧ w42a4.slot = 4 ∧ w42a4.rd < 32 ∧
      w42h4.poison = true)) ∧
    (Machine.Inv w42s5 ∧ 3 < 256 ∧ Arrives w42s5 w42h1 kATOMIC_RESP ∧ ((reqOf w42s5 w42h1.tag.toNat = some w42r5 ∧ w42r5.kind = kATOMIC ∧
      w42r5.discard = false ∧ ∀ (y : Req), y ∈ w42s5.reqs → y.held = false) ∧ w42r5.cont = Cont.hubClaim 2 0 1 0 w42hd5 0 ∧
      runOf w42s5 2 = some (w42p5, w42x5) ∧ (route w42s5 (servedDev w42s5 (locDev (w42p5.pools.getD 0 0)))).isSome = true ∧
      servedDev w42s5 (locDev (w42p5.pools.getD 0 0)) ≠ ownId w42s5)) ∧
    (Machine.Inv w42s6 ∧ 3 < 256 ∧ Arrives w42s6 w42h2 kACK ∧ (w42h2.len = 0 ∧ (reqOf w42s6 w42h2.tag.toNat = some w42r6 ∧ w42r6.kind = kWRITE ∧
      w42r6.discard = false ∧ ∀ (y : Req), y ∈ w42s6.reqs → y.held = false) ∧ w42r6.cont = Cont.coreAcc 3 4 ∧ accOf w42s6 3 4 = some w42a6 ∧
      w42a6.store = true)) :=
  ⟨⟨inv_of_check _ (by decide +kernel), by decide +kernel, arrives_of (by decide +kernel),
     arrives_of (by decide +kernel), arrives_of (by decide +kernel)⟩,
   ⟨inv_of_check _ (by decide +kernel), by decide +kernel, arrives_of (by decide +kernel)⟩,
   ⟨inv_of_check _ (by decide +kernel), by decide +kernel, arrives_of (by decide +kernel),
     by decide +kernel, arrives_of (by decide +kernel)⟩,
   ⟨inv_of_check _ (by decide +kernel), by decide +kernel, arrives_of (by decide +kernel),
     by decide +kernel⟩,
   ⟨inv_of_check _ (by decide +kernel), by decide +kernel, arrives_of (by decide +kernel),
     by decide +kernel⟩,
   ⟨inv_of_check _ (by decide +kernel), by decide +kernel, arrives_of (by decide +kernel),
     by decide +kernel⟩⟩

end PeerRequests

namespace PeerAnswers
open Policies (key rd rx cpy four hrun hplan hub)
/-- module 0 of a shape of two, with module 1 on its port 0 -/
def net (s : State := up) : State := shaped s
def hdr (addr len : Nat) : Hdr := { port := 0, hop := 0, nonmin := false, via := 0, src := 1, dst := 0, lc := false, poison := false, len := BitVec.ofNat 11 len, addr := BitVec.ofNat 45 addr, tag := 33, wellFormed := true }
def hl (n : Nat) : Hdr := hdr 0 n
def sh2 (l : List (Nat × Nat)) : State := withCsrs (net) l

def w43h1 : Hdr := hl 0
def w43s4 : State := sh2 [(semAddr 3 9, 0xFFFFFFFE), (tallyAddr 3 7, 5 + 12 * 2 ^ 32), (tallyCfgAddr 3 7, 4 * 2 ^ 32)]
def w43s5 : State := sh2 [(semAddr 3 9, 0xFFFFFFFA), (tallyAddr 3 7, 5 + 12 * 2 ^ 32), (tallyCfgAddr 3 7, 4 * 2 ^ 32)]
/-- States and operands that meet the hypotheses of `PeersSignalAndArrive`. -/
theorem witness_PeersSignalAndArrive :
    (Machine.Inv net ∧ Arrives net w43h1 kSIGNAL ∧ (0 < (5#32).toNat ∧ semVal net (3#8).toNat (9#8).toNat + (5#32).toNat < 2 ^ 32 ∧
      semQueue net (3#8).toNat (9#8).toNat = []) ∧ Arrives net w43h1 kTALLY ∧
      tallyDepth net (3#8).toNat (7#6).toNat < tallyGap (tallyVal net (3#8).toNat (7#6).toNat + (5#32).toNat) (csrF net (tallyAddr (3#8).toNat (7#6).toNat) 32 32) ∧
      Arrives net w43h1 kBAR_ARRIVE ∧ (w43h1.src.toNat / 16 = ownId net / 16 ∧
      ((1#2).toNat + 4 - (csrF net (fabState (4#5).toNat) 42 22 + 1) % 4) % 4 = 0 ∧ csrF net (fabState (4#5).toNat) 40 1 = 0)) ∧
    (Machine.Inv net ∧ Arrives net w43h1 kBAR_ARRIVE ∧ (w43h1.src.toNat / 16 = ownId net / 16 ∧
      ((2#2).toNat + 4 - (csrF net (fabState (4#5).toNat) 42 22 + 1) % 4) % 4 = 1)) ∧
    (Machine.Inv net ∧ Arrives net w43h1 kBAR_ARRIVE ∧ (w43h1.src.toNat / 16 = ownId net / 16 ∧
      2 ≤ ((3#2).toNat + 4 - (csrF net (fabState (4#5).toNat) 42 22 + 1) % 4) % 4)) ∧
    (Machine.Inv w43s4 ∧ Arrives w43s4 w43h1 kSIGNAL ∧ (0 < (5#32).toNat ∧ 2 ^ 32 ≤ semVal w43s4 (3#8).toNat (9#8).toNat + (5#32).toNat)) ∧
    (Machine.Inv w43s5 ∧ Arrives w43s5 w43h1 kTALLY ∧ (0 < (11#32).toNat ∧
      tallyGap (tallyVal w43s5 (3#8).toNat (7#6).toNat + (11#32).toNat) (csrF w43s5 (tallyAddr (3#8).toNat (7#6).toNat) 32 32) ≤ tallyDepth w43s5 (3#8).toNat (7#6).toNat)) :=
  ⟨⟨inv_of_check _ (by decide +kernel), arrives_of (by decide +kernel), by decide +kernel,
     arrives_of (by decide +kernel), by decide +kernel, arrives_of (by decide +kernel), by decide +kernel⟩,
   ⟨inv_of_check _ (by decide +kernel), arrives_of (by decide +kernel), by decide +kernel⟩,
   ⟨inv_of_check _ (by decide +kernel), arrives_of (by decide +kernel), by decide +kernel⟩,
   ⟨inv_of_check _ (by decide +kernel), arrives_of (by decide +kernel), by decide +kernel⟩,
   ⟨inv_of_check _ (by decide +kernel), arrives_of (by decide +kernel), by decide +kernel⟩⟩

end PeerAnswers

namespace Arriving
/-- module 0 of a shape of two, with module 1 on its port 0 -/
def net (s : State := up) : State := shaped s
def hdr (addr len : Nat) : Hdr := { port := 0, hop := 0, nonmin := false, via := 0, src := 1, dst := 0, lc := false, poison := false, len := BitVec.ofNat 11 len, addr := BitVec.ofNat 45 addr, tag := 33, wellFormed := true }
def fpl (st : Nat) (s : State) : State := { s with plans := [(2, some { demoPlan with fabric := true, run := if st = 0 then none else some { demoRun with released := true, inPhase := true } })] }
def fma : State → State := fun s => { s with plans := [(2, some { demoPlan with fabric := false, run := none })] }
/-- collective context 5: ALLGATHER of 6 32-bit elements to region 5, completion to tally 7 of tile 3 -/
def cd : List (Nat × Nat) := [(collDescAddr 5 0, 2), (collDescAddr 5 1, (mkLoc2 5 0x100).toNat), (collDescAddr 5 2, (mkLoc2 5 0x40).toNat), (collDescAddr 5 3, 6), (collDescAddr 5 4, 1 + 9 * 2 ^ 16), (collDescAddr 5 5, 3 + 7 * 2 ^ 8)]
def cs (f : State → State) : State := f (withCsrs (withRegion (net) 5 0x10000 1 (2 ^ 44)) cd)
def row0 (id tot ctx : Nat) (terms : Nat := 1) (n : Nat := 3) : List Byte := leBytes 8 (id + tot * 2 ^ 48) ++ leBytes 8 (terms + ctx * 2 ^ 38) ++ leBytes (4 * n) 5
def cq (d : Nat) : State := storeBytes (setCmb up 3 { Cmb.init with queue := [qd d, qd 7] }) 0x100001800000 (leBytes 64 aggD)
def ag : Agg := aggOf (BitVec.ofNat 512 aggD)
def cx : Ctx := { num := 4, agg := ag, expect := 0, ids := [100, 101], opening := [], closed := [], descAddr := 0, tag := 5, cache := [], signalled := 0 }
def p0 : PartMsg := ⟨2, 9, 100, 3, 4, leBytes 8 (100 + 2 * 2 ^ 48) ++ leBytes 8 (3 + 4 * 2 ^ 38 + 1 * 2 ^ 44) ++ packElem 0 ⟨77, false, false, false, false, true⟩ ++ packElem 0 ⟨-5, false, false, false, false, true⟩, 0, 0⟩
def d0 : Dest := { owner := 1000004, id := 100, pos := 0, acc := [⟨1, false, false, false, false, true⟩, Acc.empty], den := [], terms := 2, wide := 0, parts := 0, loosePsn := false, left := 0, allKnown := false, words := creditWords ag }
def withCx (s : State) (x : Ctx) (ds : List Dest) : State := setCmb s 3 { cmbOf s 3 with ctxs := [x], dests := ds }
def cst : State := net (withCx (cq 2) cx [d0])
def net2 (s : State := up) : State := { withCsrs (net s) [(portAddr 2, 2 + 3 * 16 + 2 * 2 ^ 15)] with shape := [0, 1, 3] }
def hdr2 (f : Hdr → Hdr) : Hdr := f { hdr 0 7 with dst := 3 }

def w44s11 : State := (combMerge cst 3 p0.row false).2
def w44h1 : Hdr := hdr 0 20
def w44row1 : List Byte := p0.row
def w44s2 : State := cs fma
def w44h2 : Hdr := hdr 0 19
def w44row2 : List Byte := row0 1 3 2
def w44data2 : List Byte := leBytes 4 99
def w44s3 : State := cs (fpl 0)
/-- States and operands that meet the hypotheses of `PartialsAndCollectivesMerge`. -/
theorem witness_PartialsAndCollectivesMerge :
    (Machine.Inv cst ∧ Arrives cst w44h1 kPARTIAL ∧ combMerge cst (3#8).toNat w44row1 w44h1.poison = (true, w44s11)) ∧
    (Machine.Inv w44s2 ∧ Arrives w44s2 w44h2 kPARTIAL ∧ cctxOf w44s2 (3#8).toNat (ofLE (List.take 8 (List.drop 8 w44row2)) / 2 ^ 38 % 16) = none ∧
      Arrives w44s2 w44h2 kCOLL ∧ (w44h2.len.toNat = w44data2.length + 15 ∧ fabricSlot w44s2 = none) ∧
      (∀ (j : Nat) (p : Plan), j < 8 → planOf w44s2 j = some p → p.fabric = false)) ∧
    (Machine.Inv w44s3 ∧ Arrives w44s3 w44h2 kCOLL ∧ (w44h2.len.toNat = w44data2.length + 15 ∧ fabricSlot w44s3 = none) ∧ (∃ j p, j < 8 ∧
      planOf w44s3 j = some p ∧ p.fabric = true)) :=
  ⟨⟨inv_of_check _ (by decide +kernel), arrives_of (by decide +kernel), by decide +kernel⟩,
   ⟨inv_of_check _ (by decide +kernel), arrives_of (by decide +kernel), by decide +kernel,
     arrives_of (by decide +kernel), by decide +kernel, no_fabric _ (by decide +kernel)⟩,
   ⟨inv_of_check _ (by decide +kernel), arrives_of (by decide +kernel), by decide +kernel, ⟨2, _,
     by decide +kernel, rfl, rfl⟩⟩⟩

def w45h1 : Hdr := hdr2 id
def w45data1 : List Byte := leBytes 8 77
def w45h2 : Hdr := hdr2 (fun h => { h with hop := 7 })
def w45h3 : Hdr := hdr2 (fun h => { h with src := 8 })
def w45s4 : State := { net2 with resetting := 1 }
def w45h4 : Hdr := hdr2 (fun h => { h with wellFormed := false })
/-- Every kind of packet with the header `h` and the data `d`, and what it is when it goes on. -/
def w45rows (h : Hdr) (d : List Byte) : List (Instr × Nat × List Byte × Bool) :=
  [(Instr.pktRead h, kREAD, [], true),
  (Instr.pktWrite h d, kWRITE, d, lenIs h d.length && d != []),
  (Instr.pktAtomic h (3#4) true false true 99#64 98#64, kATOMIC, leBytes 1 (3#4).toNat ++ leBytes 1 (bit true + 2 * bit false + 4 * bit true) ++ leBytes 6 0 ++ leBytes 8 (99#64).toNat ++ leBytes 8 (98#64).toNat, true),
  (Instr.pktReadResp h d, kREAD_RESP, d, lenIs h d.length && d != []),
  (Instr.pktAtomicResp h 99#64, kATOMIC_RESP, leBytes 8 (99#64).toNat, true),
  (Instr.pktAck h, kACK, [], lenIs h 0),
  (Instr.pktError h 7#8, kERROR, leBytes 8 (7#8).toNat, true),
  (Instr.pktSignal h 5#8 300#12 6#32, kSIGNAL, syncData (5#8).toNat (300#12).toNat (6#32).toNat, true),
  (Instr.pktTally h 5#8 300#12 6#32, kTALLY, syncData (5#8).toNat (300#12).toNat (6#32).toNat, true),
  (Instr.pktBarArrive h 3#5 2#2 1#3, kBAR_ARRIVE, arriveData (3#5).toNat (2#2).toNat (1#3).toNat, true),
  (Instr.pktPartial h (5#8) d, kPARTIAL, d, true),
  (Instr.pktProbe h, kPROBE, [], lenIs h 0),
  (Instr.pktProbeAck h, kPROBE_ACK, [], lenIs h 0),
  (Instr.pktMgmt h d, kMGMT, d, lenIs h d.length && d != []),
  (Instr.pktFence h 9#11, kFENCE, leBytes 8 (9#11).toNat, true),
  (Instr.pktMirror h d, kMIRROR, d, lenIs h d.length && d != []),
  (Instr.pktColl h (5#4) (5#8) (4#4) (3#4) (100#40) (2#2) (200#40) d, kCOLL, leBytes 1 (5#4).toNat ++ leBytes 1 (5#8).toNat ++ leBytes 1 ((4#4).toNat + 16 * (3#4).toNat) ++ leBytes 1 (2#2).toNat ++ leBytes 6 (100#40).toNat ++ leBytes 6 (200#40).toNat ++ d, lenIs h (leBytes 1 (5#4).toNat ++ leBytes 1 (5#8).toNat ++ leBytes 1 ((4#4).toNat + 16 * (3#4).toNat) ++ leBytes 1 (2#2).toNat ++ leBytes 6 (100#40).toNat ++ leBytes 6 (200#40).toNat ++ d).length)]
/-- States and operands that meet the hypotheses of `EveryPacketIsCheckedAndForwarded`. -/
theorem witness_EveryPacketIsCheckedAndForwarded :
    (Machine.Inv net2 ∧ (w45h1.port.toNat < 24 ∧ portUp net2 w45h1.port.toNat = true ∧
      ((someAnd (w45rows w45h1 w45data1)[0]? fun r => decide (deaf net2 = false ∧
      ¬(w45h1.wellFormed = false ∨ r.snd.snd.snd = false ∨ wrongPort w45h1.port.toNat r.snd.fst = true) ∧ net2.shape.contains w45h1.src.toNat = true ∧
      w45h1.dst.toNat ≠ ownId net2 ∧ asTwin net2 w45h1.dst.toNat = false ∧ w45h1.port.toNat ≠ 23 ∧ w45h1.hop.toNat < 7 ∧ w45h1.nonmin = false ∧
      route net2 (servedDev net2 w45h1.dst.toNat) = some (2, none))) = true) ∧
      ((someAnd (w45rows w45h1 w45data1)[5]? fun r => decide (deaf net2 = false ∧
      (w45h1.wellFormed = false ∨ r.snd.snd.snd = false ∨ wrongPort w45h1.port.toNat r.snd.fst = true))) = true))) ∧
    (Machine.Inv net2 ∧ (w45h2.port.toNat < 24 ∧ portUp net2 w45h2.port.toNat = true ∧
      ((someAnd (w45rows w45h2 w45data1)[0]? fun r => decide (deaf net2 = false ∧
      ¬(w45h2.wellFormed = false ∨ r.snd.snd.snd = false ∨ wrongPort w45h2.port.toNat r.snd.fst = true) ∧ net2.shape.contains w45h2.src.toNat = true ∧
      w45h2.dst.toNat ≠ ownId net2 ∧ asTwin net2 w45h2.dst.toNat = false ∧ w45h2.port.toNat ≠ 23 ∧ w45h2.hop.toNat = 7)) = true))) ∧
    (Machine.Inv net2 ∧ (w45h3.port.toNat < 24 ∧ portUp net2 w45h3.port.toNat = true ∧
      ((someAnd (w45rows w45h3 w45data1)[0]? fun r => decide (deaf net2 = false ∧
      ¬(w45h3.wellFormed = false ∨ r.snd.snd.snd = false ∨ wrongPort w45h3.port.toNat r.snd.fst = true) ∧
      net2.shape.contains w45h3.src.toNat = false)) = true))) ∧
    (Machine.Inv w45s4 ∧ (w45h4.port.toNat < 24 ∧ portUp w45s4 w45h4.port.toNat = true ∧
      ((someAnd (w45rows w45h4 w45data1)[0]? fun _ => decide (deaf w45s4 = true)) = true))) :=
  ⟨⟨inv_of_check _ (by decide +kernel), by decide +kernel⟩,
   ⟨inv_of_check _ (by decide +kernel), by decide +kernel⟩,
   ⟨inv_of_check _ (by decide +kernel), by decide +kernel⟩,
   ⟨inv_of_check _ (by decide +kernel), by decide +kernel⟩⟩

end Arriving

namespace Merging
open PeerRequests (net hdr net5 rq lacc ans hl l4 hclaim hpl)
def fpl (st : Nat) (s : State) : State := { s with plans := [(2, some { demoPlan with fabric := true, run := if st = 0 then none else some { demoRun with released := true, inPhase := true } })] }
/-- collective context 5: ALLGATHER of 6 32-bit elements to region 5, completion to tally 7 of tile 3 -/
def cd : List (Nat × Nat) := [(collDescAddr 5 0, 2), (collDescAddr 5 1, (mkLoc2 5 0x100).toNat), (collDescAddr 5 2, (mkLoc2 5 0x40).toNat), (collDescAddr 5 3, 6), (collDescAddr 5 4, 1 + 9 * 2 ^ 16), (collDescAddr 5 5, 3 + 7 * 2 ^ 8)]
def cs (f : State → State) : State := f (withCsrs (withRegion (net) 5 0x10000 1 (2 ^ 44)) cd)
def cl (st : Nat) (q : Nat := 9) : Coll := ⟨5, q, [], [], [], [(0, (0x11, false)), (1, (0x12345678, false)), (3, (7, true))], st⟩

def w44s1 : State := cs (fpl 1)
def w44h1 : Hdr := hdr 0 19
def w44data1 : List Byte := leBytes 4 99
def w44s2 : State := cs (fun s => { fpl 1 s with colls := [cl 3 7] })
def w44s3 : State := cs (fun s => { fpl 1 s with colls := [cl 3 9] })
def w44c3 : Coll := cl 3
def w44s4 : State := cs (fun s => { fpl 1 s with colls := [cl 4 9] })
def w44c4 : Coll := cl 4
def w44s5 : State := cs (fun s => { fpl 1 s with colls := [cl 5 9] })
def w44c5 : Coll := cl 5
def w44s6 : State := cs (fun s => { fpl 1 s with colls := [cl 5 9], reqs := [{ mq1 with cont := .mirror [32 * 1000005] none }] })
/-- Context 5 as an all-reduce of sums, running, and a packet whose data is no packed element. -/
def w44s7 : State := withCsrs (cs (fun s => { fpl 1 s with colls := [cl 1 9] })) [(collDescAddr 5 0, 4)]
def w44c7 : Coll := cl 1
/-- More of the hypotheses of `PartialsAndCollectivesMerge`. -/
theorem witness_PartialsAndCollectivesMerge_more :
    (Machine.Inv w44s1 ∧ Arrives w44s1 w44h1 kCOLL ∧ (w44h1.len.toNat = w44data1.length + 15 ∧ fabricSlot w44s1 = some 2 ∧
      (¬(cdOp (collDesc w44s1 (5#4).toNat) = (2#4).toNat ∧ cdRed (collDesc w44s1 (5#4).toNat) = (1#4).toNat ∧
      cdElems (collDesc w44s1 (5#4).toNat) = (6#40).toNat)))) ∧
    (Machine.Inv w44s2 ∧ Arrives w44s2 w44h1 kCOLL ∧ (w44h1.len.toNat = w44data1.length + 15 ∧ fabricSlot w44s2 = some 2 ∧
      cdOp (collDesc w44s2 (5#4).toNat) = (2#4).toNat ∧ cdRed (collDesc w44s2 (5#4).toNat) = (0#4).toNat ∧
      cdElems (collDesc w44s2 (5#4).toNat) = (6#40).toNat ∧ (∀ (y : Coll), y ∈ w44s2.colls → y.ctx = (5#4).toNat → y.seq ≠ (9#8).toNat))) ∧
    (Machine.Inv w44s3 ∧ Arrives w44s3 w44h1 kCOLL ∧ (w44h1.len.toNat = w44data1.length + 15 ∧ fabricSlot w44s3 = some 2 ∧
      cdOp (collDesc w44s3 (5#4).toNat) = (2#4).toNat ∧ cdRed (collDesc w44s3 (5#4).toNat) = (0#4).toNat ∧
      cdElems (collDesc w44s3 (5#4).toNat) = (6#40).toNat ∧
      (List.find? (fun y => y.ctx == (5#4).toNat && y.seq == (9#8).toNat) w44s3.colls = some w44c3) ∧ w44c3.ctx = (5#4).toNat ∧ 2 ≤ (2#2).toNat ∧
      2 ≤ w44c3.stage ∧ w44data1.length = cdOutB (collDesc w44s3 (5#4).toNat) ∧ 0 < cdOutB (collDesc w44s3 (5#4).toNat))) ∧
    (Machine.Inv w44s4 ∧ ((List.find? (fun y => y.ctx == (5#4).toNat && decide (4 ≤ y.stage)) w44s4.colls = some w44c4) ∧ w44c4.stage = 4 ∧
      1 ∈ (collOutElems w44s4 (collDesc w44s4 (5#4).toNat)).fst ∧ mirroring w44s4 = false)) ∧
    (Machine.Inv w44s5 ∧ ((List.find? (fun y => y.ctx == (5#4).toNat && decide (4 ≤ y.stage)) w44s5.colls = some w44c5) ∧ w44c5.stage = 5 ∧
      agentPending w44s5 (32 * (1000000 + (5#4).toNat)) = false ∧ csrF w44s5 (collStateAddr (5#4).toNat) 9 23 = 0 ∧
      (getF (collDesc w44s5 (5#4).toNat) 272 8 ≠ getF (collDesc w44s5 (5#4).toNat) 320 8 ∨ getF (collDesc w44s5 (5#4).toNat) 280 6 ≠ getF (collDesc w44s5 (5#4).toNat) 328 6) ∧
      tallyGap (tallyVal w44s5 (getF (collDesc w44s5 (5#4).toNat) 320 8) (getF (collDesc w44s5 (5#4).toNat) 328 6) + 1) (csrF w44s5 (tallyAddr (getF (collDesc w44s5 (5#4).toNat) 320 8) (getF (collDesc w44s5 (5#4).toNat) 328 6)) 32 32) ≤ tallyDepth w44s5 (getF (collDesc w44s5 (5#4).toNat) 320 8) (getF (collDesc w44s5 (5#4).toNat) 328 6))) ∧
    (Machine.Inv w44s6 ∧ ((List.find? (fun y => y.ctx == (5#4).toNat && decide (4 ≤ y.stage)) w44s6.colls = some w44c5) ∧ w44c5.stage = 5 ∧
      agentPending w44s6 (32 * (1000000 + (5#4).toNat)) = true)) ∧
    (Machine.Inv w44s7 ∧ Arrives w44s7 w44h1 kCOLL ∧ (w44h1.len.toNat = w44data1.length + 15 ∧ fabricSlot w44s7 = some 2 ∧
      cdOp (collDesc w44s7 (5#4).toNat) = (4#4).toNat ∧ cdRed (collDesc w44s7 (5#4).toNat) = (0#4).toNat ∧
      cdElems (collDesc w44s7 (5#4).toNat) = (6#40).toNat ∧ w44s7.colls.find? (fun y => y.ctx == (5#4).toNat && y.seq == (9#8).toNat) = some w44c7 ∧
      (1#2).toNat < 2 ∧ cdSum (collDesc w44s7 (5#4).toNat) = true ∧
      readPacked (cdCls (collDesc w44s7 (5#4).toNat)) w44data1.length w44data1 = none)) :=
  ⟨⟨inv_of_check _ (by decide +kernel), arrives_of (by decide +kernel), by decide +kernel⟩,
   ⟨inv_of_check _ (by decide +kernel), arrives_of (by decide +kernel), by decide +kernel⟩,
   ⟨inv_of_check _ (by decide +kernel), arrives_of (by decide +kernel), by decide +kernel⟩,
   ⟨inv_of_check _ (by decide +kernel), by decide +kernel⟩,
   ⟨inv_of_check _ (by decide +kernel), by decide +kernel⟩,
   ⟨inv_of_check _ (by decide +kernel), by decide +kernel⟩,
   ⟨inv_of_check _ (by decide +kernel), arrives_of (by decide +kernel), by decide +kernel⟩⟩

end Merging

namespace Twins
open PeerRequests (net hdr net5 rq lacc ans hl l4 hclaim hpl)
open Merging (fpl cd cs cl)
/-- paired with module 1 on port 23, state st -/
def tws (st : Nat) (s : State := up) : State := withCsrs (net s) [(twnCsr 0x10, st + 1 * 8), (portAddr 23, 2 + 1 * 16 + 23 * 2 ^ 15)]
def shd : Shadow := ⟨4, 0x40000, 1, 0x10000, 1 + 2 ^ 27 + 2 ^ 44, none⟩
def twx (st : Nat) (f : Twin → Twin := id) (s : State := up) : State := { tws st s with twin := f { Twin.init with shadows := [shd] } }
def h23 (a n : Nat) : Hdr := { hdr a n with port := 23 }
def rec2 : List Byte := leBytes 1 2 ++ leBytes 1 3 ++ leBytes 6 0 ++ leBytes 8 77 ++ leBytes 48 0
def tr (x : Option State) : State := x.getD up
def net4 (s : State := up) : State := { net s with shape := [0, 1, 3] }

def w46s1 : State := twx 2
def w46h1 : Hdr := h23 0x40040 63
def w46data1 : List Byte := leBytes 64 5
def w46x1 : Shadow := shd
def w46s2 : State := twx 1
def w46h2 : Hdr := h23 0x50040 63
def w46s3 : State := twx 3
def w46s14 : State := tr (takeRecord (twx 2) rec2 false)
def w46h4 : Hdr := h23 0x1C0000000000 63
def w46data4 : List Byte := rec2
def w46h5 : Hdr := hdr 0 0
def w46data5 : List Byte := [9]
def w46s6 : State := twx 2 (fun t => { t with probing := some (7, false)})
def w46data7 : List Byte := [0x12]
def w46s8 : State := { twx 2 with mgmtIn := List.replicate (Config.mgmtDepth + 1) (1, [0x12]) }
/-- States and operands that meet the hypotheses of `TwinAndStewardPacketsAct`. -/
theorem witness_TwinAndStewardPacketsAct :
    (Machine.Inv w46s1 ∧ Arrives w46s1 w46h1 kMIRROR ∧ (w46data1.length = w46h1.len.toNat + 1 ∧ pairedNow w46s1 = true ∧
      w46h1.addr.toNat ≠ 30786325577728 ∧ shadowAt w46s1 w46h1.addr.toNat (w46h1.len.toNat + 1) = some w46x1) ∧ Arrives w46s1 w46h1 kFENCE) ∧
    (Machine.Inv w46s2 ∧ Arrives w46s2 w46h2 kMIRROR ∧ (w46data1.length = w46h2.len.toNat + 1 ∧ pairedNow w46s2 = true ∧
      w46h2.addr.toNat ≠ 30786325577728 ∧ shadowAt w46s2 w46h2.addr.toNat (w46h2.len.toNat + 1) = none) ∧
      (∀ (r : Req), r ∈ w46s2.reqs → ∀ (o : List Nat) (k : Option Nat), r.cont ≠ Cont.mirror o k)) ∧
    (Machine.Inv w46s3 ∧ Arrives w46s3 w46h2 kMIRROR ∧ (w46data1.length = w46h2.len.toNat + 1 ∧ pairedNow w46s3 = false)) ∧
    (Machine.Inv w46s1 ∧ Arrives w46s1 w46h4 kMIRROR ∧ (w46data4.length = w46h4.len.toNat + 1 ∧ pairedNow w46s1 = true ∧
      w46h4.addr.toNat = 30786325577728 ∧ takeRecord w46s1 w46data4 w46h4.poison = some w46s14)) ∧
    (Machine.Inv w46s1 ∧ Arrives w46s1 w46h5 kPROBE ∧ w46h5.len = 0 ∧ Arrives w46s1 w46h5 kPROBE_ACK ∧ w46s1.twin.probing = none ∧
      Arrives w46s1 w46h5 kMGMT ∧ (w46data5.length = w46h5.len.toNat + 1 ∧ w46s1.mgmtIn.length ≤ Config.mgmtDepth ∧ keptMsg w46data5 = false)) ∧
    (Machine.Inv w46s6 ∧ Arrives w46s6 w46h5 kPROBE_ACK ∧ (w46h5.len = 0 ∧ w46s6.twin.probing = some (7, false) ∧ w46h5.src.toNat = twinId w46s6)) ∧
    (Machine.Inv w46s1 ∧ Arrives w46s1 w46h5 kMGMT ∧ (w46data7.length = w46h5.len.toNat + 1 ∧ w46s1.mgmtIn.length ≤ Config.mgmtDepth ∧
      keptMsg w46data7 = true)) ∧
    (Machine.Inv w46s8 ∧ Arrives w46s8 w46h5 kMGMT ∧ w46data7.length = w46h5.len.toNat + 1 ∧ Config.mgmtDepth < w46s8.mgmtIn.length) :=
  ⟨⟨inv_of_check _ (by decide +kernel), arrives_of (by decide +kernel), by decide +kernel,
     arrives_of (by decide +kernel)⟩,
   ⟨inv_of_check _ (by decide +kernel), arrives_of (by decide +kernel), by decide +kernel,
     none_listed _ rfl⟩,
   ⟨inv_of_check _ (by decide +kernel), arrives_of (by decide +kernel), by decide +kernel⟩,
   ⟨inv_of_check _ (by decide +kernel), arrives_of (by decide +kernel), by decide +kernel⟩,
   ⟨inv_of_check _ (by decide +kernel), arrives_of (by decide +kernel), by decide +kernel,
     arrives_of (by decide +kernel), by decide +kernel, arrives_of (by decide +kernel), by decide +kernel⟩,
   ⟨inv_of_check _ (by decide +kernel), arrives_of (by decide +kernel), by decide +kernel⟩,
   ⟨inv_of_check _ (by decide +kernel), arrives_of (by decide +kernel), by decide +kernel⟩,
   ⟨inv_of_check _ (by decide +kernel), arrives_of (by decide +kernel), by decide +kernel,
     lt_replicate _ _⟩⟩

def w47s2 : State := net4 { up with resetting := 1 }
def w47s3 : State := fpl 1 (net4)
def w47s5 : State := twx 2
def w47s6 : State := twx 1
/-- States and operands that meet the hypotheses of `NoticesSetThePeersState`. -/
theorem witness_NoticesSetThePeersState :
    (Machine.Inv net4 ∧ ((1#11).toNat ≠ ownId net4 ∧ net4.shape.contains (1#11).toNat = true ∧ deaf net4 = false ∧ net4.now ≤ 99 ∧
      (3#11).toNat ≠ ownId net4 ∧ csrF net4 (peerAddr (1#11).toNat) 0 2 < 2 ∧ csrF net4 (peerAddr (3#11).toNat) 0 2 ≠ 3 ∧ fabricSlot net4 = none ∧
      (1#11).toNat ≠ twinId net4 ∧ (∀ (r : Req), r ∈ net4.reqs → r.dst ≠ (1#11).toNat) ∧
      (List.filter (fun j => Option.map (fun p => p.id) (planOf net4 j) == some 0#64) (activeSlots net4) = []) ∧ (3#11).toNat ≠ (1#11).toNat ∧
      (∀ (e : Nat × Nat), e ∈ net4.servedBy → e.fst ≠ (1#11).toNat) ∧ (∀ (r : Req), r ∈ net4.reqs → r.dst ≠ (3#11).toNat))) ∧
    (Machine.Inv w47s2 ∧ ((1#11).toNat ≠ ownId w47s2 ∧ w47s2.shape.contains (1#11).toNat = true ∧ deaf w47s2 = true)) ∧
    (Machine.Inv w47s3 ∧ ((1#11).toNat ≠ ownId w47s3 ∧ w47s3.shape.contains (1#11).toNat = true ∧ deaf w47s3 = false ∧ (3#11).toNat ≠ ownId w47s3 ∧
      csrF w47s3 (peerAddr (1#11).toNat) 0 2 < 2 ∧ csrF w47s3 (peerAddr (3#11).toNat) 0 2 ≠ 3 ∧ fabricSlot w47s3 = some 2 ∧
      w47s3.shape.contains (3#11).toNat = true ∧ twinAnswers w47s3 (3#11).toNat = false ∧ (1#11).toNat ≠ twinId w47s3 ∧
      (∀ (r : Req), r ∈ w47s3.reqs → r.dst ≠ (1#11).toNat) ∧ twinAnswers w47s3 (1#11).toNat = false ∧
      (List.filter (fun j => Option.map (fun p => p.id) (planOf w47s3 j) == some 9#64) (activeSlots w47s3) = [2]))) ∧
    (Machine.Inv w47s3 ∧ ((1#11).toNat ≠ ownId w47s3 ∧ w47s3.shape.contains (1#11).toNat = true ∧ deaf w47s3 = false ∧ (0#11).toNat = ownId w47s3 ∧
      csrF w47s3 (peerAddr (1#11).toNat) 0 2 < 2 ∧ w47s3.rest = 0 ∧ twinState w47s3 ≠ 4)) ∧
    (Machine.Inv w47s5 ∧ ((1#11).toNat ≠ ownId w47s5 ∧ w47s5.shape.contains (1#11).toNat = true ∧ deaf w47s5 = false ∧ portUp w47s5 23 = true ∧
      w47s5.now ≤ 99 ∧ (1#11).toNat = twinId w47s5 ∧ pairedNow w47s5 = true ∧ (1#8).toNat ≠ 3)) ∧
    (Machine.Inv w47s6 ∧ ((1#11).toNat ≠ ownId w47s6 ∧ w47s6.shape.contains (1#11).toNat = true ∧ deaf w47s6 = false ∧ portUp w47s6 23 = true ∧
      w47s6.now ≤ 99 ∧ (1#11).toNat = twinId w47s6 ∧ pairedNow w47s6 = true ∧ (3#8).toNat = 3)) ∧
    (Machine.Inv w47s5 ∧ ((8#11).toNat ≠ ownId w47s5 ∧ w47s5.shape.contains (8#11).toNat = false ∧ deaf w47s5 = false ∧ portUp w47s5 23 = true ∧
      w47s5.now ≤ 99)) :=
  ⟨⟨inv_of_check _ (by decide +kernel), by decide +kernel⟩,
   ⟨inv_of_check _ (by decide +kernel), by decide +kernel⟩,
   ⟨inv_of_check _ (by decide +kernel), by decide +kernel⟩,
   ⟨inv_of_check _ (by decide +kernel), by decide +kernel⟩,
   ⟨inv_of_check _ (by decide +kernel), by decide +kernel⟩,
   ⟨inv_of_check _ (by decide +kernel), by decide +kernel⟩,
   ⟨inv_of_check _ (by decide +kernel), by decide +kernel⟩⟩

end Twins

namespace Timers
open PeerRequests (net hdr net5 rq lacc ans hl l4 hclaim hpl)
open Merging (fpl cd cs cl)
open Twins (tws shd twx h23 rec2 tr net4)
def lr : Req := rq 1 8 (.coreAcc 3 4)

def w48s1 : State := ans (some lr) (lacc false)
def w48r1 : Req := lr
def w48a1 : CoreAcc := lacc false
def w48s2 : State := { net4 with probes := [(1, 9), (3, 7)] }
def w48s3 : State := { net4 with gov := { Gov.init with tjOn := true, slowAt := some 7 } }
def w48s4 : State := { withCsrs net4 [(peerAddr 3, 1 + 2 * 4)] with slowAt := [(3, 7)] }
def w48s5 : State := twx 2
def w48s6 : State := twx 2 (fun t => { t with probing := some (7, true) })
def w48s7 : State := twx 2 (fun t => { t with probing := some (7, false) }) (withCsrs up [(twnCsr 0, 1)])
def w48s8 : State := twx 2 (fun t => { t with probing := some (7, false) }) (withCsrs up [(twnCsr 0, 3)])
def w48s9 : State := twx 2 (fun t => { t with fencing := some (7) }) (withCsrs up [(twnCsr 0, 3)])
/-- States and operands that meet the hypotheses of `FabricAndTwinTimersExpire`. -/
theorem witness_FabricAndTwinTimersExpire :
    (Machine.Inv w48s1 ∧ (w48s1.now ≤ 10000000000 ∧ 3 < 256 ∧ reqOf w48s1 (33#24).toNat = some w48r1 ∧ w48r1.held = false ∧ w48r1.kind = kREAD ∧
      csrF w48s1 (peerAddr w48r1.dst) 0 2 ≠ 1 ∧ w48r1.sentAt + csrF w48s1 (fabCsr 0) 13 14 * 1000000 ≤ 10000000000 ∧
      (∀ (y : Req), y ∈ w48s1.reqs → y.held = false) ∧ w48r1.discard = false ∧ w48r1.cont = Cont.coreAcc 3 4 ∧ accOf w48s1 3 4 = some w48a1 ∧
      (coreOf w48s1 3).task.any (fun y => y.id == w48a1.tag) = true)) ∧
    (Machine.Inv w48s2 ∧ (w48s2.now ≤ 1000007 ∧ 3 < 256 ∧ (List.find? (fun p => p.fst == (3#11).toNat) w48s2.probes = some ((3#11).toNat, 7)) ∧
      7 + 1000000 ≤ 1000007 ∧ csrF w48s2 (peerAddr (3#11).toNat) 0 2 ≠ 3)) ∧
    (Machine.Inv w48s3 ∧ (w48s3.now ≤ 1000007 ∧ 3 < 256 ∧ w48s3.gov.slowAt = some 7 ∧ 7 + 1000000 ≤ 1000007 ∧ slowCause w48s3 ≠ 0)) ∧
    (Machine.Inv w48s4 ∧ (w48s4.now ≤ 5000007 ∧ 3 < 256 ∧ csrF w48s4 (peerAddr (3#11).toNat) 0 2 = 1 ∧
      (tabGet (fun _ => 0) w48s4.slowAt (3#11).toNat + 5000000 ≤ 5000007))) ∧
    (Machine.Inv w48s5 ∧ (w48s5.now ≤ 2000000 ∧ 3 < 256 ∧ pairedNow w48s5 = true ∧ halted w48s5 = false ∧
      2000000 % (csrF w48s5 (twnCsr 8) 0 16 * 1000) = 0 ∧ w48s5.twin.probing = none ∧
      w48s5.twin.lastBeat + csrF w48s5 (twnCsr 8) 16 16 * 1000 ≤ 2000000)) ∧
    (Machine.Inv w48s6 ∧ (w48s6.now ≤ 2000000 ∧ 3 < 256 ∧ w48s6.twin.probing = some (7, true) ∧ twinState w48s6 ≠ 3)) ∧
    (Machine.Inv w48s7 ∧ (w48s7.now ≤ 2000000 ∧ 3 < 256 ∧ w48s7.twin.probing = some (7, false) ∧ pairedNow w48s7 = true ∧
      csrF w48s7 (twnCsr 0) 1 1 = 0)) ∧
    (Machine.Inv w48s8 ∧ (w48s8.now ≤ 2000000 ∧ 3 < 256 ∧ w48s8.twin.probing = some (7, false) ∧ pairedNow w48s8 = true ∧
      csrF w48s8 (twnCsr 0) 1 1 = 1 ∧ activeSlots w48s8 = []) ∧
      (∀ (y : Req), y ∈ w48s8.reqs → ∀ (o : List Nat) (c : Option Nat), y.cont ≠ Cont.mirror o c)) ∧
    (Machine.Inv w48s9 ∧ (w48s9.now ≤ 2000000 ∧ 3 < 256 ∧ w48s9.twin.fencing = some 7 ∧ 7 + 1000000 ≤ 2000000 ∧ activeSlots w48s9 = []) ∧
      (∀ (y : Req), y ∈ w48s9.reqs → ∀ (o : List Nat) (c : Option Nat), y.cont ≠ Cont.mirror o c)) :=
  ⟨⟨inv_of_check _ (by decide +kernel), by decide +kernel⟩,
   ⟨inv_of_check _ (by decide +kernel), by decide +kernel⟩,
   ⟨inv_of_check _ (by decide +kernel), by decide +kernel⟩,
   ⟨inv_of_check _ (by decide +kernel), by decide +kernel⟩,
   ⟨inv_of_check _ (by decide +kernel), by decide +kernel⟩,
   ⟨inv_of_check _ (by decide +kernel), by decide +kernel⟩,
   ⟨inv_of_check _ (by decide +kernel), by decide +kernel⟩,
   ⟨inv_of_check _ (by decide +kernel), by decide +kernel, none_listed _ rfl⟩,
   ⟨inv_of_check _ (by decide +kernel), by decide +kernel, none_listed _ rfl⟩⟩

end Timers

namespace Ledgers
def msg (src kind lev : Nat) (t : Nat := 40) : Msg := ⟨BitVec.ofNat 16 src, BitVec.ofNat 8 kind, BitVec.ofNat 2 lev, true, false, 5, BitVec.ofNat 40 t⟩
def ldg (f : Ledger → Ledger) (s : State := up) : State := { s with ledger := f Ledger.init, now := 50 }
def run3 (s : State) : State := { s with plans := [(2, some { demoPlan with run := some { demoRun with released := true, inPhase := true } })] }
def ce (p : Nat) (pend : Option LogRec) (g : Option Nat) : ClassEnt := ⟨3, 0x11, p, [30], 2, some (30, 7), 30, pend, g⟩
def lrec (lev : Nat) : LogRec := ⟨msg 3 0x11 0, false, false, lev, 30, 7, 1, 0, 2, 0⟩
def le (c : ClassEnt) (s : State := up) : State := ldg (fun l => { l with classes := [(2, some c)] }) s

def w49s1 : State := ldg id
def w49o1 : Option Msg := some (msg 3 0x11 0)
def w49m1 : Msg := msg 3 0x11 0
def w49rest1 : List Msg := []
def w49s2 : State := ldg (fun l => { l with queue := [msg 3 0x11 1, msg 4 5 0] }) (run3 (withCore id))
def w49o2 : Option Msg := none
def w49m2 : Msg := msg 3 0x11 1
def w49rest2 : List Msg := [msg 4 5 0]
def w49s3 : State := ldg (fun l => { l with queue := [msg 3 0x11 2, msg 4 5 0] }) (run3 (withCore id))
def w49m3 : Msg := msg 3 0x11 2
def w49s4 : State := ldg (fun l => { l with queue := [msg 3 0x11 3, msg 4 5 0] }) (run3 (withCore id))
def w49m4 : Msg := msg 3 0x11 3
def w49s5 : State := le (ce 0 none none) (withCsrs up [(ldgCsr 0x10, 9)])
def w49c5 : ClassEnt := ce 0 none none
def w49v5 : Word := 3 + 0x11 * 2 ^ 16
def w49s6 : State := le (ce 1 (some (lrec 0)) (some 60))
def w49c6 : ClassEnt := ce 1 (some (lrec 0)) (some 60)
def w49r6 : LogRec := lrec 0
def w49y6 : BitVec 8 := 0x11
def w49s7 : State := le (ce 1 none none) (run3 up)
def w49c7 : ClassEnt := ce 1 none none
def w49s8 : State := le (ce 1 none none) (withCsrs up [(ldgCsr 0, 2), (ldgCsr 0x30, 77)])
def w49v8 : Word := 3 + 0x11 * 2 ^ 16 + 2 ^ 24
/-- States and operands that meet the hypotheses of `LedgerRecordsActsAndRecovers`. -/
theorem witness_LedgerRecordsActsAndRecovers :
    (Machine.Inv w49s1 ∧ ((w49o1 = none ∧ w49s1.ledger.queue = w49m1 :: w49rest1 ∨ w49o1 = some w49m1 ∧ w49s1.ledger.queue = [] ∧ w49rest1 = []) ∧
      w49s1.ledger.held = [] ∧ w49s1.ledger.dropped = false ∧ classOf w49s1 w49m1.source.toNat w49m1.kind.toNat = none ∧
      (firstGap 0 (List.map (fun e => e.fst) w49s1.ledger.classes) < 1023) ∧ 2 ≤ faultN w49s1 ∧ w49m1.level.toNat = 0 ∧ stewardUp w49s1 = true ∧
      csrF w49s1 (ldgCsr 0) 1 1 = 0)) ∧
    (Machine.Inv w49s2 ∧ ((w49o2 = none ∧ w49s2.ledger.queue = w49m2 :: w49rest2 ∨ w49o2 = some w49m2 ∧ w49s2.ledger.queue = [] ∧ w49rest2 = []) ∧
      w49s2.ledger.held = [] ∧ w49s2.ledger.dropped = false ∧ classOf w49s2 w49m2.source.toNat w49m2.kind.toNat = none ∧
      (firstGap 0 (List.map (fun e => e.fst) w49s2.ledger.classes) < 1023) ∧ 2 ≤ faultN w49s2 ∧ w49m2.level.toNat = 1 ∧
      slotOfSource w49s2 w49m2.source.toNat = some 2)) ∧
    (Machine.Inv w49s3 ∧ ((w49o2 = none ∧ w49s3.ledger.queue = w49m3 :: w49rest2 ∨ w49o2 = some w49m3 ∧ w49s3.ledger.queue = [] ∧ w49rest2 = []) ∧
      w49s3.ledger.held = [] ∧ w49s3.ledger.dropped = false ∧ classOf w49s3 w49m3.source.toNat w49m3.kind.toNat = none ∧
      (firstGap 0 (List.map (fun e => e.fst) w49s3.ledger.classes) < 1023) ∧ 2 ≤ faultN w49s3 ∧ w49m3.level.toNat = 2 ∧
      w49m3.source.toNat / 4096 = 0 ∧ w49m3.kind.toNat = 17 ∧ halted w49s3 = false)) ∧
    (Machine.Inv w49s4 ∧ ((w49o2 = none ∧ w49s4.ledger.queue = w49m4 :: w49rest2 ∨ w49o2 = some w49m4 ∧ w49s4.ledger.queue = [] ∧ w49rest2 = []) ∧
      w49s4.ledger.held = [] ∧ w49s4.ledger.dropped = false ∧ classOf w49s4 w49m4.source.toNat w49m4.kind.toNat = none ∧
      (firstGap 0 (List.map (fun e => e.fst) w49s4.ledger.classes) < 1023) ∧ 2 ≤ faultN w49s4 ∧ w49m4.level.toNat = 3 ∧ w49s4.rest = 0)) ∧
    (Machine.Inv w49s5 ∧ ((w49o1 = none ∧ w49s5.ledger.queue = w49m1 :: w49rest1 ∨ w49o1 = some w49m1 ∧ w49s5.ledger.queue = [] ∧ w49rest1 = []) ∧
      w49s5.ledger.held = [] ∧ w49s5.ledger.dropped = false ∧ classOf w49s5 w49m1.source.toNat w49m1.kind.toNat = some (2, w49c5) ∧
      w49c5.last = some (30, 7) ∧ extendTime w49s5 w49m1 < 30 + coalesceNs w49s5 ∧ w49m1.level.toNat = 0 ∧ stewardUp w49s5 = true ∧
      classOf w49s5 (getF w49v5 0 16) (getF w49v5 16 8) = some (2, w49c5))) ∧
    (Machine.Inv w49s6 ∧ (classOf w49s6 (3#16).toNat w49y6.toNat = some (2, w49c6) ∧ w49c6.pending = some w49r6 ∧ w49c6.graceAt = some 60 ∧ 60 ≤ 100 ∧
      w49s6.now ≤ 100 ∧ halted w49s6 = false)) ∧
    (Machine.Inv w49s7 ∧ (classOf w49s7 (3#16).toNat w49y6.toNat = some (2, w49c7) ∧ w49c7.p ≠ 0 ∧ w49c7.pending = none ∧
      w49c7.lastSeen + quietNs w49s7 ≤ 100000000000000 ∧ w49s7.now ≤ 100000000000000 ∧ halted w49s7 = false ∧
      (firstGap 0 (List.map (fun e => e.fst) w49s7.ledger.classes) < 1023) ∧ w49s7.pins.heartbeatOn = true ∧
      w49s7.pins.heartbeatAt + 500000 ≤ 100000000000000)) ∧
    (Machine.Inv w49s8 ∧ (stewardUp w49s8 = true ∧ csrF w49s8 (ldgCsr 0) 1 1 = 1 ∧ getF w49v8 24 16 ≠ 0 ∧
      (getF w49v8 16 8 = 16 ∨ getF w49v8 16 8 = 17 ∨ getF w49v8 16 8 = 18 ∨ getF w49v8 16 8 = 48))) :=
  ⟨⟨inv_of_check _ (by decide +kernel), by decide +kernel⟩,
   ⟨inv_of_check _ (by decide +kernel), by decide +kernel⟩,
   ⟨inv_of_check _ (by decide +kernel), by decide +kernel⟩,
   ⟨inv_of_check _ (by decide +kernel), by decide +kernel⟩,
   ⟨inv_of_check _ (by decide +kernel), by decide +kernel⟩,
   ⟨inv_of_check _ (by decide +kernel), by decide +kernel⟩,
   ⟨inv_of_check _ (by decide +kernel), by decide +kernel⟩,
   ⟨inv_of_check _ (by decide +kernel), by decide +kernel⟩⟩

end Ledgers

namespace Governing
def gv (f : Gov → Gov) (s : State := up) : State := { s with gov := f Gov.init }

def w50s1 : State := gv id
def w50s2 : State := gv (fun g => { g with cap := ⟨600, [64, 9, 64, 64, 64]⟩, powerHist := [900, 1000] })
def w50s3 : State := gv (fun g => { g with cap := ⟨600, [64, 64, 64, 64, 64]⟩, powerHist := [900, 1000], belowSince := some 7 })
def w50s4 : State := gv (fun g => { g with cap := ⟨600, [64, 64, 64, 64, 64]⟩}) (withCsrs up [(govCsr 0, (csrGet up (govCsr 0)).toNat + 2)])
def w50reading6 : BitVec 16 := BitVec.ofInt 16 (-4001)
def w50s7 : State := gv (fun g => { g with fast := some 7, brown := some (700, 7), sensors := [(4, some (2000, 5))] })
/-- States and operands that meet the hypotheses of `GovernorLimitsAndReleases`. -/
theorem witness_GovernorLimitsAndReleases :
    (Machine.Inv w50s1 ∧ (govUp w50s1 = true ∧ w50s1.now ≤ 50000 ∧ 50000 % 50000 = 0 ∧ csrF w50s1 (govCsr 0) 1 1 = 0 ∧ w50s1.colls = [] ∧
      capW w50s1 < (1300#11).toNat ∧ 600 < min w50s1.gov.cap.vcore (govTarget w50s1) ∧ (5#7).toNat < 96 ∧
      sensorBad w50s1 (5#7).toNat (11000#16).toInt = false ∧ 11000 ≤ (11000#16).toInt ∧ w50s1.gov.emergency = false ∧ w50s1.gov.fast = none ∧
      w50s1.gov.brown = none)) ∧
    (Machine.Inv w50s2 ∧ (govUp w50s2 = true ∧ w50s2.now ≤ 50000 ∧ 50000 % 50000 = 0 ∧ csrF w50s2 (govCsr 0) 1 1 = 0 ∧ w50s2.colls = [] ∧
      capW w50s2 < (1501#11).toNat ∧ min w50s2.gov.cap.vcore (govTarget w50s2) ≤ 600)) ∧
    (Machine.Inv w50s3 ∧ (govUp w50s3 = true ∧ w50s3.now ≤ 2050000 ∧ 2050000 % 50000 = 0 ∧ csrF w50s3 (govCsr 0) 1 1 = 0 ∧
      (100#11).toNat ≤ capW w50s3 ∧ 100 * (100#11).toNat ≤ 98 * capW w50s3 ∧ w50s3.gov.belowSince = some 7 ∧ 7 + 2000000 ≤ 2050000 ∧
      w50s3.gov.raisedAt + 200000 ≤ 2050000 ∧ (∀ (a : Nat), a ∈ w50s3.gov.cap.admits → a = 64) ∧ w50s3.gov.cap ≠ Limit.max)) ∧
    (Machine.Inv w50s4 ∧ (govUp w50s4 = true ∧ w50s4.now ≤ 2050000 ∧ 2050000 % 50000 = 0 ∧ csrF w50s4 (govCsr 0) 1 1 = 1 ∧ (100#11).toNat ≤ 1500)) ∧
    (Machine.Inv w50s4 ∧ (govUp w50s4 = true ∧ w50s4.now ≤ 2050000 ∧ 2050000 % 50000 = 0 ∧ csrF w50s4 (govCsr 0) 1 1 = 1 ∧ 1500 < (1501#11).toNat)) ∧
    (Machine.Inv w50s4 ∧ (govUp w50s4 = true ∧ w50s4.now ≤ 2050000 ∧ (5#7).toNat < 96 ∧ sensorBad w50s4 (5#7).toNat w50reading6.toInt = true ∧
      (¬(5#7).toNat ∈ w50s4.gov.excluded))) ∧
    (Machine.Inv w50s7 ∧ (govUp w50s7 = true ∧ w50s7.now ≤ 2050000 ∧ w50s7.gov.fast = some 7 ∧ 7 + 100000 ≤ 2050000 ∧
      w50s7.gov.brown = some (700, 7) ∧ 7 + 1000000 ≤ 2050000)) :=
  ⟨⟨inv_of_check _ (by decide +kernel), by decide +kernel⟩,
   ⟨inv_of_check _ (by decide +kernel), by decide +kernel⟩,
   ⟨inv_of_check _ (by decide +kernel), by decide +kernel⟩,
   ⟨inv_of_check _ (by decide +kernel), by decide +kernel⟩,
   ⟨inv_of_check _ (by decide +kernel), by decide +kernel⟩,
   ⟨inv_of_check _ (by decide +kernel), by decide +kernel⟩,
   ⟨inv_of_check _ (by decide +kernel), by decide +kernel⟩⟩

end Governing

namespace Booting
open PeerRequests (net hdr)
def cmd0 (op : Nat) : Cmd := { opcode := op, tag := 5, payload := [], oob := false, started := true, since := 0, rounds := [], errs := [], firstFail := none }
def bt (b : Nat) (f : State → State := id) : State := f { up with boot := b, now := 90 }

def w52s1 : State := bt 1
def w52s2 : State := bt 2
def w52s3 : State := bt 3
def w52s4 : State := bt 4
def w52s5 : State := bt 5
def w52s6 : State := bt 6
def w52s7 : State := bt 7
def w52s8 : State := bt 0 (fun s => { s with resetting := 1, cmd := some (cmd0 0x81) })
def w52s9 : State := bt 0 (fun s => { s with mgmt := { Mgmt.init with confirmAt := [(true, 95)] } })
def w52x9 : Bool × Nat := (true, 95)
def w52s10 : State := bt 0 (fun s => fplan s |> fun s => { s with plans := [(2, some { demoPlan with run := some demoRun })] })
def w52s11 : State := bt 0 (fun s => { s with rest := 1 })
def w52s12 : State := bt 0 (fun s => { s with dstate := 3 })
def w52s13 : State := bt 0 (fun s => { s with rest := 2 })
def w52s14 : State := bt 0 (fun s => { s with rest := 2, ledger := { Ledger.init with haltNext := some (3, 0x43, 0) } })
def w52h15 : Hdr := hdr 0 0
def w52s15 : State := net (bt 0 (fun s => { s with rest := 2, woken := [.pktProbe w52h15] }))
/-- States and operands that meet the hypotheses of `BootAndRestProceed`. -/
theorem witness_BootAndRestProceed :
    (Machine.Inv w52s1 ∧ (w52s1.pins.aux = true ∧ w52s1.boot = 1 ∧ bootSlot w52s1 false = some 0)) ∧
    (Machine.Inv w52s2 ∧ (w52s2.pins.aux = true ∧ w52s2.boot = 2 ∧ w52s2.pins.pwrEn = true)) ∧
    (Machine.Inv w52s3 ∧ (w52s3.pins.aux = true ∧ w52s3.boot = 3 ∧ w52s3.pins.pwrEn = true ∧ w52s3.pins.moduleReset = false)) ∧
    (Machine.Inv w52s4 ∧ (w52s4.pins.aux = true ∧ w52s4.boot = 4 ∧ bootSlot w52s4 true = some 2)) ∧
    (Machine.Inv w52s5 ∧ (w52s5.pins.aux = true ∧ w52s5.boot = 5 ∧ w52s5.pins.mains = true ∧ w52s5.rest = 0 ∧ w52s5.resetting = 0 ∧
      (w52s5.boot = 0 ∨ w52s5.boot = 5 ∨ w52s5.boot = 6 ∨ w52s5.boot = 7) ∧ csrF w52s5 (inkCsr 24) (18 + (2#2).toNat) 1 = 0 ∧ w52s5.now ≤ 5000000000 ∧
      (tabGet (fun _ => 0) w52s5.mgmt.kicks (2#2).toNat + csrF w52s5 (inkCsr 24) 4 14 * 1000000 ≤ 5000000000) ∧ stewardUp w52s5 = true)) ∧
    (Machine.Inv w52s6 ∧ (w52s6.pins.aux = true ∧ w52s6.boot = 6)) ∧
    (Machine.Inv w52s7 ∧ (w52s7.pins.aux = true ∧ w52s7.boot = 7)) ∧
    (Machine.Inv w52s8 ∧ (w52s8.pins.aux = true ∧ w52s8.boot = 0 ∧ w52s8.resetting ≠ 0)) ∧
    (Machine.Inv w52s9 ∧ (w52s9.pins.aux = true ∧ (List.find? (fun z => z.fst == true) w52s9.mgmt.confirmAt = some w52x9) ∧ w52s9.now ≤ 100 ∧
      w52x9.snd ≤ 100 ∧ bootSlot w52s9 true = some 2 ∧ w52s9.dstate = 0 ∧ w52s9.boot = 0 ∧ w52s9.pins.mains = true ∧ w52s9.pins.perst = false ∧
      restFree w52s9 = true ∧ w52s9.cmd = none ∧ w52s9.oobCmd = none)) ∧
    (Machine.Inv w52s10 ∧ (w52s10.pins.aux = true ∧ w52s10.dstate = 0 ∧ w52s10.boot = 0 ∧ w52s10.pins.mains = true ∧ w52s10.pins.perst = false ∧
      activeSlots w52s10 ≠ [])) ∧
    (Machine.Inv w52s11 ∧ (w52s11.pins.aux = true ∧ w52s11.rest = 1)) ∧
    (Machine.Inv w52s12 ∧ (w52s12.pins.aux = true ∧ w52s12.rest ≠ 1 ∧ w52s12.dstate = 3)) ∧
    (Machine.Inv w52s13 ∧ (w52s13.pins.aux = true ∧ w52s13.rest = 2 ∧ w52s13.cmd = none ∧ w52s13.oobCmd = none ∧ w52s13.woken = [] ∧ w52s13.ledger.haltNext = none)) ∧
    (Machine.Inv w52s14 ∧ (w52s14.pins.aux = true ∧ w52s14.rest = 2 ∧ w52s14.cmd = none ∧ w52s14.oobCmd = none ∧ w52s14.woken = [] ∧
      w52s14.ledger.haltNext ≠ none)) ∧
    (Machine.Inv w52s15 ∧ (w52s15.pins.aux = true ∧ w52s15.rest = 2 ∧ w52s15.cmd = none ∧ w52s15.oobCmd = none ∧ w52s15.woken = [.pktProbe w52h15] ∧
      w52s15.ledger.haltNext = none ∧ w52h15.len = 0) ∧ Arrives { w52s15 with rest := 0 } w52h15 kPROBE) :=
  ⟨⟨inv_of_check _ (by decide +kernel), by decide +kernel⟩,
   ⟨inv_of_check _ (by decide +kernel), by decide +kernel⟩,
   ⟨inv_of_check _ (by decide +kernel), by decide +kernel⟩,
   ⟨inv_of_check _ (by decide +kernel), by decide +kernel⟩,
   ⟨inv_of_check _ (by decide +kernel), by decide +kernel⟩,
   ⟨inv_of_check _ (by decide +kernel), by decide +kernel⟩,
   ⟨inv_of_check _ (by decide +kernel), by decide +kernel⟩,
   ⟨inv_of_check _ (by decide +kernel), by decide +kernel⟩,
   ⟨inv_of_check _ (by decide +kernel), by decide +kernel⟩,
   ⟨inv_of_check _ (by decide +kernel), by decide +kernel⟩,
   ⟨inv_of_check _ (by decide +kernel), by decide +kernel⟩,
   ⟨inv_of_check _ (by decide +kernel), by decide +kernel⟩,
   ⟨inv_of_check _ (by decide +kernel), by decide +kernel⟩,
   ⟨inv_of_check _ (by decide +kernel), by decide +kernel⟩,
   ⟨inv_of_check _ (by decide +kernel), by decide +kernel, arrives_of (by decide +kernel)⟩⟩

end Booting

namespace Powering
open Booting (cmd0)
def st0 : State := storeBytes { withCore id with pending := [.jtagDeauth], reqs := [mq1] } 0x10000 (leBytes 8 77)
def pin (f : Pins → Pins) (b : Nat := 0) (s : State := st0) : State := { s with pins := f s.pins, boot := b }

def w51s2 : State := { st0 with gov := { Gov.init with failAt := some 7 } }
def w51s3 : State := pin (fun p => { p with aux := false, mains := false, thermtrip := true }) 8
def w51s4 : State := pin (fun p => { p with pwrEn := false, mains := false }) 2
def w51s5 : State := pin (fun p => { p with pwrEn := true, mains := false }) 1
def w51s6 : State := pin (fun p => { p with pwrEn := true, moduleReset := true }) 8
def w51s7 : State := pin (fun p => { p with pwrEn := true, moduleReset := true, perst := true }) 3
def w51s8 : State := pin (fun p => { p with mains := true, perst := true })
/-- States and operands that meet the hypotheses of `PowerAndResetsTakeTheMainDomain`. -/
theorem witness_PowerAndResetsTakeTheMainDomain :
    (Machine.Inv st0 ∧ (st0.pins.mains = true ∧ (5#7).toNat < 96 ∧ st0.gov.failAt = none ∧ st0.now ≤ 2000007 ∧ st0.boot ≠ 8 ∧ st0.pins.aux = true ∧
      st0.pins.pwrEn = true ∧ st0.pins.moduleReset = false ∧ st0.boot ≠ 1 ∧ st0.boot ≠ 2 ∧ st0.pins.perst = false ∧ st0.boot = 0)) ∧
    (Machine.Inv w51s2 ∧ (w51s2.gov.failAt = some 7 ∧ w51s2.now ≤ 2000007 ∧ 2000007 ≤ 7 + 2000000)) ∧
    (Machine.Inv w51s3 ∧ (w51s3.pins.aux = false ∧ w51s3.pins.perst = false ∧ w51s3.boot ≠ 0)) ∧
    (Machine.Inv w51s4 ∧ (w51s4.pins.aux = true ∧ w51s4.pins.pwrEn = false ∧ w51s4.pins.moduleReset = false ∧ (w51s4.boot = 1 ∨ w51s4.boot = 2))) ∧
    (Machine.Inv w51s5 ∧ (w51s5.pins.aux = true ∧ w51s5.pins.pwrEn = true ∧ w51s5.pins.mains = false)) ∧
    (Machine.Inv w51s6 ∧ w51s6.pins.moduleReset = true) ∧
    (Machine.Inv w51s7 ∧ (w51s7.pins.perst = true ∧ (w51s7.pins.mains = false ∨ (0 < w51s7.boot ∧ w51s7.boot < 6) ∨ 7 < w51s7.boot))) ∧
    (Machine.Inv w51s8 ∧ (w51s8.pins.perst = true ∧ w51s8.pins.mains = true ∧ (w51s8.boot = 0 ∨ w51s8.boot = 6 ∨ w51s8.boot = 7))) :=
  ⟨⟨inv_of_check _ (by decide +kernel), by decide +kernel⟩,
   ⟨inv_of_check _ (by decide +kernel), by decide +kernel⟩,
   ⟨inv_of_check _ (by decide +kernel), by decide +kernel⟩,
   ⟨inv_of_check _ (by decide +kernel), by decide +kernel⟩,
   ⟨inv_of_check _ (by decide +kernel), by decide +kernel⟩,
   ⟨inv_of_check _ (by decide +kernel), by decide +kernel⟩,
   ⟨inv_of_check _ (by decide +kernel), by decide +kernel⟩,
   ⟨inv_of_check _ (by decide +kernel), by decide +kernel⟩⟩

end Powering

namespace Managing
open Booting (cmd0)
open Ledgers (ldg run3)
def mg (f : Mgmt → Mgmt) (s : State := up) : State := { s with mgmt := f Mgmt.init }
def pl (st : Nat) (f : Pldm → Pldm := id) : Pldm := f ⟨st, 1024, 1, 20, leBytes 4 0x57464E53 ++ leBytes 1 1 ++ leBytes 15 0, false, false⟩
def plS (st : Nat) (f : Pldm → Pldm := id) : State := mg (fun m => { m with pldm := some (pl st f) })
def fi (n : Nat) : FwImage := ⟨n, 4, 5⟩
def ca : Cmd := { cmd0 0x01 with oob := true }
def lrec0 : LogRec := ⟨⟨3, 0x11, 0, true, false, 5, 40⟩, false, false, 0, 30, 7, 1, 0, 2, 0⟩

def w53s1 : State := { mg (fun m => { m with oobReady := [[1, 2], [3]] }) with pins := { up.pins with alert := true, ready := true } }
def w53d1 : List Byte := leBytes 4 1024 ++ leBytes 2 3 ++ leBytes 5 0
def w53s2 : State := { mg id with pins := { up.pins with ready := false } }
def w53d2 : List Byte := []
def w53s4 : State := plS 1
def w53p4 : Pldm := pl 1
def w53s5 : State := plS 3
def w53p5 : Pldm := pl 3
def w53s6 : State := plS 4 (fun p => { p with ok := true })
def w53p6 : Pldm := pl 4 (fun p => { p with ok := true })
def w53s7 : State := { up with pins := { up.pins with ready := true }, rest := 1 }
def w53s8 : State := { up with pins := { up.pins with ready := true }, oobCmd := some ca }
def w53c8 : Cmd := ca
def w53s9 : State := { up with pins := { up.pins with ready := true } }
def w53op9 : BitVec 8 := 0x20
def w53s10 : State := { up with ledger := { Ledger.init with backlog := [lrec0, lrec0], flashNext := 9 } }
def w53r10 : LogRec := lrec0
def w53rest10 : List LogRec := [lrec0]
def w53s11 : State := mg (fun m => { m with flashQ := [.setting 0x102 [7], .image 0 (fi 1)] })
def w53n11 : Nat := 0x102
def w53ws11 : List Word := [7]
def w53jobs11 : List FlashJob := [.image 0 (fi 1)]
def w53s12 : State := mg (fun m => { m with flashQ := [.image 3 (fi 1)] })
def w53jobs12 : List FlashJob := []
def w53x12 : FwImage := fi 1
/-- States and operands that meet the hypotheses of `ManagementInterfacesAnswer`. -/
theorem witness_ManagementInterfacesAnswer :
    (Machine.Inv w53s1 ∧ (inkUp w53s1 = true ∧ w53s1.pins.alert = true ∧ 8 ≤ (9#8).toNat ∧ 9#8 ≠ 255 ∧ w53s1.mgmt.pldm = none ∧ 11 ≤ w53d1.length ∧
      32 ≤ pay w53d1 0 4 ∧ 1 ≤ pay w53d1 4 2 ∧ pay w53d1 4 2 ≤ 3 ∧ w53s1.cmd = none ∧ w53s1.ledger.isoFlash = false)) ∧
    (Machine.Inv w53s2 ∧ (inkUp w53s2 = true ∧ w53s2.pins.ready = false ∧ 1#8 = 1 ∧ w53d2 = [])) ∧
    (Machine.Inv w53s2 ∧ (inkUp w53s2 = true ∧ w53s2.pins.ready = false ∧ 2#8 ≠ 1 ∧ 2#8 ≠ 3 ∧ 2#8 ≠ 64)) ∧
    (Machine.Inv w53s4 ∧ (inkUp w53s4 = true ∧ w53s4.mgmt.pldm = some w53p4 ∧ w53p4.stage = 1 ∧ 3 ≤ w53d1.length ∧ w53p4.stage ≠ 5)) ∧
    (Machine.Inv w53s5 ∧ (inkUp w53s5 = true ∧ w53s5.mgmt.pldm = some w53p5 ∧ w53p5.stage = 3 ∧ w53p5.size ≤ w53p5.got.length)) ∧
    (Machine.Inv w53s6 ∧ (inkUp w53s6 = true ∧ w53s6.mgmt.pldm = some w53p6 ∧ w53p6.stage = 4 ∧ w53p6.ok = true ∧
      (imgN w53p6.got 4 1 = 1 ∨ imgN w53p6.got 4 1 = 2))) ∧
    (Machine.Inv w53s7 ∧ (inkUp w53s7 = true ∧ w53s7.pins.ready = true ∧ w53s7.rest ≠ 0)) ∧
    (Machine.Inv w53s8 ∧ (inkUp w53s8 = true ∧ w53s8.pins.ready = true ∧ w53s8.rest = 0 ∧ w53s8.oobCmd = some w53c8)) ∧
    (Machine.Inv w53s9 ∧ (inkUp w53s9 = true ∧ w53s9.pins.ready = true ∧ w53s9.rest = 0 ∧ w53s9.oobCmd = none ∧ w53s9.cmd = none ∧
      w53s9.resetting = 0 ∧ w53s9.aborting = false ∧ oobLacks w53op9.toNat = true)) ∧
    (Machine.Inv w53s10 ∧ (inkUp w53s10 = true ∧ w53s10.ledger.isoFlash = false ∧ w53s10.ledger.backlog = w53r10 :: w53rest10)) ∧
    (Machine.Inv w53s11 ∧ (inkUp w53s11 = true ∧ (w53s11.ledger.isoFlash = true ∨ w53s11.ledger.backlog = []) ∧
      w53s11.mgmt.flashQ = FlashJob.setting w53n11 w53ws11 :: w53jobs11)) ∧
    (Machine.Inv w53s12 ∧ (inkUp w53s12 = true ∧ (w53s12.ledger.isoFlash = true ∨ w53s12.ledger.backlog = []) ∧
      w53s12.mgmt.flashQ = FlashJob.image 3 w53x12 :: w53jobs12 ∧ w53s12.mgmt.pldm = none ∧ w53x12 ≠ firstImage 3)) :=
  ⟨⟨inv_of_check _ (by decide +kernel), by decide +kernel⟩,
   ⟨inv_of_check _ (by decide +kernel), by decide +kernel⟩,
   ⟨inv_of_check _ (by decide +kernel), by decide +kernel⟩,
   ⟨inv_of_check _ (by decide +kernel), by decide +kernel⟩,
   ⟨inv_of_check _ (by decide +kernel), by decide +kernel⟩,
   ⟨inv_of_check _ (by decide +kernel), by decide +kernel⟩,
   ⟨inv_of_check _ (by decide +kernel), by decide +kernel⟩,
   ⟨inv_of_check _ (by decide +kernel), by decide +kernel⟩,
   ⟨inv_of_check _ (by decide +kernel), by decide +kernel⟩,
   ⟨inv_of_check _ (by decide +kernel), by decide +kernel⟩,
   ⟨inv_of_check _ (by decide +kernel), by decide +kernel⟩,
   ⟨inv_of_check _ (by decide +kernel), by decide +kernel⟩⟩

end Managing

namespace Queries
open Twins (tws)
open Ledgers (ldg lrec run3)
open Managing (mg)
/-- A state whose mailbox payload starts with these bytes. -/
def mbx (bs : List Byte) (s : State := up) : State := { s with mbxPay := ((List.range bs.length).zip bs).filter (fun x => x.2 != 0) }
def req (l : List (Nat × Nat)) : List Byte := l.flatMap (fun x => leBytes x.1 x.2)
def haltS (s : State := up) : State := withCsrs s [(ldgCsr 0x18, 1)]
def lgS : State := ldg (fun l => { l with ring := [(5, some (lrec 1)), (7, some (lrec 2))], nextSeq := 8, flash := [(3, some (lrec 1))], flashNext := 4 })
def hostR (s : State := up) : State := withRegion s 5 0x10000 1 (2 ^ 44 + 2 ^ 47 + 8 * 2 ^ 48)

def w54s2 : State := mbx [9]
def w54s3 : State := mbx (req [(8, 127)])
def w54s4 : State := mbx (req [(8, 128)])
def w54s5 : State := mbx [7]
def w54s6 : State := mbx [2] { up with plans := [(2, some { demoPlan with run := none })] }
def w54s7 : State := mbx [2] (dplan up)
def w54x7 : Plan × Run := ({ demoPlan with run := some demoRun }, demoRun)
def w54s8 : State := mbx (req [(4, 2), (4, 0), (4, 8)])
def w54s9 : State := mbx (req [(4, 1), (4, 0), (4, 512)])
def w54s10 : State := mbx (req [(4, 1), (4, 0), (4, 511)]) lgS
def w54s11 : State := mbx (req [(32, 0), (8, 6)]) lgS
def w54s12 : State := mbx (req [(32, 0), (8, 6)]) (mg (fun m => { m with flashQ := [.setting 0x102 [7]] }))
def w54s13 : State := mbx (req [(32, 99), (8, (mkLoc2 5 0x40).toNat)]) hostR
def w54a13 : Nat := 0x10040
/-- States and operands that meet the hypotheses of `MailboxQueriesAnswer`. -/
theorem witness_MailboxQueriesAnswer :
    (Machine.Inv haltS ∧ MbxFree haltS ∧ ((0#15).toNat ≤ 16384 ∧ halted haltS = true ∧ badForm [] (payBytes haltS (0#15).toNat) = none)) ∧
    (Machine.Inv w54s2 ∧ MbxFree w54s2 ∧ ((1#15).toNat ≤ 16384 ∧ halted w54s2 = false ∧
      ((someAnd [(Instr.loadPlan 1#15 7#16, [(0, 8), (8, 8), (16, 1), (17, 1), (24, 8)]), (Instr.unloadPlan 1#15 7#16, [(0, 1)]), (Instr.run 1#15 7#16, [(0, 1), (1, 1), (8, 8)]), (Instr.stop 1#15 7#16, [(0, 1)]), (Instr.queryRun 1#15 7#16, [(0, 1)]), (Instr.allocRegion 1#15 7#16, [(0, 8), (8, 1), (10, 2), (12, 1), (13, 1)]), (Instr.freeRegion 1#15 7#16, [(0, 2)]), (Instr.tablePublish 1#15 7#16, [(0, 8), (64, 64)]), (Instr.setCap 1#15 7#16, [(0, 2)]), (Instr.setPolicy 1#15 7#16, [(0, 2), (8, 8), (16, 1), (17, 1)]), (Instr.setPersistent 1#15 7#16, [(0, 2)]), (Instr.clearFault 1#15 7#16, [(0, 2), (2, 1)]), (Instr.injectFault 1#15 7#16, [(0, 2), (2, 1), (4, 4)]), (Instr.traceCtrl 1#15 7#16, [(0, 8), (8, 1), (9, 1), (10, 1)]), (Instr.memTest 1#15 7#16, [(0, 1), (1, 1), (2, 1), (16, 48)]), (Instr.memRemap 1#15 7#16, [(0, 48)]), (Instr.linkTrain 1#15 7#16, [(0, 4)]), (Instr.setFabricId 1#15 7#16, [(0, 2), (2, 2), (4, 1), (64, 256)]), (Instr.twinPair 1#15 7#16, [(0, 2)]), (Instr.twinTakeover 1#15 7#16, [(0, 2)]), (Instr.fwUpdate 1#15 7#16, [(0, 8), (8, 8)]), (Instr.enterRest 1#15 7#16, []), (Instr.deviceReset 1#15 7#16, []), (Instr.identify 1#15 7#16, []), (Instr.getStatus 1#15 7#16, []), (Instr.getTelemetry 1#15 7#16, [(0, 8)]), (Instr.readLog 1#15 7#16, [(0, 1), (4, 4), (8, 4)]), (Instr.attest 1#15 7#16, [(0, 32), (32, 8)])][21]? fun r => decide (badForm r.snd (payBytes w54s2 (1#15).toNat) = some 0)) = true) ∧
      badForm [(0, 1)] (payBytes w54s2 (1#15).toNat) = none ∧ 8 ≤ pay (payBytes w54s2 (1#15).toNat) 0 1)) ∧
    (Machine.Inv w54s3 ∧ MbxFree w54s3 ∧ ((8#15).toNat ≤ 16384 ∧ badForm [(0, 8)] (payBytes w54s3 (8#15).toNat) = none ∧
      pay (payBytes w54s3 (8#15).toNat) 0 8 < 128)) ∧
    (Machine.Inv w54s4 ∧ MbxFree w54s4 ∧ ((8#15).toNat ≤ 16384 ∧ badForm [(0, 8)] (payBytes w54s4 (8#15).toNat) = none ∧
      128 ≤ pay (payBytes w54s4 (8#15).toNat) 0 8)) ∧
    (Machine.Inv w54s5 ∧ MbxFree w54s5 ∧ ((1#15).toNat ≤ 16384 ∧ badForm [(0, 1)] (payBytes w54s5 (1#15).toNat) = none ∧ halted w54s5 = false ∧
      pay (payBytes w54s5 (1#15).toNat) 0 1 < 8 ∧ planOf w54s5 (pay (payBytes w54s5 (1#15).toNat) 0 1) = none)) ∧
    (Machine.Inv w54s6 ∧ MbxFree w54s6 ∧ ((1#15).toNat ≤ 16384 ∧ badForm [(0, 1)] (payBytes w54s6 (1#15).toNat) = none ∧ halted w54s6 = false ∧
      pay (payBytes w54s6 (1#15).toNat) 0 1 < 8 ∧ planOf w54s6 (pay (payBytes w54s6 (1#15).toNat) 0 1) ≠ none ∧
      runOf w54s6 (pay (payBytes w54s6 (1#15).toNat) 0 1) = none)) ∧
    (Machine.Inv w54s7 ∧ MbxFree w54s7 ∧ ((1#15).toNat ≤ 16384 ∧ badForm [(0, 1)] (payBytes w54s7 (1#15).toNat) = none ∧ halted w54s7 = false ∧
      pay (payBytes w54s7 (1#15).toNat) 0 1 < 8 ∧ runOf w54s7 (pay (payBytes w54s7 (1#15).toNat) 0 1) = some w54x7)) ∧
    (Machine.Inv w54s8 ∧ MbxFree w54s8 ∧ ((12#15).toNat ≤ 16384 ∧ badForm [(0, 1), (4, 4), (8, 4)] (payBytes w54s8 (12#15).toNat) = none ∧
      2 ≤ pay (payBytes w54s8 (12#15).toNat) 0 1)) ∧
    (Machine.Inv w54s9 ∧ MbxFree w54s9 ∧ ((12#15).toNat ≤ 16384 ∧ badForm [(0, 1), (4, 4), (8, 4)] (payBytes w54s9 (12#15).toNat) = none ∧
      pay (payBytes w54s9 (12#15).toNat) 0 1 < 2 ∧ 511 < pay (payBytes w54s9 (12#15).toNat) 8 4)) ∧
    (Machine.Inv w54s10 ∧ MbxFree w54s10 ∧ ((12#15).toNat ≤ 16384 ∧ badForm [(0, 1), (4, 4), (8, 4)] (payBytes w54s10 (12#15).toNat) = none ∧
      pay (payBytes w54s10 (12#15).toNat) 0 1 < 2 ∧ pay (payBytes w54s10 (12#15).toNat) 8 4 ≤ 511)) ∧
    (Machine.Inv w54s11 ∧ MbxFree w54s11 ∧ ((40#15).toNat ≤ 16384 ∧ badForm [(0, 32), (32, 8)] (payBytes w54s11 (40#15).toNat) = none ∧
      flashHeld w54s11 = false ∧ hostSpan w54s11 (BitVec.ofNat 64 (pay (payBytes w54s11 (40#15).toNat) 32 8)) 32768 true = none)) ∧
    (Machine.Inv w54s12 ∧ MbxFree w54s12 ∧ ((40#15).toNat ≤ 16384 ∧ badForm [(0, 32), (32, 8)] (payBytes w54s12 (40#15).toNat) = none ∧
      flashHeld w54s12 = true)) ∧
    (Machine.Inv w54s13 ∧ MbxFree w54s13 ∧ ((40#15).toNat ≤ 16384 ∧ badForm [(0, 32), (32, 8)] (payBytes w54s13 (40#15).toNat) = none ∧
      flashHeld w54s13 = false ∧ hostSpan w54s13 (BitVec.ofNat 64 (pay (payBytes w54s13 (40#15).toNat) 32 8)) 32768 true = some w54a13)) :=
  ⟨⟨inv_of_check _ (by decide +kernel), free_of (by decide +kernel), by decide +kernel⟩,
   ⟨inv_of_check _ (by decide +kernel), free_of (by decide +kernel), by decide +kernel⟩,
   ⟨inv_of_check _ (by decide +kernel), free_of (by decide +kernel), by decide +kernel⟩,
   ⟨inv_of_check _ (by decide +kernel), free_of (by decide +kernel), by decide +kernel⟩,
   ⟨inv_of_check _ (by decide +kernel), free_of (by decide +kernel), by decide +kernel⟩,
   ⟨inv_of_check _ (by decide +kernel), free_of (by decide +kernel), by decide +kernel⟩,
   ⟨inv_of_check _ (by decide +kernel), free_of (by decide +kernel), by decide +kernel⟩,
   ⟨inv_of_check _ (by decide +kernel), free_of (by decide +kernel), by decide +kernel⟩,
   ⟨inv_of_check _ (by decide +kernel), free_of (by decide +kernel), by decide +kernel⟩,
   ⟨inv_of_check _ (by decide +kernel), free_of (by decide +kernel), by decide +kernel⟩,
   ⟨inv_of_check _ (by decide +kernel), free_of (by decide +kernel), by decide +kernel⟩,
   ⟨inv_of_check _ (by decide +kernel), free_of (by decide +kernel), by decide +kernel⟩,
   ⟨inv_of_check _ (by decide +kernel), free_of (by decide +kernel), by decide +kernel⟩⟩

end Queries

namespace Plans
open Booting (cmd0)
open Queries (mbx req)
def hostB (s : State := up) : State := withRegion s 5 0x10000 0x400 (2 ^ 44 + 2 ^ 47 + 8 * 2 ^ 48)
def ldReq (ring : Nat) (n : Nat := 2560) (l := (mkLoc2 5 0).toNat) : List Byte := req [(8, l), (8, n), (1, 0xFF), (1, if ring = 0 then 0 else 1), (6, 0), (8, ring)]
def noRun : Plan := { demoPlan with run := none }
def P2 (x : Plan) (s : State := up) : State := { s with plans := [(2, some x)] }
def nr5 : Plan := { noRun with regions := [5] }
def runReq (seed : Nat) : List Byte := req [(1, 2), (1, if seed = 0 then 0 else 1), (6, 0), (8, seed)]
def act4 : State := { up with plans := [(2, some nr5), (3, some { demoPlan with run := some ph }), (4, some { demoPlan with run := some ph }), (5, some { demoPlan with run := some ph }), (6, some { demoPlan with run := some ph })] }
def alReq (n mode tgt cls fl : Nat) : List Byte := req [(8, n), (1, mode), (1, 0), (2, tgt), (1, cls), (1, fl)]
def tdesc (id vs rows : Nat) : Nat := id + 0 * 2 ^ 32 + 15 * 2 ^ 36 + vs * 2 ^ 48 + rows * 2 ^ 64 + (mkLoc2 5 0x1000).toNat * 2 ^ 192 + 8 * 2 ^ 320
def pubReq (id rows : Nat) : List Byte := leBytes 8 (mkLoc2 5 0x40).toNat ++ leBytes 56 0 ++ leBytes 64 (tdesc id 0 rows)
def tbS (l : List (Nat × Nat)) : State := withCsrs (storeBytes hostB 0x10040 (leBytes 64 (tdesc 8 3 50))) l

def w55s1 : State := mbx (ldReq 0) hostB
def w55a1 : Nat := 0x10000
def w55s2 : State := mbx (ldReq 0x4000000) hostB
def w55s3 : State := mbx (ldReq 0) up
def w55s4 : State := mbx [2] up
def w55s5 : State := mbx [2] (P2 { demoPlan with run := some ph })
def w55x5 : Plan := { demoPlan with run := some ph }
def w55r5 : Run := ph
def w55s6 : State := mbx [2] (P2 nr5 hostB)
def w55x6 : Plan := nr5
def w55s7 : State := mbx (runReq 5) (P2 nr5 hostB)
def w55s8 : State := mbx (runReq 0) (P2 { demoPlan with run := some ph })
def w55s9 : State := mbx (runReq 0) act4
def w55s10 : State := mbx (alReq 3 3 7 5 3) hostB
def w55s11 : State := mbx (req [(2, 5)]) hostB
def w55s12 : State := mbx (runReq 5) { hostB with plans := [(2, some nr5), (3, some { demoPlan with run := some ph })] }
def w55s13 : State := mbx (runReq 5) { withRegion hostB 5 0x10000 1 (2 ^ 44) with plans := [(2, some nr5), (3, some { demoPlan with clusterMask := 2, regions := [5], run := some ph })] }
def w55s14 : State := mbx (alReq 384 0 0 5 3) up
def w55s15 : State := mbx (alReq (2 ^ 27 - 1) 3 7 5 3) up
def w55s16 : State := mbx (req [(2, 5)]) { hostB with plans := [(3, some { demoPlan with regions := [5], run := some ph })] }
/-- States and operands that meet the hypotheses of `MailboxPlansRegionsAndTables`. -/
theorem witness_MailboxPlansRegionsAndTables :
    (Machine.Inv w55s1 ∧ MbxFree w55s1 ∧ (halted w55s1 = false ∧ (32#15).toNat ≤ 16384 ∧
      badForm [(0, 8), (8, 8), (16, 1), (17, 1), (24, 8)] (payBytes w55s1 (32#15).toNat) = none ∧ pay (payBytes w55s1 (32#15).toNat) 8 8 ≠ 0 ∧
      (pay (payBytes w55s1 (32#15).toNat) 16 1 < 8 ∨ pay (payBytes w55s1 (32#15).toNat) 16 1 = 255) ∧ displaced w55s1 = false ∧
      pay (payBytes w55s1 (32#15).toNat) 17 1 = 0 ∧ pay (payBytes w55s1 (32#15).toNat) 24 8 = 0 ∧
      hostSpan w55s1 (BitVec.ofNat 64 (pay (payBytes w55s1 (32#15).toNat) 0 8)) (pay (payBytes w55s1 (32#15).toNat) 8 8) false = some w55a1)) ∧
    (Machine.Inv w55s2 ∧ MbxFree w55s2 ∧ (halted w55s2 = false ∧ (32#15).toNat ≤ 16384 ∧
      badForm [(0, 8), (8, 8), (16, 1), (17, 1), (24, 8)] (payBytes w55s2 (32#15).toNat) = none ∧ pay (payBytes w55s2 (32#15).toNat) 8 8 ≠ 0 ∧
      (pay (payBytes w55s2 (32#15).toNat) 16 1 < 8 ∨ pay (payBytes w55s2 (32#15).toNat) 16 1 = 255) ∧ displaced w55s2 = false ∧
      pay (payBytes w55s2 (32#15).toNat) 17 1 = 1 ∧ pay (payBytes w55s2 (32#15).toNat) 24 8 % 65536 = 0 ∧
      67108864 ≤ pay (payBytes w55s2 (32#15).toNat) 24 8 ∧
      hostSpan w55s2 (BitVec.ofNat 64 (pay (payBytes w55s2 (32#15).toNat) 0 8)) (pay (payBytes w55s2 (32#15).toNat) 24 8) false = some w55a1)) ∧
    (Machine.Inv w55s3 ∧ MbxFree w55s3 ∧ (halted w55s3 = false ∧ (32#15).toNat ≤ 16384 ∧
      badForm [(0, 8), (8, 8), (16, 1), (17, 1), (24, 8)] (payBytes w55s3 (32#15).toNat) = none ∧ pay (payBytes w55s3 (32#15).toNat) 8 8 ≠ 0 ∧
      (pay (payBytes w55s3 (32#15).toNat) 16 1 < 8 ∨ pay (payBytes w55s3 (32#15).toNat) 16 1 = 255) ∧ displaced w55s3 = false ∧
      pay (payBytes w55s3 (32#15).toNat) 17 1 = 0 ∧ pay (payBytes w55s3 (32#15).toNat) 24 8 = 0 ∧
      hostSpan w55s3 (BitVec.ofNat 64 (pay (payBytes w55s3 (32#15).toNat) 0 8)) (pay (payBytes w55s3 (32#15).toNat) 8 8) false = none)) ∧
    (Machine.Inv w55s4 ∧ MbxFree w55s4 ∧ (halted w55s4 = false ∧ (1#15).toNat ≤ 16384 ∧ badForm [(0, 1)] (payBytes w55s4 (1#15).toNat) = none ∧
      pay (payBytes w55s4 (1#15).toNat) 0 1 < 8 ∧ planOf w55s4 (pay (payBytes w55s4 (1#15).toNat) 0 1) = none)) ∧
    (Machine.Inv w55s5 ∧ MbxFree w55s5 ∧ (halted w55s5 = false ∧ (1#15).toNat ≤ 16384 ∧ badForm [(0, 1)] (payBytes w55s5 (1#15).toNat) = none ∧
      pay (payBytes w55s5 (1#15).toNat) 0 1 < 8 ∧ planOf w55s5 (pay (payBytes w55s5 (1#15).toNat) 0 1) = some w55x5 ∧ planActive (some w55x5) = true ∧
      activeRun w55s5 (pay (payBytes w55s5 (1#15).toNat) 0 1) = some (w55x5, w55r5))) ∧
    (Machine.Inv w55s6 ∧ MbxFree w55s6 ∧ (halted w55s6 = false ∧ (1#15).toNat ≤ 16384 ∧ badForm [(0, 1)] (payBytes w55s6 (1#15).toNat) = none ∧
      pay (payBytes w55s6 (1#15).toNat) 0 1 < 8 ∧ planOf w55s6 (pay (payBytes w55s6 (1#15).toNat) 0 1) = some w55x6 ∧
      planActive (some w55x6) = false ∧ planOf w55s6 (pay (payBytes w55s6 (1#15).toNat) 0 1) ≠ none ∧
      activeRun w55s6 (pay (payBytes w55s6 (1#15).toNat) 0 1) = none)) ∧
    (Machine.Inv w55s7 ∧ MbxFree w55s7 ∧ (halted w55s7 = false ∧ (16#15).toNat ≤ 16384 ∧
      badForm [(0, 1), (1, 1), (8, 8)] (payBytes w55s7 (16#15).toNat) = none ∧ pay (payBytes w55s7 (16#15).toNat) 0 1 < 8 ∧
      pay (payBytes w55s7 (16#15).toNat) 1 1 < 2 ∧ planOf w55s7 (pay (payBytes w55s7 (16#15).toNat) 0 1) = some w55x6 ∧ displaced w55s7 = false ∧
      planActive (some w55x6) = false ∧ (activeSlots w55s7).length < 4 ∧
      (∀ (i : Nat), i ∈ activeSlots w55s7 → ∀ (o : Plan), planOf w55s7 i = some o → o.clusterMask &&& w55x6.clusterMask = 0 ∧ regionClash w55s7 o w55x6 = false) ∧
      doorbellClash w55s7 w55x6 = none ∧ w55x6.fabric = false)) ∧
    (Machine.Inv w55s8 ∧ MbxFree w55s8 ∧ (halted w55s8 = false ∧ (16#15).toNat ≤ 16384 ∧
      badForm [(0, 1), (1, 1), (8, 8)] (payBytes w55s8 (16#15).toNat) = none ∧ pay (payBytes w55s8 (16#15).toNat) 0 1 < 8 ∧
      pay (payBytes w55s8 (16#15).toNat) 1 1 < 2 ∧ planOf w55s8 (pay (payBytes w55s8 (16#15).toNat) 0 1) = some w55x5 ∧ displaced w55s8 = false ∧
      planActive (some w55x5) = true ∧ badForm [(0, 2)] (payBytes w55s8 (16#15).toNat) = none ∧ pay (payBytes w55s8 (16#15).toNat) 0 2 < 4096 ∧
      (rgnValid w55s8 (pay (payBytes w55s8 (16#15).toNat) 0 2) = false ∨ rgnOwner w55s8 (pay (payBytes w55s8 (16#15).toNat) 0 2) ≠ 8))) ∧
    (Machine.Inv w55s9 ∧ MbxFree w55s9 ∧ (halted w55s9 = false ∧ (16#15).toNat ≤ 16384 ∧
      badForm [(0, 1), (1, 1), (8, 8)] (payBytes w55s9 (16#15).toNat) = none ∧ pay (payBytes w55s9 (16#15).toNat) 0 1 < 8 ∧
      pay (payBytes w55s9 (16#15).toNat) 1 1 < 2 ∧ planOf w55s9 (pay (payBytes w55s9 (16#15).toNat) 0 1) = some w55x6 ∧ displaced w55s9 = false ∧
      planActive (some w55x6) = false ∧ 4 ≤ (activeSlots w55s9).length)) ∧
    (Machine.Inv w55s10 ∧ MbxFree w55s10 ∧ ((halted w55s10 = false ∧ (14#15).toNat ≤ 16384 ∧
      badForm [(0, 8), (8, 1), (10, 2), (12, 1), (13, 1)] (payBytes w55s10 (14#15).toNat) = none ∧ pay (payBytes w55s10 (14#15).toNat) 8 1 < 4 ∧ targetLegal (pay (payBytes w55s10 (14#15).toNat) 8 1) (pay (payBytes w55s10 (14#15).toNat) 10 2) false = true ∧
      pay (payBytes w55s10 (14#15).toNat) 12 1 < 16 ∧ pay (payBytes w55s10 (14#15).toNat) 13 1 < 32 ∧ pay (payBytes w55s10 (14#15).toNat) 0 8 < 2 ^ 27 ∧ sizeLegal w55s10 (pay (payBytes w55s10 (14#15).toNat) 8 1) (pay (payBytes w55s10 (14#15).toNat) 0 8) = true ∧ displaced w55s10 = false ∧
      (pay (payBytes w55s10 (14#15).toNat) 13 1).testBit 2 = false) ∧
      (∃ j, j < 4096 ∧ rgnValid w55s10 j = false) ∧ (findPlace w55s10 (BitVec.ofNat 64 (pay (payBytes w55s10 (14#15).toNat) 0 8 + pay (payBytes w55s10 (14#15).toNat) 8 1 * 2 ^ 28 + pay (payBytes w55s10 (14#15).toNat) 10 2 * 2 ^ 30 + pay (payBytes w55s10 (14#15).toNat) 12 1 * 2 ^ 39 + pay (payBytes w55s10 (14#15).toNat) 13 1 * 2 ^ 43 + 8 * 2 ^ 48))).isSome = true)) ∧
    (Machine.Inv w55s11 ∧ MbxFree w55s11 ∧ (halted w55s11 = false ∧ (2#15).toNat ≤ 16384 ∧ badForm [(0, 2)] (payBytes w55s11 (2#15).toNat) = none ∧
      pay (payBytes w55s11 (2#15).toNat) 0 2 < 4096 ∧ rgnValid w55s11 (pay (payBytes w55s11 (2#15).toNat) 0 2) = true ∧
      rgnOwner w55s11 (pay (payBytes w55s11 (2#15).toNat) 0 2) = 8 ∧ rgnMirrored w55s11 (pay (payBytes w55s11 (2#15).toNat) 0 2) = false ∧
      regionUser w55s11 (pay (payBytes w55s11 (2#15).toNat) 0 2) = none)) ∧
    (Machine.Inv w55s12 ∧ MbxFree w55s12 ∧ (halted w55s12 = false ∧ (16#15).toNat ≤ 16384 ∧ badForm [(0, 1), (1, 1), (8, 8)] (payBytes w55s12 (16#15).toNat) = none ∧
      pay (payBytes w55s12 (16#15).toNat) 0 1 < 8 ∧ pay (payBytes w55s12 (16#15).toNat) 1 1 < 2 ∧ planOf w55s12 (pay (payBytes w55s12 (16#15).toNat) 0 1) = some w55x6 ∧ displaced w55s12 = false ∧ planActive (some w55x6) = false ∧
      (activeSlots w55s12).length < 4 ∧ (activeSlots w55s12).find? (fun i => (planOf w55s12 i).any (fun o =>
        (o.clusterMask &&& w55x6.clusterMask) != 0 || regionClash w55s12 o w55x6)) = some 3)) ∧
    (Machine.Inv w55s13 ∧ MbxFree w55s13 ∧ (halted w55s13 = false ∧ (16#15).toNat ≤ 16384 ∧ badForm [(0, 1), (1, 1), (8, 8)] (payBytes w55s13 (16#15).toNat) = none ∧
      pay (payBytes w55s13 (16#15).toNat) 0 1 < 8 ∧ pay (payBytes w55s13 (16#15).toNat) 1 1 < 2 ∧ planOf w55s13 (pay (payBytes w55s13 (16#15).toNat) 0 1) = some w55x6 ∧ displaced w55s13 = false ∧ planActive (some w55x6) = false ∧
      (activeSlots w55s13).length < 4 ∧ (activeSlots w55s13).find? (fun i => (planOf w55s13 i).any (fun o =>
        (o.clusterMask &&& w55x6.clusterMask) != 0 || regionClash w55s13 o w55x6)) = some 3)) ∧
    (Machine.Inv w55s14 ∧ MbxFree w55s14 ∧ (halted w55s14 = false ∧ (14#15).toNat ≤ 16384 ∧
      badForm [(0, 8), (8, 1), (10, 2), (12, 1), (13, 1)] (payBytes w55s14 (14#15).toNat) = none ∧ pay (payBytes w55s14 (14#15).toNat) 8 1 < 4 ∧ targetLegal (pay (payBytes w55s14 (14#15).toNat) 8 1) (pay (payBytes w55s14 (14#15).toNat) 10 2) false = true ∧
      pay (payBytes w55s14 (14#15).toNat) 12 1 < 16 ∧ pay (payBytes w55s14 (14#15).toNat) 13 1 < 32 ∧ pay (payBytes w55s14 (14#15).toNat) 0 8 < 2 ^ 27 ∧ sizeLegal w55s14 (pay (payBytes w55s14 (14#15).toNat) 8 1) (pay (payBytes w55s14 (14#15).toNat) 0 8) = true ∧ displaced w55s14 = false ∧
      (pay (payBytes w55s14 (14#15).toNat) 13 1).testBit 2 = false ∧
      validRegions w55s14 = [] ∧ w55s14.twin.shadows = [] ∧ pay (payBytes w55s14 (14#15).toNat) 8 1 < 2 ∧
      pay (payBytes w55s14 (14#15).toNat) 0 8 ≤ spaceUnits w55s14)) ∧
    (Machine.Inv w55s15 ∧ MbxFree w55s15 ∧ (halted w55s15 = false ∧ (14#15).toNat ≤ 16384 ∧
      badForm [(0, 8), (8, 1), (10, 2), (12, 1), (13, 1)] (payBytes w55s15 (14#15).toNat) = none ∧ pay (payBytes w55s15 (14#15).toNat) 8 1 < 4 ∧ targetLegal (pay (payBytes w55s15 (14#15).toNat) 8 1) (pay (payBytes w55s15 (14#15).toNat) 10 2) false = true ∧
      pay (payBytes w55s15 (14#15).toNat) 12 1 < 16 ∧ pay (payBytes w55s15 (14#15).toNat) 13 1 < 32 ∧ pay (payBytes w55s15 (14#15).toNat) 0 8 < 2 ^ 27 ∧ sizeLegal w55s15 (pay (payBytes w55s15 (14#15).toNat) 8 1) (pay (payBytes w55s15 (14#15).toNat) 0 8) = true ∧ displaced w55s15 = false ∧
      (pay (payBytes w55s15 (14#15).toNat) 13 1).testBit 2 = false ∧
      findPlace w55s15 (BitVec.ofNat 64 (pay (payBytes w55s15 (14#15).toNat) 0 8 + pay (payBytes w55s15 (14#15).toNat) 8 1 * 2 ^ 28 + pay (payBytes w55s15 (14#15).toNat) 10 2 * 2 ^ 30 + pay (payBytes w55s15 (14#15).toNat) 12 1 * 2 ^ 39 + pay (payBytes w55s15 (14#15).toNat) 13 1 * 2 ^ 43 + 8 * 2 ^ 48)) = none)) ∧
    (Machine.Inv w55s16 ∧ MbxFree w55s16 ∧ (halted w55s16 = false ∧ (2#15).toNat ≤ 16384 ∧ badForm [(0, 2)] (payBytes w55s16 (2#15).toNat) = none ∧
      pay (payBytes w55s16 (2#15).toNat) 0 2 < 4096 ∧ rgnValid w55s16 (pay (payBytes w55s16 (2#15).toNat) 0 2) = true ∧ rgnOwner w55s16 (pay (payBytes w55s16 (2#15).toNat) 0 2) = 8 ∧ rgnMirrored w55s16 (pay (payBytes w55s16 (2#15).toNat) 0 2) = false ∧
      regionUser w55s16 (pay (payBytes w55s16 (2#15).toNat) 0 2) = some 3)) :=
  ⟨⟨inv_of_check _ (by decide +kernel), free_of (by decide +kernel), by decide +kernel⟩,
   ⟨inv_of_check _ (by decide +kernel), free_of (by decide +kernel), by decide +kernel⟩,
   ⟨inv_of_check _ (by decide +kernel), free_of (by decide +kernel), by decide +kernel⟩,
   ⟨inv_of_check _ (by decide +kernel), free_of (by decide +kernel), by decide +kernel⟩,
   ⟨inv_of_check _ (by decide +kernel), free_of (by decide +kernel), by decide +kernel⟩,
   ⟨inv_of_check _ (by decide +kernel), free_of (by decide +kernel), by decide +kernel⟩,
   ⟨inv_of_check _ (by decide +kernel), free_of (by decide +kernel), by decide +kernel⟩,
   ⟨inv_of_check _ (by decide +kernel), free_of (by decide +kernel), by decide +kernel⟩,
   ⟨inv_of_check _ (by decide +kernel), free_of (by decide +kernel), by decide +kernel⟩,
   ⟨inv_of_check _ (by decide +kernel), free_of (by decide +kernel),
     ⟨by decide +kernel, ⟨0, by decide +kernel⟩, by decide +kernel⟩⟩,
   ⟨inv_of_check _ (by decide +kernel), free_of (by decide +kernel), by decide +kernel⟩,
   ⟨inv_of_check _ (by decide +kernel), free_of (by decide +kernel), by decide +kernel⟩,
   ⟨inv_of_check _ (by decide +kernel), free_of (by decide +kernel), by decide +kernel⟩,
   ⟨inv_of_check _ (by decide +kernel), free_of (by decide +kernel), by decide +kernel⟩,
   ⟨inv_of_check _ (by decide +kernel), free_of (by decide +kernel), by decide +kernel⟩,
   ⟨inv_of_check _ (by decide +kernel), free_of (by decide +kernel), by decide +kernel⟩⟩

/-- TABLE_PUBLISH's request as it stands in the payload buffer: its locator and the new descriptor; and the old one, at `g`. -/
def pubLoc (s : State) : Word := BitVec.ofNat 64 (pay (payBytes s (128#15).toNat) 0 8)
def pubNew (s : State) : Desc := BitVec.ofNat 512 (pay (payBytes s (128#15).toNat) 64 64)
def pubOld (s : State) (g : Tgt) : Desc := BitVec.ofNat 512 (memNat s (tgtAddr s g) 64)
/-- The request is one that the locator's target decides. -/
abbrev pubAsked (s : State) : Prop := halted s = false ∧ (128#15).toNat ≤ 16384 ∧ badForm [(0, 8), (64, 64)] (payBytes s (128#15).toNat) = none ∧
  (locKind (pubLoc s) = 1 ∨ locKind (pubLoc s) = 2) ∧ locBits (pubLoc s) = true ∧ (pubLoc s).toNat % 64 = 0 ∧ displaced s = false
def w55t1 : State := mbx (pubReq 9 100) up
def w55t2 : State := mbx (pubReq 9 100) (tbS [])
def w55t3 : State := mbx (pubReq 9 100) (tbS [(tblVer 3, 1 + 8 * 4)])
def w55t4 : State := mbx (pubReq 9 0) (tbS [(tblVer 3, 1 + 8 * 4)])
def w55t5 : State := mbx (pubReq 9 100) (tbS [(tblVer 3, 1 + 8 * 4 + 5 * 2 ^ 26), (tblVer 2, 2 + 9 * 4)])
def w55t6 : State := mbx (leBytes 8 (spad + 0x40) ++ leBytes 56 0 ++ leBytes 64 (tdesc 9 0 100)) up
def w55g : Tgt := .dram 5 0x40
def w55g6 : Tgt := .spad (spad % 2 ^ 62 + 0x40)
/-- States and operands that meet the hypotheses of the clauses of `MailboxPlansRegionsAndTables` on TABLE_PUBLISH. -/
theorem witness_MailboxPlansRegionsAndTables_tables :
    (Machine.Inv w55t1 ∧ MbxFree w55t1 ∧ (pubAsked w55t1 ∧ tableTgt w55t1 (pubLoc w55t1) = none)) ∧
    (Machine.Inv w55t2 ∧ MbxFree w55t2 ∧ (pubAsked w55t2 ∧ tableTgt w55t2 (pubLoc w55t2) = some w55g ∧
      verLive w55t2 (tdVslot (pubOld w55t2 w55g)) (tdId (pubOld w55t2 w55g)) = false)) ∧
    (Machine.Inv w55t3 ∧ MbxFree w55t3 ∧ (pubAsked w55t3 ∧ tableTgt w55t3 (pubLoc w55t3) = some w55g ∧
      verLive w55t3 (tdVslot (pubOld w55t3 w55g)) (tdId (pubOld w55t3 w55g)) = true ∧ tdLegal (pubNew w55t3) = true ∧ verFree w55t3 = some 0 ∧
      tdWritable (pubOld w55t3 w55g) = false) ∧ verHeld w55t3 (tdId (pubNew w55t3)) = none) ∧
    (Machine.Inv w55t4 ∧ MbxFree w55t4 ∧ (pubAsked w55t4 ∧ tableTgt w55t4 (pubLoc w55t4) = some w55g ∧
      verLive w55t4 (tdVslot (pubOld w55t4 w55g)) (tdId (pubOld w55t4 w55g)) = true ∧ tdLegal (pubNew w55t4) = false) ∧
      verHeld w55t4 (tdId (pubNew w55t4)) = none) ∧
    (Machine.Inv w55t5 ∧ MbxFree w55t5 ∧ (pubAsked w55t5 ∧ tableTgt w55t5 (pubLoc w55t5) = some w55g ∧
      verLive w55t5 (tdVslot (pubOld w55t5 w55g)) (tdId (pubOld w55t5 w55g)) = true ∧ verHeld w55t5 (tdId (pubNew w55t5)) = some 2)) ∧
    (Machine.Inv w55t6 ∧ MbxFree w55t6 ∧ (pubAsked w55t6 ∧ tableTgt w55t6 (pubLoc w55t6) = some w55g6 ∧
      verLive w55t6 (tdVslot (pubOld w55t6 w55g6)) (tdId (pubOld w55t6 w55g6)) = false)) :=
  ⟨⟨inv_of_check _ (by decide +kernel), free_of (by decide +kernel),
     by simp only [show pubLoc w55t1 = mkLoc2 5 0x40 from by decide +kernel]; decide +kernel⟩,
   ⟨inv_of_check _ (by decide +kernel), free_of (by decide +kernel),
     by simp only [show pubLoc w55t2 = mkLoc2 5 0x40 from by decide +kernel,
     show pubOld w55t2 w55g = BitVec.ofNat 512 (tdesc 8 3 50) from by decide +kernel]; decide +kernel⟩,
   ⟨inv_of_check _ (by decide +kernel), free_of (by decide +kernel),
     by simp only [show pubLoc w55t3 = mkLoc2 5 0x40 from by decide +kernel,
     show pubNew w55t3 = BitVec.ofNat 512 (tdesc 9 0 100) from by decide +kernel,
     show pubOld w55t3 w55g = BitVec.ofNat 512 (tdesc 8 3 50) from by decide +kernel]; decide +kernel, verHeld_none_of_listed _ _ (by decide +kernel)⟩,
   ⟨inv_of_check _ (by decide +kernel), free_of (by decide +kernel),
     by simp only [show pubLoc w55t4 = mkLoc2 5 0x40 from by decide +kernel,
     show pubNew w55t4 = BitVec.ofNat 512 (tdesc 9 0 0) from by decide +kernel,
     show pubOld w55t4 w55g = BitVec.ofNat 512 (tdesc 8 3 50) from by decide +kernel]; decide +kernel, verHeld_none_of_listed _ _ (by decide +kernel)⟩,
   ⟨inv_of_check _ (by decide +kernel), free_of (by decide +kernel),
     by simp only [show pubLoc w55t5 = mkLoc2 5 0x40 from by decide +kernel,
     show pubNew w55t5 = BitVec.ofNat 512 (tdesc 9 0 100) from by decide +kernel,
     show pubOld w55t5 w55g = BitVec.ofNat 512 (tdesc 8 3 50) from by decide +kernel]; decide +kernel⟩,
   ⟨inv_of_check _ (by decide +kernel), free_of (by decide +kernel),
     by simp only [show pubLoc w55t6 = BitVec.ofNat 64 (spad + 0x40) from by decide +kernel,
     show pubOld w55t6 w55g6 = BitVec.ofNat 512 (0) from by decide +kernel]; decide +kernel⟩⟩

/-- LOAD_PLAN in progress for an image in a host region, for `MailboxPlansRegionsAndTables`. -/
def loading : State := { hostB with cmd := some { cmd0 0x10 with tag := 7, payload := req [(8, (mkLoc2 5 0).toNat), (8, 2560), (1, 0xFF), (7, 0), (8, 0)] } }
def loadCmd : Cmd := loading.cmd.getD (cmd0 0)
theorem witness_MailboxPlansRegionsAndTables_load :
    Machine.Inv loading ∧ MbxInProgress loading loadCmd 0x10 ∧ (loadCmd.tag = 7 ∧ loading.load = none ∧
    hostSpan loading (BitVec.ofNat 64 (pay loadCmd.payload 0 8)) (pay loadCmd.payload 8 8) false = some 0x10000) :=
  ⟨inv_of_check _ (by decide +kernel), running_of (by decide +kernel), by decide +kernel⟩

/-- The smallest image: one region, a program of one phase, no queue, no code. Its digest was computed outside Lean (SHA-384, R36). -/
def imgSec (k o n : Nat) : List Byte := leBytes 32 (k + o * 2 ^ 64 + n * 2 ^ 128)
def smallImage : List Byte := leBytes 64 (0x49504C4A + 2 ^ 32 + 3 * 2 ^ 40 + 2 ^ 72 + 2 ^ 84 + 9 * 2 ^ 128 + 2 ^ 256 + 2 ^ 272 + 2 ^ 288 + 2560 * 2 ^ 320 +
    64 * 2 ^ 384 + 14101493930308064481 * 2 ^ 448) ++
  leBytes 16 5 ++ imgSec 5 256 16 ++ imgSec 4 320 16 ++ imgSec 3 384 80 ++ imgSec 7 256 0 ++ imgSec 1 512 2048 ++ leBytes 16 0 ++
  leBytes 64 (1 + 3 * 2 ^ 28 + 5 * 2 ^ 30) ++ leBytes 64 0 ++ leBytes 16 2 ++ leBytes 32 1 ++ leBytes 80 4 ++ List.replicate 2048 0
/-- LOAD_PLAN in ring mode, with these bytes read so far. -/
def ringing (l : Load) : State := { withCsrs { loading with load := some l } [(fabCsr 8, 2 ^ 11 + 2 ^ 23)] with
  mgmt := { loading.mgmt with images := [(2, ⟨1, 1, 3⟩)] } }
def badLoad : Load := ⟨mkLoc2 5 0, 2560, 0xFF, 0x4000000, leBytes 64 7, 0, []⟩
def wholeLoad : Load := ⟨mkLoc2 5 0, 2560, 0xFF, 0x4000000, smallImage, 0, [0]⟩
theorem ofLE_zeros (n : Nat) : ofLE (List.replicate n 0#8) = 0 := by
  induction n with
  | zero => rfl
  | succ n ih => rw [List.replicate_succ, ofLE, ih]; rfl
theorem imgN_zeros (e : List Byte) (m a k : Nat) (h : e.length ≤ a) : imgN (e ++ List.replicate m 0#8) a k = 0 := by
  rw [imgN, List.drop_append, List.drop_eq_nil_of_le h, List.nil_append, List.drop_replicate, List.take_replicate, ofLE_zeros]
theorem rsvZero_zero (a : Nat) (rs : List (Nat × Nat)) : rsvZero 0 a rs = .ok () := by
  have h : rs.find? (fun r => fld 0 r.1 r.2 != 0) = none := by simp [fld]
  rw [rsvZero, h]
theorem mapM_pure {ε α β : Type} (f : α → Except ε β) (g : α → β) (l : List α) (h : ∀ a ∈ l, f a = .ok (g a)) : l.mapM f = .ok (l.map g) := by
  induction l with
  | nil => rfl
  | cons a l ih =>
    rw [List.mapM_cons, h a (List.mem_cons_self ..), ih (fun b hb => h b (List.mem_cons_of_mem _ hb))]
    rfl
/-- A CODE section of zeros holds no program (R61). -/
theorem codeSec_zeros (e : List Byte) (m : Nat) (h : ImgHead) (cs : List Sec) (c : Sec) (hc : secOf cs 1 = some c) (ho : e.length ≤ c.off) (hn : 2048 ≤ c.n) :
    codeSec (e ++ List.replicate m 0#8) h cs = .ok [] := by
  have hf : (List.range 256).mapM (fun t => do
      let a := c.off + 8 * t
      let v := imgN (e ++ List.replicate m 0#8) a 8
      rsvZero v a [(50, 14)]
      let o := fld v 0 32
      let n := fld v 32 18
      chk (decide (o % 4 = 0 ∧ n % 4 = 0 ∧ n ≤ 131072 ∧ (n = 0 ∨ (o + n ≤ c.n ∧ h.clusterMask.testBit (t / 16))))) a
      (.ok (t, ((e ++ List.replicate m 0#8).drop (c.off + o)).take n) : Chk (Nat × List Byte))) = .ok ((List.range 256).map (fun t => (t, []))) :=
    mapM_pure _ _ _ (fun t _ => by
      simp [imgN_zeros e m (c.off + 8 * t) 8 (Nat.le_trans ho (Nat.le_add_right ..)), rsvZero_zero, fld, chk, bind, Except.bind])
  simp only [codeSec, hc]
  simp only [secHas, chk, hn, decide_true, if_true, bind, Except.bind] at hf ⊢
  rw [hf]
  simp [List.filter_eq_nil_iff]
theorem ringEnd_of {s : State} {l : Load} (e : List Byte) (m : Nat) (hg : l.got = e ++ List.replicate m 0#8) (hp : l.placed ≠ []) (hb : ¬ l.got.length < l.bytes)
    (hd : (digestCheck l.got).isOk = true)
    (h : okAnd (headCheck s l.got l.bytes) (fun h => okAnd (sections l.got h) (fun cs =>
      someAnd (secOf cs 1) (fun c => decide (e.length ≤ c.off ∧ 2048 ≤ c.n)) && okAnd (earlyCheck s l.got h cs) (fun im =>
        okAnd (relocSec l.got cs (im.reqs.map (fun r => getF r 0 27 * 65536))) (fun rs =>
          (loadRest s l.slot { im with code := [], relocs := rs } l.placed).isOk)))) = true) :
    ∃ (bs : List Byte) (t : State), ringEnd s l = some (.ok (bs, t)) := by
  rw [ringEnd, if_neg hp, if_neg hb]
  cases h1 : headCheck s l.got l.bytes with
  | error _ => rw [h1] at h; cases h
  | ok hd' =>
  cases h2 : sections l.got hd' with
  | error _ => simp only [h1, okAnd, h2] at h; cases h
  | ok cs =>
  cases h3 : secOf cs 1 with
  | none => simp only [h1, okAnd, h2, h3, someAnd] at h; cases h
  | some c =>
  cases h4 : earlyCheck s l.got hd' cs with
  | error _ => simp [h1, okAnd, h2, h3, someAnd, h4] at h
  | ok im =>
  cases h5 : relocSec l.got cs (im.reqs.map (fun r => getF r 0 27 * 65536)) with
  | error _ => simp [h1, okAnd, h2, h3, someAnd, h4, h5] at h
  | ok rs =>
  simp only [h1, okAnd, h2, h3, someAnd, h4, h5, Bool.and_eq_true, decide_eq_true_eq] at h
  have hc : codeSec l.got hd' cs = .ok [] := by rw [hg]; exact codeSec_zeros e m hd' cs c h3 h.1.1 h.1.2
  cases h6 : digestCheck l.got with
  | error _ => rw [h6] at hd; cases hd
  | ok u =>
  cases h7 : loadRest s l.slot { im with code := [], relocs := rs } l.placed with
  | error _ => rw [h7] at h; cases h.2
  | ok y => exact ⟨y.1, y.2, by simp [imageCheck, h2, h4, hc, h5, h7, bind, Except.bind]⟩
theorem witness_MailboxPlansRegionsAndTables_ring :
    (Machine.Inv (ringing badLoad) ∧ MbxInProgress (ringing badLoad) loadCmd 0x10 ∧ loadCmd.tag = 7 ∧ (ringing badLoad).load = some badLoad ∧
      ringEnd (ringing badLoad) badLoad = some (.error (8, 0))) ∧
    (Machine.Inv (ringing wholeLoad) ∧ MbxInProgress (ringing wholeLoad) loadCmd 0x10 ∧ loadCmd.tag = 7 ∧ (ringing wholeLoad).load = some wholeLoad ∧
      ∃ (bs : List Byte) (t : State), ringEnd (ringing wholeLoad) wholeLoad = some (.ok (bs, t))) :=
  ⟨⟨inv_of_check _ (by decide +kernel), running_of (by decide +kernel), by decide +kernel, rfl, some_error_of _ _ (by decide +kernel)⟩,
   ⟨inv_of_check _ (by decide +kernel), running_of (by decide +kernel), by decide +kernel, rfl,
     ringEnd_of (smallImage.take 512) 2048 (by decide +kernel) (by decide +kernel) (by decide +kernel) (by decide +kernel) (by decide +kernel)⟩⟩

end Plans

namespace Settings
open Twins (tws)
open Plans (P2 hostB noRun)
open Booting (cmd0)
open Queries (mbx req hostR)
open Ledgers (ce lrec ldg le run3)
open Managing (mg)
def al0 : Allow := .range 0 1
def ce0 : ClassEnt := ce 1 none none
def poReq (n v f u : Nat) : List Byte := req [(8, n), (8, v), (1, f), (1, u)]
def trReq (l fl sz k : Nat) : List Byte := req [(8, l), (1, fl), (1, sz), (1, k)]
def mtReq (t p n bits : Nat) : List Byte := req [(1, t), (1, p), (1, n), (13, 0), (48, bits)]
def fbReq : List Byte := req [(2, 17), (2, 3), (1, 2), (59, 0), (256, 2 ^ 17 + 2 ^ 3 + 2 ^ 18)]
def inC (op : Nat) (f : Cmd → Cmd := id) (s : State := up) : State := { s with cmd := some (icmd op f) }
where icmd (op : Nat) (f : Cmd → Cmd := id) : Cmd := f { cmd0 op with tag := 7 }
def icmd (op : Nat) (f : Cmd → Cmd := id) : Cmd := f { cmd0 op with tag := 7 }
def mtC : Cmd → Cmd := fun c => { c with payload := mtReq 0 0 0 (2 ^ 3 + 2 ^ 383) }
def lkC : Cmd → Cmd := fun c => { c with payload := leBytes 4 0xC0 }

def w56s1 : State := mbx (leBytes 2 600)
def w56s2 : State := mbx (leBytes 2 599)
def w56s3 : State := mbx (leBytes 2 0x102)
def w56s4 : State := mbx (leBytes 2 0x103)
def w56s5 : State := mbx (leBytes 2 1) (run3 up)
def w56s6 : State := mbx (leBytes 2 1) (tws 0)
def w56s7 : State := mbx (leBytes 2 1) (tws 2)
def w56s8 : State := mbx (poReq 0xFFFF 0 9 2)
def w56s9 : State := mbx (poReq 3 1 0 0)
def w56al9 : Allow := al0
def w56s10 : State := mbx (poReq 3 2 0 0)
def w56s11 : State := mbx (req [(2, 3), (1, 0x11)]) (le ce0)
def w56y11 : ClassEnt := ce0
def w56s12 : State := mbx (req [(2, 3), (2, 0x11), (4, 2)]) (le ce0)
def w56s13 : State := mbx (req [(2, 3), (2, 0x11), (4, 2)]) (withCsrs up [(ldgCsr 0, 2), (ldgCsr 0x30, 77)])
def w56s14 : State := mbx (trReq (mkLoc2 5 0x1000).toNat 3 7 16) hostR
def w56s15 : State := mbx (trReq (mkLoc2 5 0x1000).toNat 3 31 16) hostR
def w56s16 : State := mbx (mtReq 0 5 3 (2 ^ 3 + 2 ^ 383)) hostR
def w56s17 : State := mbx (mtReq 0 0 64 (2 ^ 3 + 2 ^ 383)) hostR
def w56s18 : State := mbx (mtReq 0 0 64 (2 ^ 3 + 2 ^ 383)) (run3 up)
def w56s19 : State := mbx (leBytes 48 (2 ^ 3 + 2 ^ 383)) hostR
def w56s20 : State := mbx (leBytes 48 0) hostR
def w56s21 : State := mbx fbReq hostR
def w56s22 : State := mbx fbReq (P2 noRun)
def w56s23 : State := mbx (req [(8, (mkLoc2 5 0).toNat), (8, 256)]) hostR
def w56a23 : Nat := 0x10000
def w56s24 : State := mbx [] (run3 (withCore id))
def w56s25 : State := inC 0x32
def w56c25 : Cmd := icmd 0x32
def w56s26 : State := inC 0x32 id (mg (fun m => { m with flashBad := true }))
def w56s27 : State := inC 0x50 mtC (withCsrs up [(chanAddr 3 0x48, 2 + 5 * 2 ^ 32)])
def w56c27 : Cmd := icmd 0x50 mtC
def w56s28 : State := inC 0x51 id (withCsrs up [(chanAddr 3 0, 1)])
def w56c28 : Cmd := icmd 0x51
def w56s29 : State := inC 0x60 lkC
def w56c29 : Cmd := icmd 0x60 lkC
def w56s30 : State := inC 0x61
def w56c30 : Cmd := icmd 0x61
def w56s31 : State := inC 0x62 id (tws 1)
def w56c31 : Cmd := icmd 0x62
def w56s32 : State := inC 0x63 id (tws 4)
def w56c32 : Cmd := icmd 0x63
def w56s33 : State := inC 0x70 (fun c => { c with rounds := [1, 5] })
def w56c33 : Cmd := icmd 0x70 (fun c => { c with rounds := [1, 5] })
def w56s34 : State := inC 0x70 (fun c => { c with rounds := [1, 5] }) (mg (fun m => { m with flashBad := true }))
def w56s35 : State := mbx (poReq 0 1 0 0)
def w56s36 : State := mbx (poReq 0 1 0 0) { up with freeze := 1 }
def w56s37 : State := inC 0x62 (fun c => { c with rounds := [1] }) (tws 0)
def w56c37 : Cmd := icmd 0x62 (fun c => { c with rounds := [1] })
/-- States and operands that meet the hypotheses of `MailboxSettingsAndMaintenance`. -/
theorem witness_MailboxSettingsAndMaintenance :
    (Machine.Inv w56s1 ∧ MbxFree w56s1 ∧ (halted w56s1 = false ∧ (2#15).toNat ≤ 16384 ∧ badForm [(0, 2)] (payBytes w56s1 (2#15).toNat) = none ∧
      600 ≤ pay (payBytes w56s1 (2#15).toNat) 0 2 ∧ pay (payBytes w56s1 (2#15).toNat) 0 2 ≤ 1500 ∧ pay (payBytes w56s1 (2#15).toNat) 0 2 < 2048 ∧
      activeSlots w56s1 = [] ∧ pairFails w56s1 (pay (payBytes w56s1 (2#15).toNat) 0 2) ≠ 0 ∧ displaced w56s1 = false ∧
      (twinState w56s1 = 0 ∨ pay (payBytes w56s1 (2#15).toNat) 0 2 ≠ twinId w56s1))) ∧
    (Machine.Inv w56s2 ∧ MbxFree w56s2 ∧ (halted w56s2 = false ∧ (2#15).toNat ≤ 16384 ∧ badForm [(0, 2)] (payBytes w56s2 (2#15).toNat) = none ∧
      (pay (payBytes w56s2 (2#15).toNat) 0 2 < 600 ∨ 1500 < pay (payBytes w56s2 (2#15).toNat) 0 2))) ∧
    (Machine.Inv w56s3 ∧ MbxFree w56s3 ∧ (halted w56s3 = false ∧ (2#15).toNat ≤ 16384 ∧ badForm [(0, 2)] (payBytes w56s3 (2#15).toNat) = none ∧
      pay (payBytes w56s3 (2#15).toNat) 0 2 = 258 ∧ settingAllowed w56s3 258 = false)) ∧
    (Machine.Inv w56s4 ∧ MbxFree w56s4 ∧ (halted w56s4 = false ∧ (2#15).toNat ≤ 16384 ∧ badForm [(0, 2)] (payBytes w56s4 (2#15).toNat) = none ∧
      pay (payBytes w56s4 (2#15).toNat) 0 2 ≠ 65535 ∧ settingNums.contains (pay (payBytes w56s4 (2#15).toNat) 0 2) = true ∧
      settingAllowed w56s4 (pay (payBytes w56s4 (2#15).toNat) 0 2) = true ∧ flashHeld w56s4 = false)) ∧
    (Machine.Inv w56s5 ∧ MbxFree w56s5 ∧ (halted w56s5 = false ∧ (2#15).toNat ≤ 16384 ∧ badForm [(0, 2)] (payBytes w56s5 (2#15).toNat) = none ∧
      pay (payBytes w56s5 (2#15).toNat) 0 2 < 2048 ∧ runningSlot w56s5 = some 2)) ∧
    (Machine.Inv w56s6 ∧ MbxFree w56s6 ∧ (halted w56s6 = false ∧ (2#15).toNat ≤ 16384 ∧ badForm [(0, 2)] (payBytes w56s6 (2#15).toNat) = none ∧
      pay (payBytes w56s6 (2#15).toNat) 0 2 < 2048 ∧ activeSlots w56s6 = [] ∧ pairFails w56s6 (pay (payBytes w56s6 (2#15).toNat) 0 2) = 0)) ∧
    (Machine.Inv w56s7 ∧ MbxFree w56s7 ∧ (halted w56s7 = false ∧ (2#15).toNat ≤ 16384 ∧ badForm [(0, 2)] (payBytes w56s7 (2#15).toNat) = none ∧
      pay (payBytes w56s7 (2#15).toNat) 0 2 < 2048 ∧ displaced w56s7 = false ∧ 1 ≤ twinState w56s7 ∧ twinState w56s7 ≤ 3 ∧
      pay (payBytes w56s7 (2#15).toNat) 0 2 = twinId w56s7)) ∧
    (Machine.Inv w56s8 ∧ MbxFree w56s8 ∧ (halted w56s8 = false ∧ (18#15).toNat ≤ 16384 ∧
      badForm [(0, 2), (8, 8), (16, 1), (17, 1)] (payBytes w56s8 (18#15).toNat) = none ∧ pay (payBytes w56s8 (18#15).toNat) 16 1 < 16 ∧
      pay (payBytes w56s8 (18#15).toNat) 17 1 < 16 ∧ pay (payBytes w56s8 (18#15).toNat) 16 1 &&& pay (payBytes w56s8 (18#15).toNat) 17 1 = 0 ∧
      pay (payBytes w56s8 (18#15).toNat) 0 2 = 65535)) ∧
    (Machine.Inv w56s9 ∧ MbxFree w56s9 ∧ (halted w56s9 = false ∧ (18#15).toNat ≤ 16384 ∧
      badForm [(0, 2), (8, 8), (16, 1), (17, 1)] (payBytes w56s9 (18#15).toNat) = none ∧ pay (payBytes w56s9 (18#15).toNat) 16 1 < 16 ∧
      pay (payBytes w56s9 (18#15).toNat) 17 1 < 16 ∧ pay (payBytes w56s9 (18#15).toNat) 16 1 &&& pay (payBytes w56s9 (18#15).toNat) 17 1 = 0 ∧
      paramOf (pay (payBytes w56s9 (18#15).toNat) 0 2) = some { num := pay (payBytes w56s9 (18#15).toNat) 0 2, allow := w56al9, home := ParamHome.steward } ∧
      paramLegal w56s9 (pay (payBytes w56s9 (18#15).toNat) 0 2) (pay (payBytes w56s9 (18#15).toNat) 8 8) = true)) ∧
    (Machine.Inv w56s10 ∧ MbxFree w56s10 ∧ (halted w56s10 = false ∧ (18#15).toNat ≤ 16384 ∧
      badForm [(0, 2), (8, 8), (16, 1), (17, 1)] (payBytes w56s10 (18#15).toNat) = none ∧ pay (payBytes w56s10 (18#15).toNat) 16 1 < 16 ∧
      pay (payBytes w56s10 (18#15).toNat) 17 1 < 16 ∧ pay (payBytes w56s10 (18#15).toNat) 16 1 &&& pay (payBytes w56s10 (18#15).toNat) 17 1 = 0 ∧
      paramOf (pay (payBytes w56s10 (18#15).toNat) 0 2) = some { num := pay (payBytes w56s10 (18#15).toNat) 0 2, allow := w56al9, home := ParamHome.steward } ∧
      paramLegal w56s10 (pay (payBytes w56s10 (18#15).toNat) 0 2) (pay (payBytes w56s10 (18#15).toNat) 8 8) = false)) ∧
    (Machine.Inv w56s11 ∧ MbxFree w56s11 ∧ (halted w56s11 = false ∧ (3#15).toNat ≤ 16384 ∧
      badForm [(0, 2), (2, 1)] (payBytes w56s11 (3#15).toNat) = none ∧
      classOf w56s11 (pay (payBytes w56s11 (3#15).toNat) 0 2) (pay (payBytes w56s11 (3#15).toNat) 2 1) = some (2, w56y11))) ∧
    (Machine.Inv w56s12 ∧ MbxFree w56s12 ∧ (halted w56s12 = false ∧ (8#15).toNat ≤ 16384 ∧
      badForm [(0, 2), (2, 1), (4, 4)] (payBytes w56s12 (8#15).toNat) = none ∧
      [16, 17, 18, 48].contains (pay (payBytes w56s12 (8#15).toNat) 2 1) = true ∧ csrF w56s12 (ldgCsr 0) 1 1 = 0)) ∧
    (Machine.Inv w56s13 ∧ MbxFree w56s13 ∧ (halted w56s13 = false ∧ (8#15).toNat ≤ 16384 ∧
      badForm [(0, 2), (2, 1), (4, 4)] (payBytes w56s13 (8#15).toNat) = none ∧
      [16, 17, 18, 48].contains (pay (payBytes w56s13 (8#15).toNat) 2 1) = true ∧ csrF w56s13 (ldgCsr 0) 1 1 = 1 ∧
      pay (payBytes w56s13 (8#15).toNat) 4 4 ≠ 0)) ∧
    (Machine.Inv w56s14 ∧ MbxFree w56s14 ∧ (halted w56s14 = false ∧ (11#15).toNat ≤ 16384 ∧
      badForm [(0, 8), (8, 1), (9, 1), (10, 1)] (payBytes w56s14 (11#15).toNat) = none ∧ pay (payBytes w56s14 (11#15).toNat) 0 8 % 4096 = 0 ∧
      pay (payBytes w56s14 (11#15).toNat) 8 1 < 4 ∧ 7 ≤ pay (payBytes w56s14 (11#15).toNat) 9 1 ∧ pay (payBytes w56s14 (11#15).toNat) 9 1 ≤ 31 ∧
      pay (payBytes w56s14 (11#15).toNat) 10 1 ≤ 16 ∧
      ((pay (payBytes w56s14 (11#15).toNat) 8 1).testBit 0 = false ∨ inDram (locTgt w56s14 (BitVec.ofNat 64 (pay (payBytes w56s14 (11#15).toNat) 0 8)) (32 * 2 ^ pay (payBytes w56s14 (11#15).toNat) 9 1) true) = true))) ∧
    (Machine.Inv w56s15 ∧ MbxFree w56s15 ∧ (halted w56s15 = false ∧ (11#15).toNat ≤ 16384 ∧
      badForm [(0, 8), (8, 1), (9, 1), (10, 1)] (payBytes w56s15 (11#15).toNat) = none ∧ pay (payBytes w56s15 (11#15).toNat) 0 8 % 4096 = 0 ∧
      pay (payBytes w56s15 (11#15).toNat) 8 1 < 4 ∧ 7 ≤ pay (payBytes w56s15 (11#15).toNat) 9 1 ∧ pay (payBytes w56s15 (11#15).toNat) 9 1 ≤ 31 ∧
      pay (payBytes w56s15 (11#15).toNat) 10 1 ≤ 16 ∧ (pay (payBytes w56s15 (11#15).toNat) 8 1).testBit 0 = true ∧
      inDram (locTgt w56s15 (BitVec.ofNat 64 (pay (payBytes w56s15 (11#15).toNat) 0 8)) (32 * 2 ^ pay (payBytes w56s15 (11#15).toNat) 9 1) true) = false)) ∧
    (Machine.Inv w56s16 ∧ MbxFree w56s16 ∧ (halted w56s16 = false ∧ (64#15).toNat ≤ 16384 ∧
      badForm [(0, 1), (1, 1), (2, 1), (16, 48)] (payBytes w56s16 (64#15).toNat) = none ∧ pay (payBytes w56s16 (64#15).toNat) 0 1 = 0 ∧
      pay (payBytes w56s16 (64#15).toNat) 1 1 < 64 ∧ 1 ≤ pay (payBytes w56s16 (64#15).toNat) 2 1 ∧ pay (payBytes w56s16 (64#15).toNat) 2 1 ≤ 64 ∧
      activeSlots w56s16 = [] ∧ 0 < 6 ∧ (pay (payBytes w56s16 (64#15).toNat) 1 1).testBit 0 = true ∧
      (∀ (j : Nat), j < 0 → (pay (payBytes w56s16 (64#15).toNat) 1 1).testBit j = false))) ∧
    (Machine.Inv w56s17 ∧ MbxFree w56s17 ∧ (halted w56s17 = false ∧ (64#15).toNat ≤ 16384 ∧
      badForm [(0, 1), (1, 1), (2, 1), (16, 48)] (payBytes w56s17 (64#15).toNat) = none ∧ pay (payBytes w56s17 (64#15).toNat) 0 1 = 0 ∧
      pay (payBytes w56s17 (64#15).toNat) 1 1 < 64 ∧ 1 ≤ pay (payBytes w56s17 (64#15).toNat) 2 1 ∧ pay (payBytes w56s17 (64#15).toNat) 2 1 ≤ 64 ∧
      activeSlots w56s17 = [] ∧ pay (payBytes w56s17 (64#15).toNat) 1 1 = 0)) ∧
    (Machine.Inv w56s18 ∧ MbxFree w56s18 ∧ (halted w56s18 = false ∧ (64#15).toNat ≤ 16384 ∧
      badForm [(0, 1), (1, 1), (2, 1), (16, 48)] (payBytes w56s18 (64#15).toNat) = none ∧ pay (payBytes w56s18 (64#15).toNat) 0 1 = 0 ∧
      pay (payBytes w56s18 (64#15).toNat) 1 1 < 64 ∧ 1 ≤ pay (payBytes w56s18 (64#15).toNat) 2 1 ∧ pay (payBytes w56s18 (64#15).toNat) 2 1 ≤ 64 ∧
      runningSlot w56s18 = some 2)) ∧
    (Machine.Inv w56s19 ∧ MbxFree w56s19 ∧ (halted w56s19 = false ∧ (48#15).toNat ≤ 16384 ∧ badForm [(0, 48)] (payBytes w56s19 (48#15).toNat) = none ∧
      activeSlots w56s19 = [] ∧ pay (payBytes w56s19 (48#15).toNat) 0 48 ≠ 0)) ∧
    (Machine.Inv w56s20 ∧ MbxFree w56s20 ∧ (halted w56s20 = false ∧ (48#15).toNat ≤ 16384 ∧ badForm [(0, 48)] (payBytes w56s20 (48#15).toNat) = none ∧
      activeSlots w56s20 = [] ∧ pay (payBytes w56s20 (48#15).toNat) 0 48 = 0 ∧ badForm [(0, 4)] (payBytes w56s20 (48#15).toNat) = none ∧
      pay (payBytes w56s20 (48#15).toNat) 0 4 < 2 ^ 24 ∧ badForm [] (payBytes w56s20 (48#15).toNat) = none)) ∧
    (Machine.Inv w56s21 ∧ MbxFree w56s21 ∧ (halted w56s21 = false ∧ (320#15).toNat ≤ 16384 ∧
      badForm [(0, 2), (2, 2), (4, 1), (64, 256)] (payBytes w56s21 (320#15).toNat) = none ∧
      ((List.filter (fun d => (ofLE (List.take 256 (List.drop 64 (payBytes w56s21 (320#15).toNat)))).testBit d) (List.range 2048)).length = pay (payBytes w56s21 (320#15).toNat) 2 2) ∧
      ((List.filter (fun g => (List.filter (fun d => (ofLE (List.take 256 (List.drop 64 (payBytes w56s21 (320#15).toNat)))).testBit d) (List.range 2048)).any fun d => d / 16 == g) (List.range 128)).length = pay (payBytes w56s21 (320#15).toNat) 4 1) ∧
      (pay (payBytes w56s21 (320#15).toNat) 0 2 ∈ List.filter (fun d => (ofLE (List.take 256 (List.drop 64 (payBytes w56s21 (320#15).toNat)))).testBit d) (List.range 2048)) ∧
      (∀ (i : Nat), i < 8 → planOf w56s21 i = none))) ∧
    (Machine.Inv w56s22 ∧ MbxFree w56s22 ∧ (halted w56s22 = false ∧ (320#15).toNat ≤ 16384 ∧
      badForm [(0, 2), (2, 2), (4, 1), (64, 256)] (payBytes w56s22 (320#15).toNat) = none ∧
      ((List.filter (fun d => (ofLE (List.take 256 (List.drop 64 (payBytes w56s22 (320#15).toNat)))).testBit d) (List.range 2048)).length = pay (payBytes w56s22 (320#15).toNat) 2 2) ∧
      ((List.filter (fun g => (List.filter (fun d => (ofLE (List.take 256 (List.drop 64 (payBytes w56s22 (320#15).toNat)))).testBit d) (List.range 2048)).any fun d => d / 16 == g) (List.range 128)).length = pay (payBytes w56s22 (320#15).toNat) 4 1) ∧
      (pay (payBytes w56s22 (320#15).toNat) 0 2 ∈ List.filter (fun d => (ofLE (List.take 256 (List.drop 64 (payBytes w56s22 (320#15).toNat)))).testBit d) (List.range 2048)) ∧
      (List.find? (fun i => (planOf w56s22 i).isSome) (List.range 8) = some 2))) ∧
    (Machine.Inv w56s23 ∧ MbxFree w56s23 ∧ (halted w56s23 = false ∧ (16#15).toNat ≤ 16384 ∧
      badForm [(0, 8), (8, 8)] (payBytes w56s23 (16#15).toNat) = none ∧ pay (payBytes w56s23 (16#15).toNat) 8 8 ≠ 0 ∧ w56s23.mgmt.pldm = none ∧
      flashHeld w56s23 = false ∧
      hostSpan w56s23 (BitVec.ofNat 64 (pay (payBytes w56s23 (16#15).toNat) 0 8)) (pay (payBytes w56s23 (16#15).toNat) 8 8) false = some w56a23)) ∧
    (Machine.Inv w56s24 ∧ MbxFree w56s24 ∧ (halted w56s24 = false ∧ (0#15).toNat ≤ 16384 ∧ badForm [] (payBytes w56s24 (0#15).toNat) = none ∧
      runningSlot w56s24 = some 2)) ∧
    (Machine.Inv w56s25 ∧ w56c25.tag = (7#16).toNat ∧ MbxInProgress w56s25 w56c25 50 ∧ (w56s25.mgmt.flashQ = [] ∧ w56s25.mgmt.flashBad = false)) ∧
    (Machine.Inv w56s26 ∧ w56c25.tag = (7#16).toNat ∧ MbxInProgress w56s26 w56c25 50 ∧ (w56s26.mgmt.flashQ = [] ∧ w56s26.mgmt.flashBad = true)) ∧
    (Machine.Inv w56s27 ∧ w56c27.tag = (7#16).toNat ∧ MbxInProgress w56s27 w56c27 80 ∧ (w56c27.rounds = [] ∧ w56c27.errs = []) ∧
      (∀ (ch : Nat), ch < 384 ∧ (pay w56c27.payload 16 48).testBit ch = true → csrF w56s27 (chanAddr ch 72) 0 1 = 0)) ∧
    (Machine.Inv w56s28 ∧ w56c28.tag = (7#16).toNat ∧ MbxInProgress w56s28 w56c28 81) ∧
    (Machine.Inv w56s29 ∧ w56c29.tag = (7#16).toNat ∧ MbxInProgress w56s29 w56c29 96 ∧
      (∀ (j : Nat), j < 24 → (pay w56c29.payload 0 4).testBit j = true → portState w56s29 j ≠ 1)) ∧
    (Machine.Inv w56s30 ∧ w56c30.tag = (7#16).toNat ∧ MbxInProgress w56s30 w56c30 97 ∧
      ((∀ (j : Nat), j < 24 → (linkOf w56s30 j).step < 3 ∨ (linkOf w56s30 j).step = 5) ∧ displaced w56s30 = false)) ∧
    (Machine.Inv w56s31 ∧ w56c31.tag = (7#16).toNat ∧ MbxInProgress w56s31 w56c31 98 ∧ (w56c31.rounds = [] ∧ pairReady w56s31 = true)) ∧
    (Machine.Inv w56s32 ∧ w56c32.tag = (7#16).toNat ∧ MbxInProgress w56s32 w56c32 99 ∧ w56s32.twin.fencing = none) ∧
    (Machine.Inv w56s33 ∧ w56c33.tag = (7#16).toNat ∧ MbxInProgress w56s33 w56c33 112 ∧ (w56s33.mgmt.flashQ = [] ∧ w56s33.mgmt.flashBad = false)) ∧
    (Machine.Inv w56s34 ∧ w56c33.tag = (7#16).toNat ∧ MbxInProgress w56s34 w56c33 112 ∧ (w56s34.mgmt.flashQ = [] ∧ w56s34.mgmt.flashBad = true)) ∧
    (Machine.Inv w56s35 ∧ MbxFree w56s35 ∧ (halted w56s35 = false ∧ (18#15).toNat ≤ 16384 ∧ badForm [(0, 2), (8, 8), (16, 1), (17, 1)] (payBytes w56s35 (18#15).toNat) = none ∧
      pay (payBytes w56s35 (18#15).toNat) 16 1 < 16 ∧ pay (payBytes w56s35 (18#15).toNat) 17 1 < 16 ∧ pay (payBytes w56s35 (18#15).toNat) 16 1 &&& pay (payBytes w56s35 (18#15).toNat) 17 1 = 0 ∧ pay (payBytes w56s35 (18#15).toNat) 0 2 = 0 ∧ pay (payBytes w56s35 (18#15).toNat) 8 8 < 2 ∧ w56s35.freeze.testBit 0 = false)) ∧
    (Machine.Inv w56s36 ∧ MbxFree w56s36 ∧ (halted w56s36 = false ∧ (18#15).toNat ≤ 16384 ∧ badForm [(0, 2), (8, 8), (16, 1), (17, 1)] (payBytes w56s36 (18#15).toNat) = none ∧
      pay (payBytes w56s36 (18#15).toNat) 16 1 < 16 ∧ pay (payBytes w56s36 (18#15).toNat) 17 1 < 16 ∧ pay (payBytes w56s36 (18#15).toNat) 16 1 &&& pay (payBytes w56s36 (18#15).toNat) 17 1 = 0 ∧ pay (payBytes w56s36 (18#15).toNat) 0 2 = 0 ∧ pay (payBytes w56s36 (18#15).toNat) 8 8 < 2 ∧ w56s36.freeze.testBit 0 = true)) ∧
    (Machine.Inv w56s37 ∧ w56c37.tag = (7#16).toNat ∧ MbxInProgress w56s37 w56c37 98 ∧ (w56c37.rounds = [1] ∧ twinState w56s37 ≠ 4)) :=
  ⟨⟨inv_of_check _ (by decide +kernel), free_of (by decide +kernel), by decide +kernel⟩,
   ⟨inv_of_check _ (by decide +kernel), free_of (by decide +kernel), by decide +kernel⟩,
   ⟨inv_of_check _ (by decide +kernel), free_of (by decide +kernel), by decide +kernel⟩,
   ⟨inv_of_check _ (by decide +kernel), free_of (by decide +kernel), by decide +kernel⟩,
   ⟨inv_of_check _ (by decide +kernel), free_of (by decide +kernel), by decide +kernel⟩,
   ⟨inv_of_check _ (by decide +kernel), free_of (by decide +kernel), by decide +kernel⟩,
   ⟨inv_of_check _ (by decide +kernel), free_of (by decide +kernel), by decide +kernel⟩,
   ⟨inv_of_check _ (by decide +kernel), free_of (by decide +kernel), by decide +kernel⟩,
   ⟨inv_of_check _ (by decide +kernel), free_of (by decide +kernel), by decide +kernel⟩,
   ⟨inv_of_check _ (by decide +kernel), free_of (by decide +kernel), by decide +kernel⟩,
   ⟨inv_of_check _ (by decide +kernel), free_of (by decide +kernel), by decide +kernel⟩,
   ⟨inv_of_check _ (by decide +kernel), free_of (by decide +kernel), by decide +kernel⟩,
   ⟨inv_of_check _ (by decide +kernel), free_of (by decide +kernel), by decide +kernel⟩,
   ⟨inv_of_check _ (by decide +kernel), free_of (by decide +kernel), by decide +kernel⟩,
   ⟨inv_of_check _ (by decide +kernel), free_of (by decide +kernel), by decide +kernel⟩,
   ⟨inv_of_check _ (by decide +kernel), free_of (by decide +kernel), by decide +kernel⟩,
   ⟨inv_of_check _ (by decide +kernel), free_of (by decide +kernel), by decide +kernel⟩,
   ⟨inv_of_check _ (by decide +kernel), free_of (by decide +kernel), by decide +kernel⟩,
   ⟨inv_of_check _ (by decide +kernel), free_of (by decide +kernel), by decide +kernel⟩,
   ⟨inv_of_check _ (by decide +kernel), free_of (by decide +kernel), by decide +kernel⟩,
   ⟨inv_of_check _ (by decide +kernel), free_of (by decide +kernel),
     by simp only [show ofLE (List.take 256 (List.drop 64 (payBytes w56s21 (320#15).toNat))) = 2 ^ 17 + 2 ^ 3 + 2 ^ 18 from by decide +kernel]; decide +kernel⟩,
   ⟨inv_of_check _ (by decide +kernel), free_of (by decide +kernel),
     by simp only [show ofLE (List.take 256 (List.drop 64 (payBytes w56s22 (320#15).toNat))) = 2 ^ 17 + 2 ^ 3 + 2 ^ 18 from by decide +kernel]; decide +kernel⟩,
   ⟨inv_of_check _ (by decide +kernel), free_of (by decide +kernel), by decide +kernel⟩,
   ⟨inv_of_check _ (by decide +kernel), free_of (by decide +kernel), by decide +kernel⟩,
   ⟨inv_of_check _ (by decide +kernel), by decide +kernel, running_of (by decide +kernel), by decide +kernel⟩,
   ⟨inv_of_check _ (by decide +kernel), by decide +kernel, running_of (by decide +kernel), by decide +kernel⟩,
   ⟨inv_of_check _ (by decide +kernel), by decide +kernel, running_of (by decide +kernel), by decide +kernel,
     by simp only [show pay w56c27.payload 16 48 = 2 ^ 3 + 2 ^ 383 from by decide +kernel]; exact fun ch h => (by decide +kernel : ∀ ch,
     ch < 384 → Nat.testBit (2 ^ 3 + 2 ^ 383) ch = true → csrF w56s27 (chanAddr ch 72) 0 1 = 0) ch h.1 h.2⟩,
   ⟨inv_of_check _ (by decide +kernel), by decide +kernel, running_of (by decide +kernel)⟩,
   ⟨inv_of_check _ (by decide +kernel), by decide +kernel, running_of (by decide +kernel), by decide +kernel⟩,
   ⟨inv_of_check _ (by decide +kernel), by decide +kernel, running_of (by decide +kernel), by decide +kernel⟩,
   ⟨inv_of_check _ (by decide +kernel), by decide +kernel, running_of (by decide +kernel), by decide +kernel⟩,
   ⟨inv_of_check _ (by decide +kernel), by decide +kernel, running_of (by decide +kernel), by decide +kernel⟩,
   ⟨inv_of_check _ (by decide +kernel), by decide +kernel, running_of (by decide +kernel), by decide +kernel⟩,
   ⟨inv_of_check _ (by decide +kernel), by decide +kernel, running_of (by decide +kernel), by decide +kernel⟩,
   ⟨inv_of_check _ (by decide +kernel), free_of (by decide +kernel), by decide +kernel⟩,
   ⟨inv_of_check _ (by decide +kernel), free_of (by decide +kernel), by decide +kernel⟩,
   ⟨inv_of_check _ (by decide +kernel), by decide +kernel, running_of (by decide +kernel), by decide +kernel⟩⟩

end Settings

namespace HostPages
open Plans (smallImage ringing)
open Twins (tws)
open Plans (P2 hostB noRun)
open Booting (cmd0)
open Queries (mbx req hostR)
open Ledgers (ce lrec ldg le run3)
open Managing (mg)
def ld0 (got : Nat) : Load := ⟨mkLoc2 5 0, 0x4000010, 0xFF, 0x4000000, leBytes got 9, 50, []⟩
def db (v : Nat) : State := withCsrs up [(dbBind 3, v)]
def ldR (got : Nat) (f : State → State := id) : State := f { hostB with load := some (ld0 got), cmd := some { cmd0 0x10 with tag := 7 }, now := 60 }
def evS (l : List (Nat × Nat)) : State := { withCsrs up l with evqOldest := some 5, evqRaised := 7 }
def tc : Nat := tileCsr 3 0x2000
def rgI : Reg := (regAt (inkCsr 8)).getD ⟨.none, []⟩

def w57s1 : State := { up with rest := 1 }
def w57off1 : BitVec 14 := 0x40
def w57bytes1 : List Byte := leBytes 8 77
def w57s2 : State := withCsrs up [(hstCsr 0x1010, 2 + 9 * 2 ^ 32)]
def w57o362 : BitVec 36 := 0x10040
def w57s3 : State := withCsrs up [(hstCsr 0x1010, 1 + 9 * 2 ^ 32)]
def w57ad3 : BitVec 45 := 0x180003100400
def w57s4 : State := { run3 (withCore id) with cmd := some (cmd0 0x10) }
def w57key4 : BitVec 32 := 0x41425254
def w57s5 : State := { run3 (withCore id) with cmd := some (cmd0 0x10), aborting := true }
def w57s6 : State := { run3 (withCore id) with cmd := none, aborting := true }
def w57ad6 : BitVec 45 := 0x180003100008
def w57s7 : State := db (1 + 4 * 4 + 9 * 1024)
def w57s8 : State := withCsrs (db (1 + 4 * 4 + 9 * 1024)) [(semAddr 4 9, 0xFFFFFFFB)]
def w57s9 : State := db (2 + 4 * 4 + 9 * 1024)
def w57s10 : State := db (3 + (256 * 2 + 7) * 1024)
def w57s12 : State := ldR 4
def w57l12 : Load := ld0 4
def w57c12 : Cmd := { cmd0 0x10 with tag := 7 }
def w57g12 : Tgt := .dram 5 0x40
def w57s13 : State := evS [(evqCfg, 1 + 4 * 2 + 3 * 64 + 4096 + 1 * 8192), (evqPtr, 9 * 2 ^ 32)]
def w57s14 : State := evS [(evqCfg, 1 + 4 * 2 + 3 * 64 + 4096 + 1 * 8192), (evqPtr, 9 * 2 ^ 32), (evqLost, 5), (evqCfg - 8, 0x100000)]
def w57s15 : State := hostR (storeBytes up 0x10040 (leBytes 8 99))
def w57ad15 : BitVec 45 := 0x170003100018
def w57s16 : State := withCsrs up [(tc + 0x48, 99)]
def w57ad16 : BitVec 45 := BitVec.ofNat 45 tc
def w57rs16 : List (Nat × Nat) := [(tc + 0x40, 56)]
def w57s17 : State := withCsrs (db (2 + 4 * 4 + 9 * 1024)) [(tallyCfgAddr 4 9, 5 * 2 ^ 32)]
def w57ad18 : BitVec 45 := BitVec.ofNat 45 (inkCsr 8)
def w57r18 : Reg := rgI
def w57s19 : State := { up with dbHeld := [(3, 0x20, 1)] }
def w57s20 : State := { up with reqs := [{ mq1 with cont := .mirror [hostAgent] none }] }
def w57ad21 : BitVec 45 := 0x100001800000
def w57s22 : State := withCsrs up [(inkCsr 0x20, 5)]
def w57ad23 : BitVec 45 := 0x100001800000 + 0x180000
def w57ad24 : BitVec 45 := 0x100001800000 + 0x17FFFC
def w57ad25 : BitVec 45 := 0x100001800000 + 0x400000
def w57s26 : State := run3 up
/-- States and operands that meet the hypotheses of `HostRegistersAndPagesAct`. -/
theorem witness_HostRegistersAndPagesAct :
    (Machine.Inv w57s1 ∧ (hostUp w57s1 = true ∧ w57s1.rest ≠ 0 ∧ bar2Up w57s1 = true ∧ w57off1.toNat + w57bytes1.length ≤ 16384 ∧
      w57off1.toNat % 4 = 0 ∧ w57bytes1.length % 4 = 0 ∧ csrF w57s1 (hstCsr 4112) 0 2 ≠ 1 ∧ w57s1.load = none ∧ csrF w57s1 evqCfg 0 1 = 0 ∧
      (BitVec.toNat (csrGet w57s1 evqLost) = 0 ∨ csrF w57s1 evqCfg 0 1 = 0))) ∧
    (Machine.Inv w57s2 ∧ (hostUp w57s2 = true ∧ w57s2.rest = 0 ∧ agentPending w57s2 hostAgent = false ∧ w57s2.dbHeld = [] ∧
      csrF w57s2 (hstCsr 4112) 0 2 = 2 ∧ w57s2.boot = 0 ∧ w57s2.resetting = 0 ∧
      6#32 ≠ 1094865492 ∧ dbKind w57s2 (3#8).toNat ≠ 1 ∧ dbKind w57s2 (3#8).toNat ≠ 2 ∧ dbKind w57s2 (3#8).toNat ≠ 3 ∧ bar2Up w57s2 = true ∧
      bar2Tgt w57s2 (bar2Addr w57s2 w57o362.toNat) 8 false = none ∧ bar2Tgt w57s2 (bar2Addr w57s2 w57o362.toNat) w57bytes1.length true = none ∧
      stewardUp w57s2 = true ∧ getF (0#64) 0 11 ≤ 1600 ∧ getF (0#64) 11 13 ≤ 5000)) ∧
    (Machine.Inv w57s3 ∧ (hostUp w57s3 = true ∧ w57s3.rest = 0 ∧ csrF w57s3 (hstCsr 4112) 0 2 ≠ 2 ∧ csrF w57s3 (hstCsr 4112) 0 2 = 1 ∧
      (1#15).toNat ≤ 16384 ∧ w57off1.toNat + w57bytes1.length ≤ 16384 ∧ w57off1.toNat % 4 = 0 ∧ w57bytes1.length % 4 = 0 ∧ stewardUp w57s3 = true ∧
      1600 < getF (1601#64) 0 11 ∧ getF (1601#64) 11 13 ≤ 5000 ∧ inCsrSpace w57ad3.toNat = true ∧ w57ad3.toNat % 8 = 0 ∧ regAt w57ad3.toNat = none)) ∧
    (Machine.Inv w57s4 ∧ (hostUp w57s4 = true ∧ w57s4.rest = 0 ∧ w57s4.boot = 0 ∧ w57s4.resetting = 0 ∧ w57key4 = 1094865492 ∧
      w57s4.aborting = false)) ∧
    (Machine.Inv w57s5 ∧ (hostUp w57s5 = true ∧ w57s5.rest = 0 ∧ w57s5.boot = 0 ∧ w57s5.resetting = 0 ∧ w57key4 = 1094865492 ∧ w57s5.aborting = true ∧
      w57s5.oobCmd = none)) ∧
    (Machine.Inv w57s6 ∧ (stewardUp w57s6 = true ∧ inCsrSpace w57ad6.toNat = true ∧ (16 ≠ 4 ∧ 16 ≠ 8 ∨ w57ad6.toNat % 16 ≠ 0))) ∧
    (Machine.Inv w57s7 ∧ (hostUp w57s7 = true ∧ w57s7.rest = 0 ∧ agentPending w57s7 hostAgent = false ∧ w57s7.dbHeld = [] ∧
      dbKind w57s7 (3#8).toNat = 1 ∧ dbTile w57s7 (3#8).toNat < 256 ∧
      dbNum w57s7 (3#8).toNat < 256 ∧ 0 < (5#32).toNat ∧ semVal w57s7 (dbTile w57s7 (3#8).toNat) (dbNum w57s7 (3#8).toNat) + (5#32).toNat < 2 ^ 32)) ∧
    (Machine.Inv w57s8 ∧ (hostUp w57s8 = true ∧ w57s8.rest = 0 ∧ agentPending w57s8 hostAgent = false ∧ w57s8.dbHeld = [] ∧
      dbKind w57s8 (3#8).toNat = 1 ∧ dbTile w57s8 (3#8).toNat < 256 ∧
      dbNum w57s8 (3#8).toNat < 256 ∧ 2 ^ 32 ≤ semVal w57s8 (dbTile w57s8 (3#8).toNat) (dbNum w57s8 (3#8).toNat) + (5#32).toNat ∧ 0 < (5#32).toNat)) ∧
    (Machine.Inv w57s9 ∧ (hostUp w57s9 = true ∧ w57s9.rest = 0 ∧ agentPending w57s9 hostAgent = false ∧ w57s9.dbHeld = [] ∧
      dbKind w57s9 (3#8).toNat = 2 ∧ dbTile w57s9 (3#8).toNat < 256 ∧
      dbNum w57s9 (3#8).toNat < 64 ∧ 0 < (5#32).toNat ∧
      tallyDepth w57s9 (dbTile w57s9 (3#8).toNat) (dbNum w57s9 (3#8).toNat) < tallyGap (tallyVal w57s9 (dbTile w57s9 (3#8).toNat) (dbNum w57s9 (3#8).toNat) + (5#32).toNat) (csrF w57s9 (tallyAddr (dbTile w57s9 (3#8).toNat) (dbNum w57s9 (3#8).toNat)) 32 32))) ∧
    (Machine.Inv w57s10 ∧ (hostUp w57s10 = true ∧ w57s10.rest = 0 ∧ agentPending w57s10 hostAgent = false ∧ w57s10.dbHeld = [] ∧
      dbKind w57s10 (3#8).toNat = 3 ∧
      ((1#32).toNat + 2 ^ 32 - wqHead w57s10 (dbNum w57s10 (3#8).toNat / 256) (dbNum w57s10 (3#8).toNat % 256)) % 2 ^ 32 ≤ wqSize w57s10 (dbNum w57s10 (3#8).toNat / 256) (dbNum w57s10 (3#8).toNat % 256))) ∧
    (Machine.Inv w57s10 ∧ (hostUp w57s10 = true ∧ w57s10.rest = 0 ∧ agentPending w57s10 hostAgent = false ∧ w57s10.dbHeld = [] ∧
      dbKind w57s10 (3#8).toNat = 3 ∧
      wqSize w57s10 (dbNum w57s10 (3#8).toNat / 256) (dbNum w57s10 (3#8).toNat % 256) < ((2#32).toNat + 2 ^ 32 - wqHead w57s10 (dbNum w57s10 (3#8).toNat / 256) (dbNum w57s10 (3#8).toNat % 256)) % 2 ^ 32)) ∧
    (Machine.Inv w57s12 ∧ (hostUp w57s12 = true ∧ w57s12.load = some w57l12 ∧ w57l12.got.length ≤ min (16#64).toNat w57l12.bytes) ∧
      MbxInProgress w57s12 w57c12 16 ∧ (w57c12.tag = (7#16).toNat ∧ w57l12.got.length < w57l12.bytes ∧ ringEnd w57s12 w57l12 = none ∧ w57s12.now ≤ 10000000050 ∧
      w57l12.lastAdvance + 10000000000 ≤ 10000000050 ∧ bar2Up w57s12 = true ∧ w57s12.rest = 0 ∧
      bar2Tgt w57s12 (bar2Addr w57s12 w57o362.toNat) 8 false = some w57g12 ∧
      bar2Tgt w57s12 (bar2Addr w57s12 w57o362.toNat) w57bytes1.length true = some w57g12 ∧ w57s12.ledger.inj = [] ∧
      w57s12.ueSectors = [])) ∧
    (Machine.Inv w57s13 ∧ (w57s13.evqOldest = some 5 ∧ w57s13.evqRaised + csrF w57s13 evqCfg 13 10 * 1000 ≤ 1007 ∧ w57s13.now ≤ 1007 ∧
      csrF w57s13 evqCfg 0 1 = 1)) ∧
    (Machine.Inv w57s14 ∧ (hostUp w57s14 = true ∧ BitVec.toNat (csrGet w57s14 evqLost) ≠ 0 ∧ csrF w57s14 evqCfg 0 1 = 1 ∧
      (csrF w57s14 evqPtr 32 32 + 2 ^ 32 - (8#32).toNat) % 2 ^ 32 ≠ 2 ^ csrF w57s14 evqCfg 1 5)) ∧
    (Machine.Inv w57s15 ∧ (inCsrSpace w57ad15.toNat = false ∧ (w57ad15.toNat < sramBase ∨ sramTop ≤ w57ad15.toNat))) ∧
    (Machine.Inv w57s16 ∧ (stewardUp w57s16 = true ∧ cntClr w57ad16.toNat = some (20, w57rs16))) ∧
    (Machine.Inv w57s17 ∧ (hostUp w57s17 = true ∧ w57s17.rest = 0 ∧ agentPending w57s17 hostAgent = false ∧ w57s17.dbHeld = [] ∧
      dbKind w57s17 (3#8).toNat = 2 ∧ dbTile w57s17 (3#8).toNat < 256 ∧
      dbNum w57s17 (3#8).toNat < 64 ∧ 0 < (5#32).toNat ∧
      tallyGap (tallyVal w57s17 (dbTile w57s17 (3#8).toNat) (dbNum w57s17 (3#8).toNat) + (5#32).toNat) (csrF w57s17 (tallyAddr (dbTile w57s17 (3#8).toNat) (dbNum w57s17 (3#8).toNat)) 32 32) ≤ tallyDepth w57s17 (dbTile w57s17 (3#8).toNat) (dbNum w57s17 (3#8).toNat))) ∧
    (Machine.Inv up ∧ (stewardUp up = true ∧ inCsrSpace w57ad18.toNat = true ∧ w57ad18.toNat % 8 = 0 ∧ regAt w57ad18.toNat = some w57r18 ∧
      w57r18.perm = Perm.none)) ∧
    (Machine.Inv w57s19 ∧ (hostUp w57s19 = true ∧ w57s19.rest = 0 ∧ (agentPending w57s19 hostAgent = true ∨ w57s19.dbHeld ≠ []))) ∧
    (Machine.Inv w57s20 ∧ (hostUp w57s20 = true ∧ w57s20.rest = 0 ∧ (agentPending w57s20 hostAgent = true ∨ w57s20.dbHeld ≠ []))) ∧
    (Machine.Inv up ∧ (sramBase ≤ w57ad21.toNat ∧ w57ad21.toNat < sramTop ∧ 0 < 8 ∧ 8 ≤ 8 ∧ stewardUp up = true) ∧
      sramTgt w57ad21.toNat 8 = .ok (.spad w57ad21.toNat)) ∧
    (Machine.Inv w57s22 ∧ (sramBase ≤ w57ad21.toNat ∧ w57ad21.toNat < sramTop ∧ 0 < 1 ∧ 1 ≤ 8 ∧ csrF w57s22 (inkCsr 0x20) 2 1 = 1 ∧ w57s22.pins.mains = true ∧
      w57s22.boot ≠ 8) ∧ sramTgt w57ad21.toNat 1 = .ok (.spad w57ad21.toNat)) ∧
    (Machine.Inv up ∧ (sramBase ≤ w57ad23.toNat ∧ w57ad23.toNat < sramTop ∧ 0 < 8 ∧ 8 ≤ 8 ∧ stewardUp up = true) ∧
      sramTgt w57ad23.toNat 8 = .ok (.hole w57ad23.toNat)) ∧
    (Machine.Inv up ∧ (sramBase ≤ w57ad24.toNat ∧ w57ad24.toNat < sramTop ∧ 0 < 8 ∧ 8 ≤ 8 ∧ stewardUp up = true) ∧
      sramTgt w57ad24.toNat 8 = .error .straddle) ∧
    (Machine.Inv up ∧ (sramBase ≤ w57ad25.toNat ∧ w57ad25.toNat < sramTop ∧ 0 < 8 ∧ 8 ≤ 8 ∧ stewardUp up = true ∧ activeSlots up = []) ∧
      sramTgt w57ad25.toNat 8 = .error .fault) ∧
    (Machine.Inv w57s26 ∧ (sramBase ≤ w57ad25.toNat ∧ w57ad25.toNat < sramTop ∧ 0 < 8 ∧ 8 ≤ 8 ∧ stewardUp w57s26 = true ∧ activeSlots w57s26 ≠ []) ∧
      sramTgt w57ad25.toNat 8 = .error .fault) :=
  ⟨⟨inv_of_check _ (by decide +kernel), by decide +kernel⟩,
   ⟨inv_of_check _ (by decide +kernel), by decide +kernel⟩,
   ⟨inv_of_check _ (by decide +kernel), by decide +kernel⟩,
   ⟨inv_of_check _ (by decide +kernel), by decide +kernel⟩,
   ⟨inv_of_check _ (by decide +kernel), by decide +kernel⟩,
   ⟨inv_of_check _ (by decide +kernel), by decide +kernel⟩,
   ⟨inv_of_check _ (by decide +kernel), by decide +kernel⟩,
   ⟨inv_of_check _ (by decide +kernel), by decide +kernel⟩,
   ⟨inv_of_check _ (by decide +kernel), by decide +kernel⟩,
   ⟨inv_of_check _ (by decide +kernel), by decide +kernel⟩,
   ⟨inv_of_check _ (by decide +kernel), by decide +kernel⟩,
   ⟨inv_of_check _ (by decide +kernel), by decide +kernel, running_of (by decide +kernel), by decide +kernel⟩,
   ⟨inv_of_check _ (by decide +kernel), by decide +kernel⟩,
   ⟨inv_of_check _ (by decide +kernel), by decide +kernel⟩,
   ⟨inv_of_check _ (by decide +kernel), by decide +kernel⟩,
   ⟨inv_of_check _ (by decide +kernel), by decide +kernel⟩,
   ⟨inv_of_check _ (by decide +kernel), by decide +kernel⟩,
   ⟨inv_of_check _ (by decide +kernel), by decide +kernel⟩,
   ⟨inv_of_check _ (by decide +kernel), by decide +kernel⟩,
   ⟨inv_of_check _ (by decide +kernel), by decide +kernel⟩,
   ⟨inv_of_check _ (by decide +kernel), by decide +kernel, ok_of _ _ (by decide +kernel)⟩,
   ⟨inv_of_check _ (by decide +kernel), by decide +kernel, ok_of _ _ (by decide +kernel)⟩,
   ⟨inv_of_check _ (by decide +kernel), by decide +kernel, ok_of _ _ (by decide +kernel)⟩,
   ⟨inv_of_check _ (by decide +kernel), by decide +kernel, error_of _ _ (by decide +kernel)⟩,
   ⟨inv_of_check _ (by decide +kernel), by decide +kernel, error_of _ _ (by decide +kernel)⟩,
   ⟨inv_of_check _ (by decide +kernel), by decide +kernel, error_of _ _ (by decide +kernel)⟩⟩

/-- The first bytes of an image that are short of its header, and a whole image of which the regions are still to be placed. -/
def w57l27 : Load := ⟨mkLoc2 5 0, 2560, 0xFF, 0x4000000, smallImage, 0, []⟩
def w57s27 : State := ringing w57l27
theorem loadChecked_of {s : State} {want : Nat} {im : Image} (h : im.tables = []) {slot : Nat} {idx : List Nat} {x : State}
    (hs : loadSlot s want = .ok slot) (ho : (List.range 8).filter (fun i => (planOf s i).isSome) = []) (hp : placeAll s slot im.reqs [] = .ok (idx, x))
    (hq : im.queues.any (fun q => !im.head.clusterMask.testBit (getF q 8 4)) = false) : ∃ idx x, loadChecked s want im = .ok (idx, x) := by
  simp [loadChecked, h, hs, ho, hp, hq, bind, Except.bind]
theorem early_load_of {x : Option (Chk Image)} {s : State} {want : Nat}
    (h : someAnd x (fun e => okAnd e (fun im => im.tables.isEmpty && decide ((List.range 8).filter (fun i => (planOf s i).isSome) = []) &&
      !im.queues.any (fun q => !im.head.clusterMask.testBit (getF q 8 4)) &&
      okAnd (loadSlot s want) (fun slot => (placeAll s slot im.reqs []).isOk))) = true) :
    ∃ (im : Image) (idx : List Nat) (y : State), x = some (.ok im) ∧ loadChecked s want im = .ok (idx, y) := by
  match x, h with
  | some (.ok im), h =>
    simp only [someAnd, okAnd, Bool.and_eq_true, decide_eq_true_eq, List.isEmpty_iff, Bool.not_eq_true'] at h
    obtain ⟨⟨⟨ht, ho⟩, hq⟩, hp⟩ := h
    cases hs : loadSlot s want with
    | error e => rw [hs] at hp; cases hp
    | ok slot =>
      rw [hs] at hp
      cases hx : placeAll s slot im.reqs [] with
      | error e => simp only [hx] at hp; cases hp
      | ok y =>
        obtain ⟨idx, z, he⟩ := loadChecked_of ht hs ho hx hq
        exact ⟨im, idx, z, rfl, he⟩
  | some (.error _), h => cases h
  | none, h => cases h
theorem witness_HostRegistersAndPagesAct_load :
    (∀ im, earlyOf (csrPut w57s12 (hstCsr 0x28) 16) (w57l12.got ++ (List.range (16 - w57l12.got.length)).map (fun k =>
      memByte w57s12 (rgnBase w57s12 (locIdx w57l12.loc) + locOff w57l12.loc + (w57l12.got.length + k) % w57l12.ring))) w57l12.bytes ≠ some (.ok im)) ∧
    (Machine.Inv w57s27 ∧ (hostUp w57s27 = true ∧ w57l27.got.length ≤ min (2560#64).toNat w57l27.bytes ∧ w57l27.placed = []) ∧ w57s27.load = some w57l27 ∧
      ∃ (im : Image) (idx : List Nat) (x : State), earlyOf (csrPut w57s27 (hstCsr 0x28) 2560) (w57l27.got ++ []) w57l27.bytes = some (.ok im) ∧
        loadChecked (csrPut w57s27 (hstCsr 0x28) 2560) w57l27.slot im = .ok (idx, x)) :=
  ⟨not_ok_of _ (by decide +kernel),
   ⟨inv_of_check _ (by decide +kernel), by decide +kernel, rfl, early_load_of (by decide +kernel)⟩⟩

end HostPages

/-- The hypotheses of `ExactSumsIgnoreOrderAndGrouping`. -/
theorem witness_ExactSumsIgnoreOrderAndGrouping : (5 < 6 ∧ 2 < 3) ∧ [(Num.nan, true), (Num.inf true, false)].Perm [(Num.inf true, false), (Num.nan, true)] :=
  ⟨by decide, List.Perm.swap _ _ _⟩

/-- The hypotheses of `EveryStepKeepsTheInvariant`: the reset state idles, and a command that waits runs. -/
theorem witness_EveryStepKeepsTheInvariant :
    Machine.Inv State.reset ∧ (∃ t, step State.reset = .next t) ∧ Machine.Inv { up with pending := [.mbxAck] } ∧
    ∃ t, step { up with pending := [.mbxAck] } = .next t :=
  ⟨inv_of_check _ (by decide +kernel), ⟨_, rfl⟩, inv_of_check _ (by decide +kernel), ⟨_, rfl⟩⟩

/-! ### The worked examples of the spec -/

/-- Chapter 1: tile 2's scratchpad offset 0x100 on device 53. -/
theorem test_global_address_of_the_example : globalOf (withCsrs up [(fabCsr 0x08, 53)]) (0x100000000000 + 2 * 0x800000 + 0x100) = 0x6B00001000100 := by
  decide +kernel

/-- The four BF16 terms of the example of chapter 3, in its first order of arrival. -/
def fourTerms : Acc := [0x4980, 0x3F81, 0xC980, 0x0001].foldl (fun a x => accTerm 0 1 a (decodeFloat bf16 x) false) Acc.empty
theorem test_exact_sum_of_the_example : fourTerms.val = 2 ^ 16 + 2 ^ 142 + 2 ^ 149 := by decide +kernel
theorem test_exact_sum_finalises_to_bf16 : (toFloat bf16 .rne false (accNum 1 fourTerms.val)).code = 0x3F81 := by decide +kernel
theorem test_exact_sum_packs_as_the_example : packElem 1 fourTerms = leBytes 4 0x00010080 ++ leBytes 4 0x10000 ++ leBytes 12 0 ++ leBytes 4 0x204000 := by
  decide +kernel

/-- Chapter 4: offset 0x10_0000 of a FINE region over 384 channels lies on channel 266, 2,560 bytes in. -/
theorem test_fine_region_channel_of_the_example : chanAt (List.range 384) 0 0 0 0x100000 = (266, 2560) := by decide +kernel

/-- Chapter 5: the three uniform draws of the example choose positions 2, 3 and 0. -/
theorem test_uniform_sample_of_the_example :
    sampleUniform (fun j => [0xC000000012345678, 0x900000000ABCDEF0, 0x2000000098765432].getD j 0) 5 3 3 [] = [0, 3, 2] := by decide +kernel

/-- Chapter 6: the header and the first element of the hub's partial row. -/
theorem test_partial_row_of_the_example :
    (packPartial { aggOf (BitVec.ofNat 512 0xC0) with cls := 1, elems := 256 }
      { owner := 0, id := 0x895440, pos := 0, acc := [{ Acc.empty with val := 3125 * 2 ^ 149, has := true }], den := [], terms := 65536, wide := 0, parts := 0,
        loosePsn := false, left := 0, allKnown := true, words := 0 } 1 3) =
      leBytes 8 0x0100000000895440 ++ leBytes 8 0x000000E000010000 ++ leBytes 4 0x000100A4 ++ leBytes 4 0x86A00000 ++ leBytes 4 1 := by decide +kernel

/-- Chapter 12: row 0x123 of the table falls in set 0x310. -/
theorem test_pantry_set_of_the_example : panSet (0x200000000 + 0x123 * 0x10000) = 0x310 := by decide +kernel

/-- Chapter 15: with one channel mapped out region space and the spare pool end as the example says. -/
theorem test_map_out_moves_the_tops : regionTop (withCsrs up [(chanAddr 7 0, 2)]) = 0x05C623FFFFFF + 1 ∧
    spareTop (withCsrs up [(chanAddr 7 0, 2)]) = 0x05CC1FFFFFFF + 1 := by decide +kernel

/-! ### Single steps -/

/-- The state after one step with `c` alone in the queue. -/
def after (c : Instr) (s : State) : Option State := match step { s with pending := [c] } with
  | .next t => some t
  | _ => none
/-- What `f` sees after the step. -/
def seen {α : Type} (c : Instr) (s : State) (f : State → α) : Option α := (after c s).map f

/-- Tile 3's core with s1 = 5, s2 = 65 and s3 = 0. -/
def core3 : State := runAt 5 65
theorem test_divu_by_zero_is_all_ones : seen (.alu 3 5 1 3 6) core3 (fun t => getR (coreOf t 3) 5) = some 0xFFFFFFFFFFFFFFFF := by decide +kernel
theorem test_rem_by_zero_is_the_dividend : seen (.alu 3 5 1 3 7) core3 (fun t => getR (coreOf t 3) 5) = some 5 := by decide +kernel
theorem test_shift_is_modulo_64 : seen (.alu 3 5 1 2 0x13) core3 (fun t => getR (coreOf t 3) 5) = some 10 := by decide +kernel
theorem test_clz_of_zero_is_64 : seen (.alu 3 5 3 0 0x21) core3 (fun t => getR (coreOf t 3) 5) = some 64 := by decide +kernel
theorem test_s0_discards_a_write : seen (.addi 3 0 1 7) core3 (fun t => (getR (coreOf t 3) 0, (coreOf t 3).pc)) = some (0, 0x104) := by decide +kernel
theorem test_addi_sign_extends : seen (.addi 3 5 1 0xFFFF) core3 (fun t => getR (coreOf t 3) 5) = some 4 := by decide +kernel
theorem test_f32_add_rounds_once : seen (.f32 3 5 1 2 0) (runAt 0x3F800000 0x33800000) (fun t => getR (coreOf t 3) 5) = some 0x3F800000 := by decide +kernel
theorem test_branch_goes_back : seen (.br 3 0 false true (-64)) core3 (fun t => (coreOf t 3).pc) = some 0 := by decide +kernel
theorem test_call_links : seen (.call 3 0 false true 4) core3 (fun t => (getR (coreOf t 3) 31, (coreOf t 3).pc)) = some (0x104, 0x110) := by decide +kernel
theorem test_shi_reserved_fails_the_task : seen (.shi 3 5 1 0xC0) core3 (fun t => ((coreOf t 3).task, csrF t (tileCsr 3 0x38) 0 8)) = some (none, 1) := by
  decide +kernel
theorem test_store_is_little_endian : seen (.coreAccessComplete 3 1 .clean) (withAccs (withCore id) [acc0 1 true])
    (fun t => memBytes t 0x100001800000 2) = some [0x88, 0x77] := by decide +kernel
theorem test_misaligned_load_fails_with_cause_2 : seen (.ld 3 5 1 3 1) (runAt spad 0) (fun t => csrF t (tileCsr 3 0x38) 0 8) = some 2 := by decide +kernel

/-- The tally counter of chapter 10's example: DEPTH 8, MARK 100, VALUE 107, with amount 2 in s1. -/
def tally10 : State := withCsrs (runAt 2 0) [(tallyAddr 3 9, 107 + 100 * 2 ^ 32), (tallyCfgAddr 3 9, 8 * 2 ^ 32)]
theorem test_tally_add_past_depth_adds_nothing : seen (.tallyAdd 3 1 0 9) tally10 (fun t => (tallyVal t 3 9, csrF t (synErrAddr 3) 0 8)) = some (107, 3) := by
  decide +kernel
theorem test_tally_add_within_depth : seen (.tallyAdd 3 1 0 9) (withCsrs tally10 [(tallyAddr 3 9, 107 + 104 * 2 ^ 32)]) (fun t => tallyVal t 3 9) = some 109 := by
  decide +kernel
theorem test_signal_adds : seen (.signal 3 1 0 9) (runAt 5 0) (fun t => semVal t 3 9) = some 5 := by decide +kernel
theorem test_wait_waits_for_its_amount : seen (.wait 3 1 0 9) (runAt 5 0) (fun t => (coreOf t 3).blocked) = some (some (.sem 9 5)) := by decide +kernel
theorem test_take_does_not_wait : seen (.take 3 1 0 9) (runAt 5 0) (fun t => ((coreOf t 3).blocked, csrF t (synErrAddr 3) 0 8)) = some (none, 1) := by
  decide +kernel
theorem test_end_completes_the_task : seen (.end_ 3 0) core3 (fun t => (coreOf t 3).task.isSome) = some false := by decide +kernel

theorem test_mbx_ack_frees_the_mailbox : seen .mbxAck (withCsrs up [(hstCsr 0x1010, 2 + 9 * 2 ^ 32)]) (fun t => csrF t (hstCsr 0x1010) 0 2) = some 0 := by
  decide +kernel
theorem test_abort_takes_its_key_only : seen (.hstAbort 5) up (fun t => t.aborting) = some false ∧ seen (.hstAbort 0x41425254) up (fun t => t.aborting) = some true := by
  decide +kernel
theorem test_reserved_value_keeps_the_field : seen (.registerWrite .steward (BitVec.ofNat 45 (govCsr 0x10)) 8 1601) up (fun t => csrF t (govCsr 0x10) 0 11) =
    some (csrF up (govCsr 0x10) 0 11) := by decide +kernel
theorem test_outside_csr_space_is_no_register : step { up with pending := [.registerWrite .host 0 8 0] } =
    .fault (.illFormed "REGISTER_WRITE outside CSR space") := rfl
theorem test_brownout_is_held : seen .brownoutEnter up (fun t => t.gov.brown.isSome) = some true := by decide +kernel
theorem test_aux_loss_clears_the_main_domain : seen .auxLoss core3 (fun t => (t.tiles, t.boot)) = some ([], 8) := by decide +kernel
theorem test_idle_step_lets_time_pass : (match step up with
  | .next t => some t.now
  | _ => none) = some (up.now + 1) := by decide +kernel
theorem test_no_word_spells_a_command : decodeTableWord 32 0 = none := rfl

/-! ### Terms that are no commands, one for each check of `Instr.wf` -/

/-- A header that arrives on port `p`. -/
def hdrOn (p : BitVec 5) : Hdr :=
  { port := p, hop := 0, nonmin := false, via := 0, src := 1, dst := 0, lc := false, poison := false, len := 0, addr := 0, tag := 0, wellFormed := true }

theorem test_wf_payload_span : Instr.wf (.mbxPayloadWrite 0 []) = false ∧ Instr.wf (.mbxPayloadWrite 16383 [1, 2]) = false ∧
    Instr.wf (.mbxPayloadWrite 16382 [1, 2]) = true := by decide
theorem test_wf_aperture : Instr.wf (.bar2Read 0 0) = false ∧ Instr.wf (.bar2Read 0 4097) = false ∧ Instr.wf (.bar2Read 0xFFFFFFFFF 2) = false ∧
    Instr.wf (.bar2Write 0 [] false) = false ∧ Instr.wf (.bar2Read 0xFFFFFFFFF 1) = true := by decide
theorem test_wf_register : Instr.wf (.registerWrite .host 0 8 0) = false ∧ Instr.wf (.registerWrite .host 0x180000000000 0 0) = false ∧
    Instr.wf (.registerWrite .host 0x180000000000 8 0) = true := by decide
theorem test_wf_counter : Instr.wf (.counterClear .host 0) = false := by decide
theorem test_wf_channels : Instr.wf (.mr4Poll [(384, 3)] 0) = false ∧ Instr.wf (.patrolRead 384 0 .clean) = false ∧ Instr.wf (.patrolRead 0 32 .clean) = false ∧
    Instr.wf (.pageRetirement 384) = false ∧ Instr.wf (.memTgStart .host 384 0) = false ∧ Instr.wf (.memTgDone 384 0 0 0 []) = false ∧
    Instr.wf (.bootStageDone true [384]) = false ∧ Instr.wf (.patrolRead 383 64 .clean) = true := by decide
theorem test_wf_ports : Instr.wf (.portRetrain 24) = false ∧ Instr.wf (.portRetrainDone 24 true true) = false ∧
    Instr.wf (.flit 24 ⟨0, 0, false, [], 0, true, true⟩) = false ∧ Instr.wf (.linkTrainingStep 24 true true 1 0 false) = false ∧
    Instr.wf (.linkTrainingStep 0 true true 1 24 false) = false ∧ Instr.wf (.portRetrain 23) = true := by decide
theorem test_wf_packets : [Instr.pktRead (hdrOn 24), .pktReadResp (hdrOn 24) [], .pktWrite (hdrOn 24) [], .pktAtomic (hdrOn 24) 0 false false false 0 0,
    .pktAtomicResp (hdrOn 24) 0, .pktAck (hdrOn 24), .pktError (hdrOn 24) 1, .pktSignal (hdrOn 24) 0 0 0, .pktTally (hdrOn 24) 0 0 0,
    .pktBarArrive (hdrOn 24) 0 0 0, .pktPartial (hdrOn 24) 0 [], .pktColl (hdrOn 24) 0 0 0 0 0 0 0 [], .pktMirror (hdrOn 24) [], .pktProbe (hdrOn 24),
    .pktProbeAck (hdrOn 24), .pktMgmt (hdrOn 24) [], .pktFence (hdrOn 24) 0].all (fun i => !i.wf) = true := by decide
theorem test_wf_packet_length : [Instr.pktReadResp (hdrOn 0) (List.replicate 2049 0), .pktWrite (hdrOn 0) (List.replicate 2049 0),
    .pktColl (hdrOn 0) 0 0 0 0 0 0 0 (List.replicate 2049 0), .pktMirror (hdrOn 0) (List.replicate 2049 0), .pktMgmt (hdrOn 0) (List.replicate 2049 0)].all
      (fun i => !i.wf) = true := by decide +kernel
theorem test_wf_sensors : Instr.wf (.thermalSample 96 0 0) = false ∧ Instr.wf (.thermtrip 96) = false ∧ Instr.wf (.thermtrip 95) = true := by decide
theorem test_wf_oob_payload : Instr.wf (.oobMailbox 1 0 (List.replicate 1025 0)) = false := by decide +kernel

end Sys2Proof.Tests
end

section
/-! SUPPORT. Rules of the tile core: what a write of a scalar register gives, what retirement leaves alone, and that a three-register instruction
whose function code gives a result writes it to rd and does nothing else. -/

namespace Sys2Proof.Machine
open Sys2Proof

/-! ### Scalar registers -/

theorem getR_setR (c : Core) (i : BitVec 5) (v : Word) (r : BitVec 5) : getR (setR c i v) r = if r = i ∧ r ≠ 0 then v else getR c r := by
  by_cases hr : r = 0
  · rw [getR, getR, if_pos hr, if_pos hr, if_neg (fun h => h.2 hr)]
  rw [getR, getR, if_neg hr, if_neg hr]
  by_cases hi : i = 0
  · rw [if_neg (fun h => hr (h.1.trans hi))]
    simp only [setR, if_pos hi]
  · simp only [setR, if_neg hi, Vector.getElem_set, BitVec.toNat_inj, ne_eq, hr, not_false_eq_true, and_true, eq_comm (a := i) (b := r)]

theorem setR_eq (c : Core) (i : BitVec 5) (v : Word) : setR c i v = { c with regs := (setR c i v).regs } := by
  simp only [setR]
  split <;> rfl

@[simp] theorem setR_pc (c : Core) (i : BitVec 5) (v : Word) : (setR c i v).pc = c.pc := by rw [setR_eq]
@[simp] theorem setR_preds (c : Core) (i : BitVec 5) (v : Word) : (setR c i v).preds = c.preds := by rw [setR_eq]

/-! ### Retirement -/

theorem coreOf_retire_setCore (s : State) (h : Inv s) (k : Nat) (c : Core) : coreOf (retire (setCore s k c) k) k = { c with pc := c.pc + 4 } := by
  have hc : coreOf (setCore s k c) k = c := by rw [coreOf_setCore s h, if_pos rfl]
  rw [retire, csrAdd, coreOf_csrPut, coreOf_setCore _ (setCore_inv s k c h), if_pos rfl, hc]

/-- An instruction that gives its core the contents `c` and then retires acts on that core alone. -/
theorem retires_retire_setCore (s : State) (h : Inv s) (k : Nat) (c : Core) : Retires s (retire (setCore s k c) k) k (c.pc + 4) [] := by
  have h1 : Inv (setCore s k c) := setCore_inv s k c h
  have h2 : Inv (setCore (setCore s k c) k { coreOf (setCore s k c) k with pc := (coreOf (setCore s k c) k).pc + 4 }) := setCore_inv _ k _ h1
  refine ⟨?state, fun j hj => ?others, ?engines, ?goes, fun a ha => ?csrs, ?retired, fun a => ?mem⟩
  case state => simp only [retire, csrAdd, csrPut, setCore, setTile]
  case mem => rw [retire, csrAdd, memByte_csrPut, memByte_setCore, memByte_setCore]
  case others => rw [retire, csrAdd, tileOf_csrPut, tileOf_setCore_other _ h1 _ _ _ hj, tileOf_setCore_other _ h _ _ _ hj]
  case engines =>
    rw [coreOf_retire_setCore s h, retire, csrAdd, tileOf_csrPut, tileOf_setCore_same _ h1, tileOf_setCore_same _ h, coreOf, tileOf_setCore_same _ h]
  case goes => rw [coreOf_retire_setCore s h]
  case csrs =>
    have ha' : a ≠ tileCsr k 0x80 := by simpa using ha
    rw [retire, csrAdd, csrGet_csrPut_other _ h2 _ _ _ ha', csrGet_setCore, csrGet_setCore]
  case retired => rw [retire, csrAdd, csrGet_csrPut_same _ h2, csrGet_setCore, csrGet_setCore]; rfl

/-! ### Writing rd -/

theorem coreOf_writeRd (s : State) (h : Inv s) (k : Nat) (rd : BitVec 5) (v : Word) :
    coreOf (writeRd s k rd v) k = { setR (coreOf s k) rd v with pc := nextPc s k } := by
  rw [writeRd, coreOf_retire_setCore s h, setR_pc, nextPc]

theorem computed_writeRd (s : State) (h : Inv s) (k : Nat) (rd : BitVec 5) (v : Word) : Computed s (writeRd s k rd v) k (nextPc s k) [] := by
  have hr : Retires s (writeRd s k rd v) k ((setR (coreOf s k) rd v).pc + 4) [] := retires_retire_setCore s h k _
  rw [setR_pc] at hr
  refine ⟨hr, ?_⟩
  rw [coreOf_writeRd s h, setR_eq]

/-- An instruction whose outcome is `writeRd` completes with its result in rd and nothing else changed. -/
theorem writesRd_of_exec {i : Instr} {s : State} {k : Nat} {rd : BitVec 5} {v : Word} (h : Inv s) (he : exec i s = .next (writeRd s k rd v)) :
    WritesRd i s k rd v := by
  refine ⟨_, he, computed_writeRd s h k rd v, fun r => ?_, ?_⟩
  · rw [coreOf_writeRd s h]
    exact getR_setR _ rd v r
  · rw [coreOf_writeRd s h]
    exact setR_preds _ rd v

/-! ### Instructions of a core that executes -/

/-- A legal instruction on a core that executes, with no outstanding load on its registers, has its effect. -/
theorem coreStep_go (s : State) (k : Nat) (rs : List (BitVec 5)) (eff : State → State) (hgo : coreGo s k = true)
    (hbusy : regBusy (coreOf s k) rs = false) : coreStep s k true rs eff = .next (eff s) := by
  obtain ⟨hready, hhit⟩ : coreReady s k = true ∧ (fetchHit s k).isNone = true := by simpa [coreGo] using hgo
  simp [coreStep, hready, hhit, hbusy]

theorem coreFn_go (s : State) (k : Nat) (rd : BitVec 5) (rs : List (BitVec 5)) (f : Core → Option Word) (v : Word) (hgo : coreGo s k = true)
    (hbusy : regBusy (coreOf s k) (rd :: rs) = false) (hf : f (coreOf s k) = some v) : coreFn s k rd rs f = .next (writeRd s k rd v) := by
  rw [coreFn, hf, Option.isSome_some, coreStep_go s k _ _ hgo hbusy, hf]

theorem exec_alu (t : BitVec 8) (rd ra rb : BitVec 5) (fn : BitVec 11) (s : State) : exec (.alu t rd ra rb fn) s = execAlu t rd ra rb fn s := rfl

end Sys2Proof.Machine
end

section
/-! SUPPORT. The ALU (Table 9-3, R268): what each function gives as a number. Bitwise results need no lemma; the others are numbers modulo 2^64, of the
operands taken as signed or as unsigned. -/

namespace Sys2Proof.Machine
open Sys2Proof

/-! ### Words as numbers -/

theorem word_eq_ofNat {v : Word} {n : Nat} (h : v.toNat = n) : v = BitVec.ofNat 64 n := by rw [← h, BitVec.ofNat_toNat, BitVec.setWidth_eq]
theorem word_eq_ofInt {v : Word} {n : Int} (h : v.toInt = n) : v = BitVec.ofInt 64 n := by rw [← h, BitVec.ofInt_toInt]

/-! ### The rows of the table -/

section
variable (a b : Word)

theorem aluFn_sub : aluFn 0x001 a b = some (BitVec.ofInt 64 (a.toInt - b.toInt)) :=
  congrArg some (BitVec.eq_of_toInt_eq (by rw [BitVec.toInt_sub, BitVec.toInt_ofInt]))

/-- The most negative value divided by −1 gives itself: the quotient 2^63 wraps (R268). -/
theorem aluFn_div : aluFn 0x005 a b = some (if b = 0 then BitVec.allOnes 64 else BitVec.ofInt 64 (a.toInt.tdiv b.toInt)) := by
  have h : a.sdiv b = BitVec.ofInt 64 (a.toInt.tdiv b.toInt) := BitVec.eq_of_toInt_eq (by rw [BitVec.toInt_sdiv, BitVec.toInt_ofInt])
  rw [← h]; rfl

theorem aluFn_divu : aluFn 0x006 a b = some (if b = 0 then BitVec.allOnes 64 else BitVec.ofNat 64 (a.toNat / b.toNat)) := by
  rw [← word_eq_ofNat (BitVec.toNat_udiv (x := a) (y := b))]; rfl

theorem aluFn_rem : aluFn 0x007 a b = some (if b = 0 then a else BitVec.ofInt 64 (a.toInt.tmod b.toInt)) := by
  rw [← word_eq_ofInt (BitVec.toInt_srem a b)]; rfl

theorem aluFn_remu : aluFn 0x008 a b = some (if b = 0 then a else BitVec.ofNat 64 (a.toNat % b.toNat)) := by
  rw [← word_eq_ofNat (BitVec.toNat_umod (x := a) (y := b))]; rfl

theorem aluFn_shl : aluFn 0x013 a b = some (BitVec.ofNat 64 (a.toNat * 2 ^ (b.toNat % 64))) := by
  rw [← Nat.shiftLeft_eq]; rfl

theorem aluFn_shr : aluFn 0x014 a b = some (BitVec.ofNat 64 (a.toNat / 2 ^ (b.toNat % 64))) := by
  rw [← word_eq_ofNat ((BitVec.toNat_ushiftRight a _).trans (Nat.shiftRight_eq_div_pow _ _))]; rfl

theorem aluFn_sar : aluFn 0x015 a b = some (BitVec.ofInt 64 (a.toInt / 2 ^ (b.toNat % 64))) := by
  have h : (a.sshiftRight (b.toNat % 64)).toInt = a.toInt / 2 ^ (b.toNat % 64) := by
    rw [BitVec.toInt_sshiftRight, Int.shiftRight_eq_div_pow]; norm_cast
  rw [← word_eq_ofInt h]; rfl

theorem aluFn_min : aluFn 0x018 a b = some (BitVec.ofInt 64 (min a.toInt b.toInt)) := by
  have h : (if a.slt b then a else b).toInt = min a.toInt b.toInt := by
    simp only [BitVec.slt_iff_toInt_lt]
    split <;> omega
  rw [← word_eq_ofInt h]; rfl

theorem aluFn_max : aluFn 0x019 a b = some (BitVec.ofInt 64 (max a.toInt b.toInt)) := by
  have h : (if a.slt b then b else a).toInt = max a.toInt b.toInt := by
    simp only [BitVec.slt_iff_toInt_lt]
    split <;> omega
  rw [← word_eq_ofInt h]; rfl

theorem aluFn_minu : aluFn 0x01A a b = some (BitVec.ofNat 64 (min a.toNat b.toNat)) := by
  have h : (if a.ult b then a else b).toNat = min a.toNat b.toNat := by
    simp only [BitVec.ult_iff_toNat_lt]
    split <;> omega
  rw [← word_eq_ofNat h]; rfl

theorem aluFn_maxu : aluFn 0x01B a b = some (BitVec.ofNat 64 (max a.toNat b.toNat)) := by
  have h : (if a.ult b then b else a).toNat = max a.toNat b.toNat := by
    simp only [BitVec.ult_iff_toNat_lt]
    split <;> omega
  rw [← word_eq_ofNat h]; rfl

theorem aluFn_popc : aluFn 0x020 a b = some (BitVec.ofNat 64 ((List.range 64).filter (fun i => a.getLsbD i)).length) := by
  rw [← List.countP_eq_length_filter]; rfl

/-- CLZ gives the number of zeros above the highest one, which is bit `log2 a`; 64 for 0. -/
theorem aluFn_clz : ∃ n, n ≤ 64 ∧ (∀ i, 64 - n ≤ i → a.getLsbD i = false) ∧ (n < 64 → a.getLsbD (63 - n) = true) ∧
    aluFn 0x021 a b = some (BitVec.ofNat 64 n) := by
  by_cases ha : a = 0
  · exact ⟨64, Nat.le_refl _, fun i _ => ha ▸ BitVec.getLsbD_zero, fun h => absurd h (Nat.lt_irrefl _), by simp only [aluFn, if_pos ha]⟩
  · have ha' : a.toNat ≠ 0 := fun h => ha (BitVec.eq_of_toNat_eq h)
    have hlog : Nat.log2 a.toNat < 64 := (Nat.log2_lt ha').2 a.isLt
    refine ⟨63 - Nat.log2 a.toNat, by omega, fun i hi => ?above, fun _ => ?top, by simp only [aluFn, if_neg ha]⟩
    case above => exact Nat.testBit_lt_two_pow (Nat.lt_of_lt_of_le Nat.lt_log2_self (Nat.pow_le_pow_right (by decide) (by omega)))
    case top =>
      rw [show 63 - (63 - Nat.log2 a.toNat) = Nat.log2 a.toNat by omega]
      exact Nat.testBit_log2 ha'

/-- CTZ gives the number of the lowest one; 64 for 0. -/
theorem aluFn_ctz : ∃ n, n ≤ 64 ∧ (∀ i, i < n → a.getLsbD i = false) ∧ (n < 64 → a.getLsbD n = true) ∧
    aluFn 0x022 a b = some (BitVec.ofNat 64 n) := by
  refine ⟨((List.range 64).find? (fun i => a.getLsbD i)).getD 64, ?_⟩
  cases hf : (List.range 64).find? (fun i => a.getLsbD i) with
  | none =>
    have hz : ∀ i, i < 64 → a.getLsbD i = false := by simpa using hf
    exact ⟨Nat.le_refl _, hz, fun h => absurd h (Nat.lt_irrefl _), by simp only [aluFn, hf]⟩
  | some n =>
    obtain ⟨hone, hn, hz⟩ := List.find?_range_eq_some.1 hf
    exact ⟨Nat.le_of_lt (List.mem_range.1 hn), fun i hi => by simpa using hz i hi, fun _ => hone, by simp only [aluFn, hf]⟩
end

/-! ### The instruction -/

/-- An ALU function that gives a result puts it into rd, and does nothing else. -/
theorem writesRd_alu {s : State} {t : BitVec 8} {rd ra rb : BitVec 5} {fn : BitVec 11} {v : Word} (h : Inv s) (hgo : coreGo s t.toNat = true)
    (hbusy : regBusy (coreOf s t.toNat) [rd, ra, rb] = false)
    (hv : aluFn fn.toNat (getR (coreOf s t.toNat) ra) (getR (coreOf s t.toNat) rb) = some v) : WritesRd (.alu t rd ra rb fn) s t.toNat rd v :=
  writesRd_of_exec h ((exec_alu t rd ra rb fn s).trans (coreFn_go s t.toNat rd [ra, rb] _ v hgo hbusy hv))

/-- Settles O2: an ALU instruction writes what its function gives, and each function gives the number of its row. -/
theorem aluFollowsItsTable : Obligations.AluFollowsItsTable := by
  unfold Obligations.AluFollowsItsTable
  intro s t rd ra rb k a b h hgo hbusy
  refine ⟨fun e he => writesRd_alu h hgo hbusy ?_, ?_, ?_⟩
  · revert e
    simp only [List.forall_mem_cons]
    exact ⟨rfl, aluFn_sub a b, rfl, rfl, rfl, aluFn_div a b, aluFn_divu a b, aluFn_rem a b, aluFn_remu a b, rfl, rfl, rfl, aluFn_shl a b,
      aluFn_shr a b, aluFn_sar a b, aluFn_min a b, aluFn_max a b, aluFn_minu a b, aluFn_maxu a b, aluFn_popc a b, List.forall_mem_nil _⟩
  · obtain ⟨n, hn, above, top, hv⟩ := aluFn_clz a b
    exact ⟨n, hn, above, top, writesRd_alu h hgo hbusy hv⟩
  · obtain ⟨n, hn, below, low, hv⟩ := aluFn_ctz a b
    exact ⟨n, hn, below, low, writesRd_alu h hgo hbusy hv⟩

end Sys2Proof.Machine
end

section
/-! SUPPORT. A release writes the merging buffer out (R308, R348): it acts on memory, the pantries, the links and the requests, and on no tile, no
synchronisation object and no register of a tile or a cluster. -/

namespace Sys2Proof.Machine
open Sys2Proof

/-- Buffered writes have gone to memory and, where mirrored, to the twin: all else is as before, and of the registers only those above the blocks of the
tiles and clusters may have changed (Table 1-10). -/
structure Drained (s u : State) : Prop where
  state : u = { s with mem := u.mem, undef := u.undef, poison := u.poison, ueSectors := u.ueSectors, csr := u.csr, pans := u.pans, links := u.links,
                       reqs := u.reqs, nextTag := u.nextTag, outbox := u.outbox }
  csrs : ∀ a, a < memCsr 0 0 → csrGet u a = csrGet s a
  inv : Inv u

namespace Drained

theorem refl {s : State} (h : Inv s) : Drained s s := ⟨rfl, fun _ _ => rfl, h⟩

theorem trans {s t u : State} (h1 : Drained s t) (h2 : Drained t u) : Drained s u :=
  ⟨by rw [h2.state, h1.state], fun a ha => (h2.csrs a ha).trans (h1.csrs a ha), h2.inv⟩

theorem foldl {α : Type} {f : State → α → State} (hf : ∀ s x, Inv s → Drained s (f s x)) (l : List α) :
    ∀ s, Inv s → Drained s (l.foldl f s) := by
  induction l with
  | nil => exact fun s h => refl h
  | cons x l ih => exact fun s h => (hf s x h).trans (ih _ (hf s x h).inv)

theorem tiles {s u : State} (h : Drained s u) : u.tiles = s.tiles := by rw [h.state]
theorem semQ {s u : State} (h : Drained s u) : u.semQ = s.semQ := by rw [h.state]

end Drained

/-! ### The steps of a flush -/

theorem drained_csrAdd {s : State} (h : Inv s) {a : Nat} (ha : memCsr 0 0 ≤ a) (n : Nat) : Drained s (csrAdd s a n) :=
  ⟨rfl, fun b hb => csrGet_csrPut_other s h a _ b (by omega), csrAdd_inv s a n h⟩

theorem drained_emitOut {s : State} (h : Inv s) (o : Out) : Drained s (emitOut s o) := ⟨rfl, fun _ _ => rfl, { h with }⟩

theorem drained_setPsn {s : State} (h : Inv s) (a : Nat) (b : Bool) : Drained s (setPsn s a b) := ⟨rfl, fun _ _ => rfl, setPsn_inv s a b h⟩

theorem drained_ueClear {s : State} (h : Inv s) (a n : Nat) : Drained s (ueClear s a n) := by
  simp only [ueClear]
  split
  · have hu : ∀ l, Drained s { s with ueSectors := l } := fun l => ⟨rfl, fun _ _ => rfl, { h with }⟩
    exact (hu _).trans (Drained.foldl (fun _ k h => drained_setPsn h k true) _ _ (hu _).inv)
  · exact Drained.refl h

theorem drained_writeHome {s : State} (h : Inv s) (a : Nat) (bs : List Byte) (psn : Bool) : Drained s (writeHome s a bs psn) := by
  have hc := drained_ueClear h a bs.length
  have hs : Drained (ueClear s a bs.length) (storeBytes (ueClear s a bs.length) a bs) := ⟨rfl, fun _ _ => rfl, storeBytes_inv _ a bs hc.inv⟩
  refine (hc.trans hs).trans (Drained.foldl (fun _ k h => ?_) _ _ hs.inv)
  split
  · exact drained_setPsn h k true
  split
  · exact drained_setPsn h k false
  · exact Drained.refl h

theorem drained_countBytes {s : State} (h : Inv s) (share i o n : Nat) : Drained s (countBytes s share i o n) :=
  Drained.foldl (fun _ _ h => drained_csrAdd h (by simp only [chanAddr, memCsr]; omega) 64) _ _ h

theorem drained_countSlots {s : State} (h : Inv s) (p kind n : Nat) : Drained s (countSlots s p kind n) := by
  have hl : ∀ x, Drained s (setLink s p x) := fun x => ⟨rfl, fun _ _ => rfl, { h with links := tabWf_set _ s.links p x h.links }⟩
  exact (hl _).trans (drained_csrAdd (hl _).inv (by simp only [fabCsr, memCsr]; omega) _)

theorem drained_sendTwin {s : State} (h : Inv s) (kind addr len tag : Nat) (data : List Byte) (psn lc : Bool) :
    Drained s (sendTwin s kind addr len tag data psn lc) :=
  (drained_countSlots h 23 kind data.length).trans (drained_emitOut (drained_countSlots h 23 kind data.length).inv _)

theorem drained_mirrorSectors {s : State} (h : Inv s) (owners : List Nat) (i o n : Nat) (key : Option Nat) (lc : Bool) :
    Drained s (mirrorSectors s owners i o n key lc) := by
  simp only [mirrorSectors]
  split
  · refine Drained.foldl (fun s k h => ?_) _ _ h
    have hc := drained_csrAdd h (a := twnCsr 0x40) (by simp only [twnCsr, memCsr]; omega) 64
    have hr : ∀ reqs tag, Drained (csrAdd s (twnCsr 0x40) 64) { csrAdd s (twnCsr 0x40) 64 with reqs := reqs, nextTag := tag } :=
      fun _ _ => ⟨rfl, fun _ _ => rfl, { hc.inv with }⟩
    exact (hc.trans (hr _ _)).trans (drained_sendTwin (hr _ _).inv _ _ _ _ _ _ _)
  · exact Drained.refl h

theorem drained_entWriteSector {s : State} (h : Inv s) (e : MergeEnt) (k : Nat) : Drained s (entWriteSector s e k) := by
  simp only [entWriteSector]
  split
  · exact drained_writeHome h _ _ _
  · exact Drained.foldl (fun _ p h => drained_writeHome h _ _ _) _ _ h

/-- The merging buffer of a pantry is replaced. -/
theorem drained_setMerge {s : State} (h : Inv s) (c : Nat) (l : List MergeEnt) : Drained s (setPan s c { panOf s c with merge := l }) := by
  have hp (j : Nat) : panOf (setPan s c { panOf s c with merge := l }) j = if j = c then { panOf s c with merge := l } else panOf s j :=
    tabGet_set _ s.pans h.pans c _ j
  refine ⟨rfl, fun _ _ => rfl, { h with pans := tabWf_set _ s.pans c _ h.pans, sets := fun j => ?_, evb := fun j => ?_ }⟩
  all_goals rw [hp]; split
  · exact h.sets c
  · exact h.sets j
  · exact h.evb c
  · exact h.evb j

theorem drained_flushEntry {s : State} (h : Inv s) (c : Nat) (e : MergeEnt) : Drained s (flushEntry s c e) := by
  have hm := drained_setMerge h c ((panOf s c).merge.filter (fun x => x.blk != e.blk))
  have hw := hm.trans (Drained.foldl (fun _ k h => drained_entWriteSector h e k) [0, 1, 2, 3] _ hm.inv)
  simp only [flushEntry]
  split
  · exact hw
  · refine hw.trans (Drained.foldl (fun _ k h => ?_) _ _ hw.inv)
    split
    · exact Drained.refl h
    · exact (drained_countBytes h _ _ _ _).trans (drained_mirrorSectors (drained_countBytes h _ _ _ _).inv _ _ _ _ _ _)

theorem drained_releaseFlush {s : State} (h : Inv s) (agent : Nat) : Drained s (releaseFlush s agent) :=
  Drained.foldl (fun _ e h => drained_flushEntry h _ e) _ _ h

end Sys2Proof.Machine
end

section
/-! SUPPORT. Semaphores (R289, R290): what reading, writing and serving one gives, and what it leaves alone. -/

namespace Sys2Proof.Machine
open Sys2Proof

/-! ### Fields and queues -/

theorem getF_lt {n : Nat} (x : BitVec n) (lo w : Nat) : getF x lo w < 2 ^ w := Nat.mod_lt _ (Nat.two_pow_pos w)

theorem getF_setF_low {n w : Nat} (hw : w ≤ n) (x : BitVec n) (v : Nat) : getF (setF x 0 w v) 0 w = v % 2 ^ w := by
  have hx : 2 ^ w * (x.toNat / 2 ^ w) + x.toNat % 2 ^ w = x.toNat := Nat.div_add_mod _ _
  simp only [getF, setF, Nat.shiftRight_zero, Nat.pow_zero, Nat.mul_one, BitVec.toNat_ofNat]
  rw [Nat.mod_mod_of_dvd _ (Nat.pow_dvd_pow 2 hw), show x.toNat - x.toNat % 2 ^ w = 2 ^ w * (x.toNat / 2 ^ w) by omega,
    Nat.mul_add_mod, Nat.mod_mod]

theorem semVal_lt (s : State) (t n : Nat) : semVal s t n < 2 ^ 32 := getF_lt _ _ _

theorem semVal_setVal {s : State} (h : Inv s) (t n : Nat) {v : Nat} (hv : v < 2 ^ 32) : semVal (csrSetF s (semAddr t n) 0 32 v) t n = v := by
  rw [semVal, csrF, csrSetF, csrGet_csrPut_same s h, getF_setF_low (by decide), Nat.mod_eq_of_lt hv]

theorem semQueue_setSemQueue {s : State} (h : Inv s) (t n : Nat) (q : List SemWait) : semQueue (setSemQueue s t n q) t n = q := by
  rw [semQueue, setSemQueue, tabGet_set _ s.semQ h.semQ, if_pos rfl]

theorem setSemQueue_inv {s : State} (h : Inv s) (t n : Nat) (q : List SemWait) : Inv (setSemQueue s t n q) :=
  { h with semQ := tabWf_set _ s.semQ _ q h.semQ }

theorem semVal_congr {s u : State} {t n : Nat} (h : csrGet u (semAddr t n) = csrGet s (semAddr t n)) : semVal u t n = semVal s t n := by
  rw [semVal, semVal, csrF, csrF, h]

theorem semQueue_congr {s u : State} (h : u.semQ = s.semQ) (t n : Nat) : semQueue u t n = semQueue s t n := by
  rw [semQueue, semQueue, h]

theorem Drained.semVal {s u : State} (h : Drained s u) {t : Nat} (ht : t < 256) {n : Nat} (hn : n < 256) : semVal u t n = semVal s t n :=
  semVal_congr (h.csrs _ (by simp only [semAddr, tileCsr, memCsr]; omega))

theorem Drained.coreOf {s u : State} (h : Drained s u) (t : Nat) : coreOf u t = coreOf s t := by
  rw [Machine.coreOf, Machine.coreOf, tileOf, tileOf, h.tiles]

/-! ### Watches -/

/-- A conditional is one of its two values, whatever its condition. -/
theorem ite_eq_left_or_right {α : Type} (p : Prop) [Decidable p] (x y : α) : (if p then x else y) = x ∨ (if p then x else y) = y := by
  by_cases hp : p
  · exact .inl (if_pos hp)
  · exact .inr (if_neg hp)

theorem watchCheck_cases (s : State) (t : Nat) : watchCheck s t = s ∨ watchCheck s t = watchHit s t := by
  simp only [watchCheck]
  split; · exact .inl rfl
  exact (ite_eq_left_or_right _ _ _).symm

/-! ### Effects on one tile -/

/-- Synchronisation acts on tile `k`: its core's registers and predicates, the other tiles, memory, and every register but those in `l` are as they
were. -/
structure ActsOnTile (k : Nat) (l : List Nat) (s u : State) : Prop where
  inv : Inv u
  regs : (coreOf u k).regs = (coreOf s k).regs
  preds : (coreOf u k).preds = (coreOf s k).preds
  others : SameTilesBut s u k
  csrs : SameCsrBut s u l
  mem : SameMem s u

namespace ActsOnTile
variable {k : Nat} {l l' : List Nat} {s t u : State}

theorem refl (h : Inv s) : ActsOnTile k l s s := ⟨h, rfl, rfl, fun _ _ => rfl, fun _ _ => rfl, fun _ => rfl⟩

theorem trans (h1 : ActsOnTile k l s t) (h2 : ActsOnTile k l t u) : ActsOnTile k l s u where
  inv := h2.inv
  regs := h2.regs.trans h1.regs
  preds := h2.preds.trans h1.preds
  others j hj := (h2.others j hj).trans (h1.others j hj)
  csrs a ha := (h2.csrs a ha).trans (h1.csrs a ha)
  mem a := (h2.mem a).trans (h1.mem a)

theorem mono (h : ActsOnTile k l s u) (hl : l ⊆ l') : ActsOnTile k l' s u := { h with csrs := fun a ha => h.csrs a (fun hm => ha (hl hm)) }

end ActsOnTile

section
variable {s : State} (h : Inv s) (k : Nat)
include h

theorem actsOnTile_csrPut (a : Nat) (v : Word) : ActsOnTile k [a] s (csrPut s a v) :=
  ⟨csrPut_inv s a v h, rfl, rfl, fun _ _ => rfl, fun b hb => csrGet_csrPut_other s h a v b (by simpa using hb), fun _ => rfl⟩

theorem actsOnTile_setSemQueue (n : Nat) (q : List SemWait) : ActsOnTile k [] s (setSemQueue s k n q) :=
  ⟨setSemQueue_inv h k n q, rfl, rfl, fun _ _ => rfl, fun _ _ => rfl, fun _ => rfl⟩

/-- The tile is replaced by one with the same registers and predicates. -/
theorem actsOnTile_setTile (x : Tile) (hs : tabWf (fun _ => (none : Option Slot)) x.fgr.slots = true)
    (hc : tabWf (fun _ => (none : Option Stream)) x.prt.ctxs = true) (hr : x.core.regs = (coreOf s k).regs) (hp : x.core.preds = (coreOf s k).preds) :
    ActsOnTile k [] s (setTile s k x) := by
  have hk : coreOf (setTile s k x) k = x.core := by rw [coreOf, tileOf_setTile s h, if_pos rfl]
  exact ⟨setTile_inv s k x h hs hc, by rw [hk, hr], by rw [hk, hp], fun j hj => by rw [tileOf_setTile s h, if_neg hj], fun _ _ => rfl, fun _ => rfl⟩

theorem actsOnTile_setCore (c : Core) (hr : c.regs = (coreOf s k).regs) (hp : c.preds = (coreOf s k).preds) : ActsOnTile k [] s (setCore s k c) :=
  actsOnTile_setTile h k _ (h.slots k) (h.ctxs k) hr hp

theorem actsOnTile_setMxe (x : Mxe) : ActsOnTile k [] s (setMxe s k x) :=
  actsOnTile_setTile h k { tileOf s k with mxe := x } (h.slots k) (h.ctxs k) rfl rfl

theorem actsOnTile_setVec (x : Vec) : ActsOnTile k [] s (setVec s k x) :=
  actsOnTile_setTile h k { tileOf s k with vec := x } (h.slots k) (h.ctxs k) rfl rfl

theorem actsOnTile_setCtx (c : Nat) (x : Option Stream) : ActsOnTile k [] s (setCtx s k c x) :=
  actsOnTile_setTile h k { tileOf s k with prt := { prtOf s k with ctxs := tabSet (fun _ => none) (prtOf s k).ctxs c x } } (h.slots k)
    (tabWf_set _ _ c x (h.ctxs k)) rfl rfl

theorem actsOnTile_suspended (l : List Suspended) : ActsOnTile k [] s { s with suspended := l } :=
  ⟨{ h with }, rfl, rfl, fun _ _ => rfl, fun _ _ => rfl, fun _ => rfl⟩

theorem actsOnTile_retire : ActsOnTile k [tileCsr k 0x80] s (retire s k) :=
  have hc := actsOnTile_setCore h k { coreOf s k with pc := (coreOf s k).pc + 4 } rfl rfl
  (hc.mono (List.nil_subset _)).trans (actsOnTile_csrPut hc.inv k _ _)

theorem actsOnTile_wake (who : Nat) : ActsOnTile k [tileCsr k 0x80] s (wake s k who) := by
  have hnil : ([] : List Nat) ⊆ [tileCsr k 0x80] := List.nil_subset _
  simp only [wake]
  split
  · have hc := actsOnTile_setCore h k { coreOf s k with blocked := none } rfl rfl
    exact (hc.mono hnil).trans (actsOnTile_retire hc.inv k)
  split
  · exact (actsOnTile_setMxe h k _).mono hnil
  split
  · exact (actsOnTile_setVec h k _).mono hnil
  split
  · exact (actsOnTile_setCtx h k _ _).mono hnil
  · exact ActsOnTile.refl h

theorem actsOnTile_watchHit : ActsOnTile k [watchAddr k, tileCsr k 0x30] s (watchHit s k) := by
  have hw := (actsOnTile_csrPut h k (watchAddr k) (setF (csrGet s (watchAddr k)) 9 1 0)).mono (l' := [watchAddr k, tileCsr k 0x30]) (by simp)
  have here (v : Word) := hw.trans ((actsOnTile_csrPut hw.inv k (tileCsr k 0x30) v).mono (by simp))
  simp only [watchHit]
  split
  · exact here _
  split
  · exact hw.trans ((actsOnTile_suspended hw.inv k _).mono (List.nil_subset _))
  · exact here _

theorem actsOnTile_watchCheck : ActsOnTile k [watchAddr k, tileCsr k 0x30] s (watchCheck s k) := by
  obtain he | he := watchCheck_cases s k
  · rw [he]; exact ActsOnTile.refl h
  · rw [he]; exact actsOnTile_watchHit h k
end

/-! ### The queues that waking and watches leave alone -/

theorem wake_semQ (s : State) (t who : Nat) : (wake s t who).semQ = s.semQ := by
  simp only [wake]
  split; · rfl
  split; · rfl
  split; · rfl
  split <;> rfl

theorem watchHit_semQ (s : State) (t : Nat) : (watchHit s t).semQ = s.semQ := by
  simp only [watchHit]
  split; · simp
  split <;> simp

theorem watchCheck_semQ (s : State) (t : Nat) : (watchCheck s t).semQ = s.semQ := by
  obtain he | he := watchCheck_cases s t
  · rw [he]
  · rw [he, watchHit_semQ]

/-! ### Serving the queue -/

/-- Of the waiters `q` a semaphore of VALUE `v` has served those at the head, taking each one's units, until none is left or VALUE is below the amount of
the first one left (R290). -/
def ServedInOrder (q : List SemWait) (v : Nat) (u : State) (k j : Nat) : Prop :=
  ∃ m, semQueue u k j = q.drop m ∧ semVal u k j + ((q.take m).map (fun w => w.amount)).sum = v ∧
    (∀ w, (semQueue u k j).head? = some w → semVal u k j < w.amount)

theorem ServedInOrder.congr {q : List SemWait} {v : Nat} {u u' : State} {k j : Nat} (h : ServedInOrder q v u k j)
    (hq : semQueue u' k j = semQueue u k j) (hv : semVal u' k j = semVal u k j) : ServedInOrder q v u' k j := by
  rw [ServedInOrder, hq, hv]; exact h

/-- A head whose amount is at hand is served before the rest. -/
theorem ServedInOrder.cons {w : SemWait} {q : List SemWait} {v : Nat} {u : State} {k j : Nat} (hw : w.amount ≤ v)
    (h : ServedInOrder q (v - w.amount) u k j) : ServedInOrder (w :: q) v u k j := by
  obtain ⟨m, hq, hv, hhead⟩ := h
  refine ⟨m + 1, hq, ?_, hhead⟩
  rw [List.take_succ_cons, List.map_cons, List.sum_cons]
  omega

/-- The state after the head `w` of the queue has been served. -/
def serveHead (s : State) (k j : Nat) (w : SemWait) (rest : List SemWait) : State :=
  wake (setSemQueue (csrSetF s (semAddr k j) 0 32 (semVal s k j - w.amount)) k j rest) k w.who

section
variable {s : State} (h : Inv s) (k j : Nat) (w : SemWait) (rest : List SemWait)
include h

theorem actsOnTile_serveHead : ActsOnTile k [semAddr k j, tileCsr k 0x80] s (serveHead s k j w rest) :=
  have hv := actsOnTile_csrPut h k (semAddr k j) (setF (csrGet s (semAddr k j)) 0 32 (semVal s k j - w.amount))
  have hq := actsOnTile_setSemQueue hv.inv k j rest
  ((hv.mono (by simp)).trans (hq.mono (List.nil_subset _))).trans ((actsOnTile_wake hq.inv k w.who).mono (by simp))

theorem semQueue_serveHead : semQueue (serveHead s k j w rest) k j = rest :=
  (semQueue_congr (wake_semQ _ _ _) k j).trans (semQueue_setSemQueue (csrSetF_inv s _ _ _ _ h) k j rest)

theorem semVal_serveHead : semVal (serveHead s k j w rest) k j = semVal s k j - w.amount := by
  have hv := csrSetF_inv s (semAddr k j) 0 32 (semVal s k j - w.amount) h
  have hw := (actsOnTile_wake (setSemQueue_inv hv k j rest) k w.who).csrs (semAddr k j) (by simp only [List.mem_singleton, semAddr, tileCsr]; omega)
  rw [serveHead, semVal_congr hw]
  exact semVal_setVal h k j (Nat.lt_of_le_of_lt (Nat.sub_le _ _) (semVal_lt s k j))
end

theorem semServe_serves (k j : Nat) (f : Nat) : ∀ s, Inv s → (semQueue s k j).length < f →
    ActsOnTile k [semAddr k j, tileCsr k 0x80] s (semServe f s k j) ∧ ServedInOrder (semQueue s k j) (semVal s k j) (semServe f s k j) k j := by
  induction f with
  | zero => exact fun s _ hf => absurd hf (Nat.not_lt_zero _)
  | succ f ih =>
    intro s h hf
    have stay (hd : ∀ w, (semQueue s k j).head? = some w → semVal s k j < w.amount) :
        ActsOnTile k [semAddr k j, tileCsr k 0x80] s s ∧ ServedInOrder (semQueue s k j) (semVal s k j) s k j :=
      ⟨ActsOnTile.refl h, 0, rfl, rfl, hd⟩
    cases hq : semQueue s k j with
    | nil =>
      rw [← hq, show semServe (f + 1) s k j = s by simp only [semServe, hq]]
      exact stay (by simp [hq])
    | cons w rest =>
      by_cases hw : w.amount ≤ semVal s k j
      · have hacts := actsOnTile_serveHead h k j w rest
        have hrest := ih (serveHead s k j w rest) hacts.inv (by rw [semQueue_serveHead h]; simpa [hq] using hf)
        rw [semQueue_serveHead h, semVal_serveHead h] at hrest
        rw [show semServe (f + 1) s k j = semServe f (serveHead s k j w rest) k j by simp only [semServe, hq, if_pos hw, serveHead]]
        exact ⟨hacts.trans hrest.1, hrest.2.cons hw⟩
      · rw [← hq, show semServe (f + 1) s k j = s by simp only [semServe, hq, if_neg hw]]
        exact stay (by simpa [hq] using hw)

/-! ### Signals -/

theorem signalOrErr_zero (s : State) (k j : Nat) : signalOrErr s k j 0 = s := rfl

theorem signalOrErr_overflow {s : State} {k j amt : Nat} (h0 : 0 < amt) (ho : 2 ^ 32 ≤ semVal s k j + amt) :
    signalOrErr s k j amt = synMisuse s k 0 j 2 := by
  rw [signalOrErr, semSignal, if_neg (by omega), if_pos ho]

/-- A signal that does not overflow adds its units and serves the queue. -/
theorem signalOrErr_serves {s : State} (h : Inv s) {k j amt : Nat} (h0 : 0 < amt) (hv : semVal s k j + amt < 2 ^ 32) :
    ActsOnTile k [semAddr k j, tileCsr k 0x80, watchAddr k, tileCsr k 0x30] s (signalOrErr s k j amt) ∧
      ServedInOrder (semQueue s k j) (semVal s k j + amt) (signalOrErr s k j amt) k j := by
  have hadd := actsOnTile_csrPut h k (semAddr k j) (setF (csrGet s (semAddr k j)) 0 32 (semVal s k j + amt))
  obtain ⟨hs, hord⟩ := semServe_serves k j ((semQueue s k j).length + 1) (csrSetF s (semAddr k j) 0 32 (semVal s k j + amt)) hadd.inv
    (Nat.lt_succ_self _)
  rw [semVal_setVal h k j hv] at hord
  have hw := actsOnTile_watchCheck hs.inv k
  have heq : signalOrErr s k j amt =
      watchCheck (semServe ((semQueue s k j).length + 1) (csrSetF s (semAddr k j) 0 32 (semVal s k j + amt)) k j) k := by
    rw [signalOrErr, semSignal, if_neg (by omega), if_neg (by omega)]
    rfl
  rw [heq]
  refine ⟨((hadd.mono (by simp)).trans (hs.mono (by simp))).trans (hw.mono (by simp)), hord.congr (semQueue_congr (watchCheck_semQ _ _) k j) ?_⟩
  exact semVal_congr (hw.csrs _ (by simp only [List.mem_cons, List.not_mem_nil, or_false, semAddr, watchAddr, tileCsr]; omega))

end Sys2Proof.Machine
end

section
/-! SUPPORT. Reports to the ledger and misuses of synchronisation objects (R313, R512, R513), and the retirement of an instruction. -/

namespace Sys2Proof.Machine
open Sys2Proof

/-! ### Messages -/

theorem sendMsg_tiles (s : State) (m : Msg) : (sendMsg s m).tiles = s.tiles := by
  simp only [sendMsg]
  split; · rfl
  split <;> rfl

theorem sendMsg_semQ (s : State) (m : Msg) : (sendMsg s m).semQ = s.semQ := by
  simp only [sendMsg]
  split; · rfl
  split <;> rfl

theorem csrGet_sendMsg {s : State} (h : Inv s) (m : Msg) {a : Nat} (ha : a ≠ ldgCsr 0x70) : csrGet (sendMsg s m) a = csrGet s a := by
  simp only [sendMsg]
  split
  · rfl
  split
  · exact csrGet_csrPut_other _ { h with } _ _ a ha
  · rfl

theorem sendMsg_inv {s : State} (h : Inv s) (m : Msg) : Inv (sendMsg s m) := by
  simp only [sendMsg]
  split
  next hroom => exact { h with queue := by rw [List.length_append]; exact hroom }
  split
  · exact csrAdd_inv _ _ _ { h with }
  · exact { h with }

theorem reported_raise {s : State} (hroom : LedgerRoom s) (source kind level : Nat) : Reported (raise s source kind level) source kind level := by
  have hlen : s.ledger.queue.length < 32 := hroom
  rw [raise, sendMsg, if_pos hlen]
  exact ⟨_, List.mem_append_right _ (List.mem_singleton_self _), rfl, rfl, rfl⟩

/-! ### Misuses -/

section
variable (s : State) (a valid v : Nat)

theorem errOnce_cases : errOnce s a valid v = s ∨ errOnce s a valid v = csrPut s a (BitVec.ofNat 64 (v + 2 ^ valid)) :=
  ite_eq_left_or_right _ _ _

theorem errOnce_tiles : (errOnce s a valid v).tiles = s.tiles := by
  obtain he | he := errOnce_cases s a valid v
  · rw [he]
  · rw [he, csrPut_tiles]

theorem errOnce_semQ : (errOnce s a valid v).semQ = s.semQ := by
  obtain he | he := errOnce_cases s a valid v
  · rw [he]
  · rw [he, csrPut_semQ]

theorem errOnce_ledger : (errOnce s a valid v).ledger = s.ledger := by
  obtain he | he := errOnce_cases s a valid v
  · rw [he]
  · rw [he, csrPut_ledger]

variable {s} (h : Inv s)
include h

theorem errOnce_inv : Inv (errOnce s a valid v) := by
  obtain he | he := errOnce_cases s a valid v
  · rwa [he]
  · rw [he]; exact csrPut_inv s _ _ h

/-- An error register takes the first cause and keeps it. -/
theorem csrGet_errOnce_same :
    csrGet (errOnce s a valid v) a = if csrF s a valid 1 = 1 then csrGet s a else BitVec.ofNat 64 (v + 2 ^ valid) := by
  rw [errOnce]
  split
  · rfl
  · exact csrGet_csrPut_same s h _ _

theorem csrGet_errOnce_other {b : Nat} (hb : b ≠ a) : csrGet (errOnce s a valid v) b = csrGet s b := by
  obtain he | he := errOnce_cases s a valid v
  · rw [he]
  · rw [he]; exact csrGet_csrPut_other s h _ _ b hb
end

section
variable {s : State} (k kind num cause : Nat)

theorem synMisuse_tiles : (synMisuse s k kind num cause).tiles = s.tiles := by
  rw [synMisuse, raise, sendMsg_tiles, errOnce_tiles]

theorem synMisuse_semQ : (synMisuse s k kind num cause).semQ = s.semQ := by
  rw [synMisuse, raise, sendMsg_semQ, errOnce_semQ]

theorem coreOf_synMisuse (t : Nat) : coreOf (synMisuse s k kind num cause) t = coreOf s t := by
  rw [coreOf, coreOf, tileOf, tileOf, synMisuse_tiles]

variable (h : Inv s)
include h

theorem synMisuse_inv : Inv (synMisuse s k kind num cause) := sendMsg_inv (errOnce_inv _ _ _ h) _

theorem csrGet_synMisuse_other {a : Nat} (ha : a ≠ synErrAddr k) (hl : a ≠ ldgCsr 0x70) : csrGet (synMisuse s k kind num cause) a = csrGet s a := by
  rw [synMisuse, raise, csrGet_sendMsg (errOnce_inv _ _ _ h) _ hl, csrGet_errOnce_other _ _ _ h ha]

theorem misused_synMisuse (hk : k < 256) : Misused s (synMisuse s k kind num cause) k kind num cause := by
  have hl : synErrAddr k ≠ ldgCsr 0x70 := by simp only [synErrAddr, tileCsr, ldgCsr]; omega
  have herr := csrGet_errOnce_same (synErrAddr k) 18 (cause + num % 256 * 2 ^ 8 + kind * 2 ^ 16) h
  rw [← csrGet_sendMsg (errOnce_inv _ _ _ h) _ hl] at herr
  refine ⟨fun h0 => herr.trans (if_neg (by omega)), fun h1 => herr.trans (if_pos h1), fun hroom => reported_raise ?_ _ _ _⟩
  rwa [LedgerRoom, errOnce_ledger]
end

/-! ### Retirement -/

theorem coreOf_retire {s : State} (h : Inv s) (k : Nat) : coreOf (retire s k) k = { coreOf s k with pc := nextPc s k } := by
  rw [retire, csrAdd, coreOf_csrPut, coreOf_setCore s h, if_pos rfl, nextPc]

theorem Misused.retire {s u : State} {k kind num cause : Nat} (hu : Inv u) (hm : Misused s u k kind num cause) :
    Misused s (retire u k) k kind num cause := by
  have he : csrGet (Machine.retire u k) (synErrAddr k) = csrGet u (synErrAddr k) :=
    (actsOnTile_retire hu k).csrs _ (by simp only [List.mem_singleton, synErrAddr, tileCsr]; omega)
  exact ⟨fun h0 => he.trans (hm.err h0), fun h1 => he.trans (hm.kept h1), hm.told⟩

/-- An instruction that only retires does nothing else. -/
theorem computed_retire {s : State} (h : Inv s) (k : Nat) : Computed s (retire s k) k (nextPc s k) [] := by
  have hacts := actsOnTile_retire h k
  refine ⟨⟨?state, hacts.others, ?engines, by rw [coreOf_retire h], hacts.csrs, ?retired, hacts.mem⟩, by rw [coreOf_retire h]⟩
  case state => simp only [retire, csrAdd, csrPut, setCore, setTile]
  case engines =>
    rw [coreOf_retire h, retire, csrAdd, tileOf_csrPut, tileOf_setCore_same _ h]
    rfl
  case retired =>
    rw [retire, csrAdd, csrGet_csrPut_same _ (setCore_inv _ _ _ h), csrGet_setCore]
    rfl

/-- A register written before an instruction that computes is one more that has changed. -/
theorem Computed.of_csrPut {s u : State} (h : Inv s) {k a : Nat} {v : Word} {pc : BitVec 32} {l : List Nat} (ha : tileCsr k 0x80 ≠ a)
    (hu : Computed (csrPut s a v) u k pc l) : Computed s u k pc (a :: l) where
  state := hu.state
  others := hu.others
  engines := hu.engines
  goes := hu.goes
  csrs b hb := by
    simp only [List.mem_cons, not_or] at hb
    exact (hu.csrs b (by simp [hb])).trans (csrGet_csrPut_other s h a v b hb.2.1)
  retired := by rw [hu.retired, csrGet_csrPut_other s h a v _ ha]
  mem := hu.mem
  core := hu.core

theorem Computed.mono {s u : State} {k : Nat} {pc : BitVec 32} {l l' : List Nat} (h : Computed s u k pc l) (hl : l ⊆ l') : Computed s u k pc l' :=
  { h with csrs := fun a ha => h.csrs a (fun hm => ha (List.cons_subset_cons _ hl hm)) }

end Sys2Proof.Machine
end

section
/-! SUPPORT. SIGNAL, WAIT and TAKE (R289, R290, Table 10-2): what each executes to in its cases, and what that gives. -/

namespace Sys2Proof.Machine
open Sys2Proof

theorem semQueue_retire (s : State) (k j : Nat) : semQueue (retire s k) k j = semQueue s k j := rfl

theorem semVal_retire {s : State} (h : Inv s) (k j : Nat) : semVal (retire s k) k j = semVal s k j :=
  semVal_congr ((actsOnTile_retire h k).csrs _ (by simp only [List.mem_singleton, semAddr, tileCsr]; omega))

/-! ### Units taken, and waits queued -/

/-- The state after `amt` units of a semaphore have been taken. -/
def takeUnits (s : State) (k j amt : Nat) : State := if amt = 0 then s else csrSetF s (semAddr k j) 0 32 (semVal s k j - amt)

/-- The state after the core's wait for `amt` units has joined the tail of a semaphore's queue. -/
def joinQueue (s : State) (k j amt : Nat) : State :=
  coreBlock (setSemQueue s k j (semQueue s k j ++ [⟨0, amt, s.now⟩])) k (.sem j amt)

theorem semWait_served {s : State} {k j amt : Nat} (hs : amt = 0 ∨ (semQueue s k j = [] ∧ amt ≤ semVal s k j)) (who : Nat) :
    semWait s k j amt who = (true, takeUnits s k j amt) := by
  rw [semWait, takeUnits]
  split
  · rfl
  next h0 => rw [if_pos (hs.resolve_left h0)]

theorem not_served {s : State} {k j amt : Nat} (hw : semQueue s k j ≠ [] ∨ semVal s k j < amt) : ¬(semQueue s k j = [] ∧ amt ≤ semVal s k j) :=
  fun hs => hw.elim (fun hq => hq hs.1) (fun hv => Nat.not_le_of_lt hv hs.2)

theorem semWait_queued {s : State} {k j amt : Nat} (h0 : 0 < amt) (hw : semQueue s k j ≠ [] ∨ semVal s k j < amt) (who : Nat) :
    semWait s k j amt who = (false, setSemQueue s k j (semQueue s k j ++ [⟨who, amt, s.now⟩])) := by
  rw [semWait, if_neg (Nat.ne_of_gt h0), if_neg (not_served hw)]

section
variable {s : State} (h : Inv s) (k j : Nat) (amt : Nat)
include h

theorem takeUnits_inv : Inv (takeUnits s k j amt) := by
  rw [takeUnits]
  split
  · exact h
  · exact csrSetF_inv s _ _ _ _ h

theorem semVal_takeUnits : semVal (takeUnits s k j amt) k j = semVal s k j - amt := by
  rw [takeUnits]
  split
  next h0 => rw [h0, Nat.sub_zero]
  · exact semVal_setVal h k j (Nat.lt_of_le_of_lt (Nat.sub_le _ _) (semVal_lt s k j))

theorem computed_retire_takeUnits : Computed s (retire (takeUnits s k j amt) k) k (nextPc s k) [semAddr k j] := by
  rw [takeUnits]
  split
  · exact (computed_retire h k).mono (List.nil_subset _)
  · exact (computed_retire (csrSetF_inv s _ _ _ _ h) k).of_csrPut h (by simp only [semAddr, tileCsr]; omega)

theorem coreOf_retire_takeUnits : coreOf (retire (takeUnits s k j amt) k) k = { coreOf s k with pc := nextPc s k } := by
  rw [coreOf_retire (takeUnits_inv h k j amt), nextPc, takeUnits]
  split <;> rfl
end

/-! ### What is executed -/

theorem exec_signal (t : BitVec 8) (ra rb : BitVec 5) (num : BitVec 12) (s : State) : exec (.signal t ra rb num) s = execSignal t ra rb num s := rfl
theorem exec_wait (t : BitVec 8) (ra rb : BitVec 5) (num : BitVec 12) (s : State) : exec (.wait t ra rb num) s = execWait t ra rb num s := rfl
theorem exec_take (t : BitVec 8) (ra rb : BitVec 5) (num : BitVec 12) (s : State) : exec (.take t ra rb num) s = execTake t ra rb num s := rfl

theorem toNat_semNumber (n : BitVec 8) : (n.zeroExtend 12 : BitVec 12).toNat = n.toNat := BitVec.toNat_setWidth_of_le (by decide)

section
variable {s : State} {t : BitVec 8} {ra : BitVec 5} {n : BitVec 8} (hgo : coreGo s t.toNat = true) (hbusy : regBusy (coreOf s t.toNat) [ra] = false)
include hgo hbusy

/-- A SYNC instruction on a semaphore, whose number has 8 bits, is legal. -/
theorem coreStep_semaphore (eff : State → State) : coreStep s t.toNat (decide (n.toNat < 256)) [ra] eff = .next (eff s) := by
  rw [decide_eq_true n.isLt, coreStep_go s t.toNat [ra] eff hgo hbusy]

variable (rb : BitVec 5)

theorem exec_signal_held (hr : coreReleased (releaseFlush s (agentOf t.toNat 0)) t.toNat = false) :
    exec (.signal t ra rb (n.zeroExtend 12)) s = .next (releaseFlush s (agentOf t.toNat 0)) := by
  rw [exec_signal, execSignal, toNat_semNumber, coreStep_semaphore hgo hbusy, afterRelease, hr]
  rfl

theorem exec_signal_released (h : Inv s) (hr : coreReleased (releaseFlush s (agentOf t.toNat 0)) t.toNat = true) :
    exec (.signal t ra rb (n.zeroExtend 12)) s =
      .next (retire (signalOrErr (releaseFlush s (agentOf t.toNat 0)) t.toNat n.toNat (syncAmount (coreOf s t.toNat) ra)) t.toNat) := by
  rw [exec_signal, execSignal, toNat_semNumber, coreStep_semaphore hgo hbusy, afterRelease, if_pos hr, (drained_releaseFlush h _).coreOf]

variable {amt : Nat} (hamt : syncAmount (coreOf s t.toNat) ra = amt)
include hamt

section
variable (hs : amt = 0 ∨ (semQueue s t.toNat n.toNat = [] ∧ amt ≤ semVal s t.toNat n.toNat))
include hs

theorem exec_wait_served : exec (.wait t ra rb (n.zeroExtend 12)) s = .next (retire (takeUnits s t.toNat n.toNat amt) t.toNat) := by
  rw [exec_wait, execWait, toNat_semNumber, coreStep_semaphore hgo hbusy, hamt]
  simp only [semWait_served hs]

theorem exec_take_served : exec (.take t ra rb (n.zeroExtend 12)) s = .next (retire (takeUnits s t.toNat n.toNat amt) t.toNat) := by
  rw [exec_take, execTake, toNat_semNumber, coreStep_semaphore hgo hbusy, hamt, takeUnits]
  by_cases h0 : amt = 0
  · simp only [if_pos h0]
  · simp only [if_neg h0, if_pos (hs.resolve_left h0)]
end

section
variable (h0 : 0 < amt) (hw : semQueue s t.toNat n.toNat ≠ [] ∨ semVal s t.toNat n.toNat < amt)
include h0 hw

theorem exec_wait_queued : exec (.wait t ra rb (n.zeroExtend 12)) s = .next (joinQueue s t.toNat n.toNat amt) := by
  rw [exec_wait, execWait, toNat_semNumber, coreStep_semaphore hgo hbusy, hamt]
  simp only [semWait_queued h0 hw, joinQueue]

theorem exec_take_short : exec (.take t ra rb (n.zeroExtend 12)) s = .next (retire (synMisuse s t.toNat 0 n.toNat 1) t.toNat) := by
  rw [exec_take, execTake, toNat_semNumber, coreStep_semaphore hgo hbusy, hamt]
  simp only [if_neg (Nat.ne_of_gt h0), if_neg (not_served hw)]
end
end

/-! ### What it gives -/

section
variable {s : State} (h : Inv s) (k j : Nat)
include h

/-- A signal that does not overflow: the units are added, the queue is served from the head, and the signalling instruction retires. -/
theorem retire_signal_serves {amt : Nat} (h0 : 0 < amt) (hv : semVal s k j + amt < 2 ^ 32) :
    ActsOnTile k [semAddr k j, tileCsr k 0x80, watchAddr k, tileCsr k 0x30] s (retire (signalOrErr s k j amt) k) ∧
      ServedInOrder (semQueue s k j) (semVal s k j + amt) (retire (signalOrErr s k j amt) k) k j := by
  obtain ⟨hacts, hserved⟩ := signalOrErr_serves h h0 hv
  exact ⟨hacts.trans ((actsOnTile_retire hacts.inv k).mono (by simp)), hserved.congr (semQueue_retire _ k j) (semVal_retire hacts.inv k j)⟩

/-- A misuse of a semaphore by an instruction that then retires: it is recorded, and VALUE, the queue and the core are as they were. -/
theorem retire_synMisuse (hk : k < 256) (hj : j < 256) (cause : Nat) :
    Misused s (retire (synMisuse s k 0 j cause) k) k 0 j cause ∧
      coreOf (retire (synMisuse s k 0 j cause) k) k = { coreOf s k with pc := nextPc s k } ∧
      semVal (retire (synMisuse s k 0 j cause) k) k j = semVal s k j ∧ semQueue (retire (synMisuse s k 0 j cause) k) k j = semQueue s k j := by
  have hm := synMisuse_inv k 0 j cause h
  refine ⟨(misused_synMisuse k 0 j cause h hk).retire hm, ?core, ?value, ?queue⟩
  case core => rw [coreOf_retire hm, nextPc, coreOf_synMisuse, nextPc]
  case value =>
    rw [semVal_retire hm]
    exact semVal_congr (csrGet_synMisuse_other k 0 j cause h (by simp only [semAddr, synErrAddr, tileCsr]; omega)
      (by simp only [semAddr, ldgCsr, tileCsr]; omega))
  case queue => rw [semQueue_retire, semQueue_congr (synMisuse_semQ k 0 j cause)]

/-- An instruction that takes its units and retires does nothing else. -/
theorem retire_takeUnits (amt : Nat) :
    Computed s (retire (takeUnits s k j amt) k) k (nextPc s k) [semAddr k j] ∧
      coreOf (retire (takeUnits s k j amt) k) k = { coreOf s k with pc := nextPc s k } ∧
      semVal (retire (takeUnits s k j amt) k) k j = semVal s k j - amt :=
  ⟨computed_retire_takeUnits h k j amt, coreOf_retire_takeUnits h k j amt,
    (semVal_retire (takeUnits_inv h k j amt) k j).trans (semVal_takeUnits h k j amt)⟩

/-- A wait that is queued stands at the tail of the queue, and blocks its core. -/
theorem joinQueue_queued (amt : Nat) :
    semQueue (joinQueue s k j amt) k j = semQueue s k j ++ [⟨0, amt, s.now⟩] ∧
      coreOf (joinQueue s k j amt) k = { coreOf s k with blocked := some (.sem j amt) } ∧
      (joinQueue s k j amt).csr = s.csr ∧ SameMem s (joinQueue s k j amt) := by
  refine ⟨semQueue_setSemQueue h k j _, ?_, rfl, fun _ => rfl⟩
  rw [joinQueue, coreBlock, coreOf_setCore _ (setSemQueue_inv h k j _), if_pos rfl]
  rfl
end

/-- Settles O11: the queue is served by induction on its length, and each instruction is taken apart by the cases of its amount, VALUE and the queue. -/
theorem semaphoresServeTheirQueueInOrder : Obligations.SemaphoresServeTheirQueueInOrder := by
  unfold Obligations.SemaphoresServeTheirQueueInOrder
  intro s t ra rb n k c s1 amt num j v h hgo hbusy
  have hflush : Drained s s1 := drained_releaseFlush h _
  have hcore : coreOf s1 k = c := hflush.coreOf k
  have hpc : nextPc s1 k = nextPc s k := by rw [nextPc, nextPc, hflush.coreOf]
  have hval : semVal s1 k j = v := hflush.semVal t.isLt n.isLt
  have hqueue : semQueue s1 k j = semQueue s k j := semQueue_congr hflush.semQ k j
  have hsignal (hr : coreReleased s1 k = true) : exec (.signal t ra rb num) s = .next (retire (signalOrErr s1 k j amt) k) :=
    exec_signal_released hgo hbusy rb h hr
  refine ⟨exec_signal_held hgo hbusy rb, fun hr h0 => ?zero, fun hr h0 hv => ?serves, fun hr h0 hv => ?overflow, fun hs => ?served, fun h0 hw => ?short⟩
  case zero =>
    refine ⟨_, hsignal hr, ?_⟩
    rw [h0, signalOrErr_zero, ← hpc, ← hcore]
    exact ⟨computed_retire hflush.inv k, (actsOnTile_retire hflush.inv k).regs⟩
  case serves =>
    obtain ⟨hacts, hserved⟩ := retire_signal_serves hflush.inv k j h0 (by rw [hval]; exact hv)
    rw [hqueue, hval] at hserved
    exact ⟨_, hsignal hr, hserved, hacts.regs.trans (by rw [hcore]), hacts.preds.trans (by rw [hcore]), hacts.mem, hacts.others, hacts.csrs⟩
  case overflow =>
    obtain ⟨hmis, hc, hv', hq⟩ := retire_synMisuse hflush.inv k j t.isLt n.isLt 2
    refine ⟨_, hsignal hr, ?_⟩
    rw [signalOrErr_overflow h0 (by rw [hval]; exact hv)]
    exact ⟨hmis, hv'.trans hval, hq.trans hqueue, by rw [hc, hpc]⟩
  case served =>
    exact ⟨⟨_, exec_wait_served hgo hbusy rb rfl hs, retire_takeUnits h k j amt⟩,
      ⟨_, exec_take_served hgo hbusy rb rfl hs, retire_takeUnits h k j amt⟩⟩
  case short =>
    exact ⟨⟨_, exec_wait_queued hgo hbusy rb rfl h0 hw, joinQueue_queued h k j amt⟩,
      ⟨_, exec_take_short hgo hbusy rb rfl h0 hw, retire_synMisuse h k j t.isLt n.isLt 1⟩⟩

end Sys2Proof.Machine
end
